-- ==== Sys2Proof/Word.lean ====
section
/-!
DEFINITION. The word types and the plainest readings of them (R5: little-endian, bit 0 least significant).
-/

namespace Sys2Proof

/-- A register word: 32 bits. -/
abbrev Word := BitVec 32

/-- A byte. -/
abbrev Byte := BitVec 8

end Sys2Proof
end

