-- ==== Sys2Proof/Syntax.lean ====
section
/-!
DEFINITION. The commands of the KD192: every operation and event of the operation table, with its operands.
`b` names a byre; `e` and `t` an engine of it and one of its threads; `dt` is the time, in ns of the byre's or the
creamery's own clock, since its previous step, for an event that comes from outside.
-/

namespace Sys2Proof

/-- The masters of the management bus (R28). -/
inductive Master where
  /-- management processor -/
  | mp
  /-- host through BAR index 0 -/
  | bar0
  /-- host through BAR index 2 -/
  | bar2
  | jtag
  /-- creamery tanker -/
  | tanker
  deriving DecidableEq, Repr

/-- Who writes a register that both management and an engine thread can reach. -/
inductive Src where
  | mgmt (m : Master)
  | thread (e : Fin 32) (t : Fin 8)
  deriving DecidableEq, Repr

/-- Addressing mode of a load or store (R226): MODE 0b00 to 0b11. -/
inductive Mode where
  /-- offset Ab + IMM13 -/
  | disp (imm : BitVec 13)
  /-- offset Ab, then Ab := Ab + IMM13 -/
  | post (imm : BitVec 13)
  /-- offset Ab + IMM13, then Ab := that offset -/
  | pre (imm : BitVec 13)
  /-- offset Ab + (Dk × 2^SC) -/
  | index (dk : Fin 16) (sc : BitVec 2)
  deriving DecidableEq, Repr

/-- When a line event is seen: `dt` since the byre's previous step, and the `held` ns the line has been as it is (R98). -/
structure LineTime where
  dt : Nat
  held : Nat
  deriving DecidableEq, Repr

/-- The refusal bit of a link word (R354), and whether it refuses a send before the latest one (assumption log entry 89). -/
structure NakField where
  nak : Bool
  late : Bool
  deriving DecidableEq, Repr

/-- What a command's input buffer in host memory gives: its bytes, none where the host does not answer; and, where the
command is aborted between its parts, the number of parts then done (R415). -/
structure HostRead where
  bytes : Option (List Byte)
  part : Option Nat
  deriving DecidableEq, Repr

/-- The command slot of an export and, where it is aborted between its parts, the number of parts then done (R415). -/
structure ExportSlot where
  n : Fin 8
  part : Option Nat
  deriving DecidableEq, Repr

/-- A wake event (R490): the level its input goes to, and whether the rails then report power good. -/
structure WakeLevel where
  high : Bool
  pgood : Bool
  deriving DecidableEq, Repr

/-- Power-on reset (R497): it is released (`rise`) or asserted; `slow` is the level of CRM_PMB_SLOW, sampled at its release (R509). -/
structure PorPin where
  rise : Bool
  slow : Bool
  deriving DecidableEq, Repr

/-- The commands of the machine: one constructor per row of the operation table, in its order. -/
inductive Instr where
  /-- REGISTER_WRITE (R19): A management write to a register that has no row of its own is applied, or refused and recorded under R9, R19 and R28. -/
  | registerWrite (m : Master) (a : Word) (v : Word)
  /-- RC_READ (R8): A read of an RC field returns the stored value and clears it in the same access, keeping that cycle's hardware update. -/
  | rcRead (m : Master) (a : Word)
  /-- TIME_SEC_LO_READ (R32): A read of BYx_TIME_SEC_LO copies the whole counter into the read-port latch that SEC_HI and NS then return. -/
  | timeSecLoRead (b : Fin 6) (m : Master)
  /-- OCTET_LO_READ (R126): A read of a port octet counter's LO register latches its HI register. -/
  | octetLoRead (b : Fin 6) (m : Master) (p : Fin 24) (tx : Bool)
  /-- MONO_LO_READ (R55): A read of BYx_TIME_MONO_LO latches MONO_HI. -/
  | monoLoRead (b : Fin 6) (m : Master)
  /-- HOST_WINDOW_READ (R405): A host read through BAR index 2 returns the mapped vat bank byte, or 0 with an error recorded under R28. -/
  | hostWindowRead (p : Fin 256) (o : BitVec 18)
  /-- SERVO_REQ_NONE (R36): The servo thread writes BYx_TIME_SERVO with KEEP 0 and REQ none, moving LOCKED or ACQUIRING to HOLDOVER or FREE and restarting the watchdog. -/
  | servoReqNone (b : Fin 6) (src : Src) (bound : BitVec 24)
  /-- SERVO_REQ_ACQUIRING (R36): The servo thread requests ACQUIRING with KEEP 0, changing state, taking BOUND_NS and restarting the watchdog. -/
  | servoReqAcquiring (b : Fin 6) (src : Src) (bound : BitVec 24)
  /-- SERVO_REQ_LOCKED (R36): The servo thread requests LOCKED with KEEP 0; applied from ACQUIRING, refused and counted in FREE or HOLDOVER. -/
  | servoReqLocked (b : Fin 6) (src : Src) (bound : BitVec 24)
  /-- SERVO_KEEP (R36): A write of BYx_TIME_SERVO with KEEP 1 only restarts the servo watchdog. -/
  | servoKeep (b : Fin 6) (src : Src)
  /-- SERVO_WATCHDOG_EXPIRY (R36): The 2 s servo watchdog expires, moving LOCKED or ACQUIRING to HOLDOVER or FREE and counting the expiry. -/
  | servoWatchdogExpiry (b : Fin 6)
  /-- TIME_STEP_REQUEST (R41): A write to BYx_TIME_STEP_NS requests a step and sets STEP_PEND unless a step is already pending. -/
  | timeStepRequest (b : Fin 6) (src : Src) (v : Word)
  /-- TIME_STEP_APPLY (R41): The pending step is applied at the next tick boundary, or in the next cycle when no tick runs, and STEP_PEND clears. -/
  | timeStepApply (b : Fin 6)
  /-- LEAP_SECOND_APPLY (R33): At the leap instant the UTC offset changes by one second, and LEAP61 or LEAP59 clears. -/
  | leapSecondApply (b : Fin 6)
  /-- ERR_BOUND_UPDATE (R37): The time unit recomputes BYx_TIME_ERR_BOUND at each boundary, or each millisecond when no tick runs. -/
  | errBoundUpdate (b : Fin 6) (dt : Nat)
  /-- REFCLK_LOSS (R39): Loss of Bn_REFCLK for more than 1 µs stops the counter, sets CLK_FAIL and raises a byre machine check. -/
  | refclkLoss (b : Fin 6)
  /-- REFCLK_RETURN (R39): Once REFCLK_OK has been set for 1 ms, CLK_FAIL clears and the counter is loaded from the coarse clock in FREE. -/
  | refclkReturn (b : Fin 6)
  /-- PPS_OUT_EDGE (R44): At each second boundary plus PPS_OUT_OFS, Bn_PPS_OUT presents its active edge. -/
  | ppsOutEdge (b : Fin 6)
  /-- PPS_PULSE_END (R44): After WIDTH_US, the PPS output pulse ends. -/
  | ppsPulseEnd (b : Fin 6)
  /-- PPS_IN_EDGE (R45): A filtered Bn_PPS_IN edge is captured into DIFF, with an alarm and event when DIFF exceeds THRESH_NS. -/
  | ppsInEdge (b : Fin 6) (dt : Nat) (rise : Bool)
  /-- PPS_IN_MISSING (R45): No PPS input edge arrives for 1.5 s, and PPS_IN_MISSING is set. -/
  | ppsInMissing (b : Fin 6)
  /-- TICK_BOUNDARY (R73): The time unit issues a tick boundary, and the churn runs the boundary routine and starts or pends the next plan. -/
  | tickBoundary (b : Fin 6) (inRoutine : Bool)
  /-- PENDING_PLAN_START (R74): A pending plan starts 4 churn cycles after the previous plan ends, applying any flip due at its boundary. -/
  | pendingPlanStart (b : Fin 6)
  /-- NOP (R67): Schedule word NOP costs one churn cycle and does nothing. -/
  | nop (b : Fin 6)
  /-- WAIT_OFS (R67): Schedule word WAIT_OFS waits until B_t + OFS_NS, or continues at once if that time has passed. -/
  | waitOfs (b : Fin 6)
  /-- WAIT_OFS_MET (R67): The byre time reaches the WAIT_OFS instant, and the churn fetches the next word. -/
  | waitOfsMet (b : Fin 6)
  /-- SEAL (R67): Schedule word SEAL queues the seal of every due, unsealed tick of its group. -/
  | seal (b : Fin 6)
  /-- DISPATCH (R67): Schedule word DISPATCH places an operation on the rota ready list. -/
  | dispatch (b : Fin 6)
  /-- DISPATCH_STALL_END (R208): A ready-list entry frees, and a DISPATCH or recompute waiting for one completes its enqueue. -/
  | dispatchStallEnd (b : Fin 6)
  /-- TANKER (R299): Schedule word TANKER loads a channel's shadow set from a descriptor and arms it, or counts a refusal. -/
  | tanker (b : Fin 6)
  /-- LAUNCH (R323): Schedule word LAUNCH writes a calendar entry for B_(t+AHEAD) + OFS_NS from a committed result slot. -/
  | launch (b : Fin 6)
  /-- AUDIT (R81): Schedule word AUDIT checks the books of the conserved quantities selected by MASK. -/
  | audit (b : Fin 6)
  /-- SWAP (R87): Schedule word SWAP checks the binding against BADENG and schedules a binding flip for the next k = 0. -/
  | swap (b : Fin 6)
  /-- LOOP (R69): Schedule word LOOP runs the words up to LAST COUNT times. -/
  | loop (b : Fin 6)
  /-- COMMIT (R76): Schedule word COMMIT waits until every operation and recompute of the plan has ended. -/
  | commit (b : Fin 6)
  /-- COMMIT_INSTANT (R76): The commit wait ends and the tick's results become visible, with the commit offset recorded and judged against the deadline. -/
  | commitInstant (b : Fin 6)
  /-- HANDOVER (R282): Schedule word HANDOVER hands a vat bank to an owner, at once or pending the old tanker owner. -/
  | handover (b : Fin 6)
  /-- SWEEP (R145): Schedule word SWEEP deletes superseded, retired and aged exact-match entries in a bucket range. -/
  | sweep (b : Fin 6)
  /-- RECORD (R392): Schedule word RECORD appends the group's last sealed snapshot, and tally records, to the recorder. -/
  | record (b : Fin 6)
  /-- EVENT (R67): Schedule word EVENT raises a mailbox event with CODE and the tick identity. -/
  | event (b : Fin 6)
  /-- END (R67): Schedule word END ends the plan, and the churn idles until the next boundary. -/
  | planEnd (b : Fin 6)
  /-- OVERRUN (R78): A tick not committed at its overrun threshold is counted, its operations are ended, its results invalidated and only ALWAYS words run. -/
  | overrun (b : Fin 6)
  /-- RECOMPUTE_REQUEST (R80): The churn re-enqueues a named operation once with its original budget, home and spill. -/
  | recomputeRequest (b : Fin 6) (inRoutine : Bool)
  /-- EPOCH_ARM (R84): A write of ARM to BYx_CHURN_ARM arms the standby banks for ARM_SEC:ARM_K, or refuses with REFUSE_CODE. -/
  | epochArm (b : Fin 6) (m : Master) (cancel : Bool) (inRoutine : Bool)
  /-- EPOCH_CANCEL (R85): A write of CANCEL removes a pending arm unless it is too late. -/
  | epochCancel (b : Fin 6) (m : Master)
  /-- VERIFIED_STBY_SET (R83): A write of VERIFIED_STBY sets VERIFIED of the standby schedule bank. -/
  | verifiedStbySet (b : Fin 6) (m : Master)
  /-- FREEZE (R82): A write of FREEZE in BYx_CHURN_CTRL requests or releases a debug freeze, applied only in TEST under Maker unlock. -/
  | freeze (b : Fin 6) (m : Master) (v : Bool) (inRoutine : Bool)
  /-- BYRE_FAULT_ENTRY (R468): The byre enters FAULTED, stopping churn, engines, tankers and press and driving pins safe and Bn_OK low. -/
  | byreFaultEntry (b : Fin 6)
  /-- FRAME_RECEIVE (R95): A frame's last byte arrives at a port, and the MAC checks it and stores it in a pail with its stamp. -/
  | frameReceive (b : Fin 6) (p : Fin 22) (dt : Nat) (bytes : List Byte) (good : Bool)
  /-- PRIORITY_FRAME_TRANSMIT (R109): A port starts a frame from its highest non-empty priority queue when the line and guard band allow. -/
  | priorityFrameTransmit (b : Fin 6) (p : Fin 22) (dt : Nat)
  /-- PORT_UP (R98): A port whose PCS has been in lock for UP_MS goes up and sets LINK. -/
  | portUp (b : Fin 6) (p : Fin 24) (dt : LineTime) (speed : BitVec 2)
  /-- PORT_DOWN (R99): A port whose link condition has failed for DOWN_US goes down, flushing its queues and aborting the current frame. -/
  | portDown (b : Fin 6) (p : Fin 24) (dt : LineTime) (why : BitVec 3) (part : Bool)
  /-- SWITCH_FRAME_DELIVERY (R108): A frame copy leaves the resequencer and is reassembled at its switch output. -/
  | switchFrameDelivery (b : Fin 6) (i : Fin 28) (o : Fin 28)
  /-- CREDIT_TOTAL_WRITE (R105): A write of TOTAL in BYx_SW_CREDIT changes the output's credit pool, keeping any shortfall as a deficit. -/
  | creditTotalWrite (b : Fin 6) (m : Master) (o : Fin 32) (v : BitVec 11)
  /-- PORT_CALENDAR_LAUNCH (R326): A port calendar entry's instant arrives, and the port launches its frame with the timestamp point at L. -/
  | portCalendarLaunch (b : Fin 6) (p : Fin 24)
  /-- PIN_CALENDAR_LAUNCH (R327): A pin calendar entry's instant arrives, and the pin drives its level and starts or stops the pulse timer. -/
  | pinCalendarLaunch (b : Fin 6) (m : Fin 16)
  /-- TALLY_RECORD_WRITE (R123): The tally tanker writes the head record of the capture queue into the tally ring. -/
  | tallyRecordWrite (b : Fin 6)
  /-- TALLY_RD_ADVANCE (R123): A thread's write to the tally RD advance word adds the value to RD. -/
  | tallyRdAdvance (b : Fin 6) (e : Fin 32) (v : Word)
  /-- FRAME_CLASSIFY (R127): A stored frame passes parse and classify, fragment, duplicate, learning, lookup and destination stages. -/
  | frameClassify (b : Fin 6) (i : Fin 28)
  /-- FRAGMENT_TIMEOUT (R136): A fragment table entry expires after FRAG_TIMEOUT_MS and is freed. -/
  | fragmentTimeout (b : Fin 6) (i : Fin 256)
  /-- INLINE_AUTH (R268): A strainer takes a frame from the in-line queue and verifies its IEC 62351-6 MAC, passing or dropping it. -/
  | inlineAuth (b : Fin 6)
  /-- SKIM_ENT_READ (R134): BYx_SKIM_ENT_CMD read fills the key, mask and action registers from an entry of either bank. -/
  | skimEntRead (b : Fin 6) (m : Master) (bank : Bool) (i : Fin 4096)
  /-- SKIM_ENT_WRITE (R134): BYx_SKIM_ENT_CMD write stores an entry whole into the addressed bank, or refuses a reserved encoding. -/
  | skimEntWrite (b : Fin 6) (m : Master) (bank : Bool) (i : Fin 4096)
  /-- SKIM_ENT_INVALIDATE (R134): BYx_SKIM_ENT_CMD invalidate writes an entry's value, mask and action as 0. -/
  | skimEntInvalidate (b : Fin 6) (m : Master) (bank : Bool) (i : Fin 4096)
  /-- EMU_INSERT (R141): An exact-match insert places, replaces or schedules an entry, or returns a refusal RESULT. -/
  | emuInsert (b : Fin 6) (m : Master)
  /-- EMU_DELETE_BY_KEY (R141): An exact-match delete by key removes the key's entries or future successor. -/
  | emuDeleteByKey (b : Fin 6) (m : Master)
  /-- EMU_READ_BY_KEY (R141): An exact-match read by key returns the key's entry into BYx_EMU_ENTn. -/
  | emuReadByKey (b : Fin 6) (m : Master)
  /-- EMU_READ_BY_LOCATION (R141): An exact-match read by location returns the entry at LOC. -/
  | emuReadByLocation (b : Fin 6) (m : Master) (loc : BitVec 17)
  /-- EMU_DELETE_ALL_KT (R141): An exact-match delete of one key type removes every entry of that KT outside RUNNING and DEGRADED. -/
  | emuDeleteAllKt (b : Fin 6) (m : Master)
  /-- NOTE_REMOVE (R149): Writing 1 to VALID of BYx_EMU_NOTE2 removes the oldest learning note and shows the next. -/
  | noteRemove (b : Fin 6) (m : Master)
  /-- PRESS_FRAME (R159): The press takes a frame from its input buffer, checks it and writes each ASDU's sample into its open group slots. -/
  | pressFrame (b : Fin 6)
  /-- SEAL_PASS (R169): The press seals one queued group tick: records decided, header and CRC written, seal area copied and pails returned. -/
  | sealPass (b : Fin 6)
  /-- PRESS_PORT_GO (R168): A thread's GO write to its press-port window places a sample or extension entries and answers in STATUS. -/
  | pressPortGo (b : Fin 6) (e : Fin 32) (t : Fin 8)
  /-- PRESS_CFG_READ (R186): BYx_PRESS_CFG_CMD read fills the data registers from a stream, group or template entry. -/
  | pressCfgRead (b : Fin 6) (m : Master) (bank : Bool) (table : BitVec 2) (i : Fin 4096)
  /-- PRESS_CFG_WRITE (R153): BYx_PRESS_CFG_CMD write stores a press table entry, refused for the live bank while running or for reserved bits. -/
  | pressCfgWrite (b : Fin 6) (m : Master) (bank : Bool) (table : BitVec 2) (i : Fin 4096)
  /-- LATE_ENTRY_APPEND (R392): A late sample from the press queue is appended to the recorder as a LATE entry. -/
  | lateEntryAppend (b : Fin 6)
  /-- ENGINE_START (R195): A write of START to ENG_CTRL starts an engine with T0 at ENG_VECTOR. -/
  | engineStart (b : Fin 6) (m : Master) (e : Fin 32)
  /-- ENGINE_STOP (R196): A write of STOP to ENG_CTRL stops every thread of the engine and resets their lock identities. -/
  | engineStop (b : Fin 6) (m : Master) (e : Fin 32)
  /-- SIGNAL_WRITE (R198): A store to the SIGNAL word latches event SIGNAL in the named threads. -/
  | signalWrite (b : Fin 6) (e : Fin 32) (mask : BitVec 8)
  /-- WFE_WAKE (R198): A masked event latches for a waiting thread, which wakes in the next cycle with its status word. -/
  | wfeWake (b : Fin 6) (e : Fin 32) (t : Fin 8)
  /-- OPERATION_PLACE (R206): The rota places a ready operation on a free thread of the affinity, cluster or byre engine. -/
  | operationPlace (b : Fin 6)
  /-- INGRESS_FRAME (R211): The rota takes a frame from output 24 and enters an ingress operation or posts it to a bound thread. -/
  | ingressFrame (b : Fin 6)
  /-- POST_HEAD_REMOVE (R212): A write to HEAD_PAIL removes the head of the bound thread's post queue. -/
  | postHeadRemove (b : Fin 6) (e : Fin 32) (t : Fin 8)
  /-- BUDGET_OVERRUN (R202): An operation's instruction count reaches BUDGET, so it ends with status BUDGET and trap 0x07. -/
  | budgetOverrun (b : Fin 6) (e : Fin 32) (t : Fin 8)
  /-- ING_ENTRY_READ (R211): BYx_ROTA_ING_CMD read fills the data registers from an ingress entry. -/
  | ingEntryRead (b : Fin 6) (m : Master) (bank : Bool) (i : Fin 1024)
  /-- ING_ENTRY_WRITE (R213): BYx_ROTA_ING_CMD write stores an ingress entry into the addressed bank, or refuses it. -/
  | ingEntryWrite (b : Fin 6) (m : Master) (bank : Bool) (i : Fin 1024)
  /-- IND_DATA_READ (R190): A read of BYx_ROTA_IND_DATA returns a scratch word and steps the offset. -/
  | indDataRead (b : Fin 6) (m : Master)
  /-- IND_DATA_WRITE (R190): A write of BYx_ROTA_IND_DATA stores a scratch word in HELD, READY or TEST and steps the offset. -/
  | indDataWrite (b : Fin 6) (m : Master) (v : Word)
  /-- ADD (R222): ALU instruction ADD writes Ds + Dt. -/
  | add (b : Fin 6) (e : Fin 32) (t : Fin 8) (rd : Fin 16) (rs : Fin 16) (rt : Fin 16)
  /-- SUB (R222): ALU instruction SUB writes Ds − Dt. -/
  | sub (b : Fin 6) (e : Fin 32) (t : Fin 8) (rd : Fin 16) (rs : Fin 16) (rt : Fin 16)
  /-- ADDS (R222): ALU instruction ADDS writes the saturated sum. -/
  | adds (b : Fin 6) (e : Fin 32) (t : Fin 8) (rd : Fin 16) (rs : Fin 16) (rt : Fin 16)
  /-- SUBS (R222): ALU instruction SUBS writes the saturated difference. -/
  | subs (b : Fin 6) (e : Fin 32) (t : Fin 8) (rd : Fin 16) (rs : Fin 16) (rt : Fin 16)
  /-- AND (R222): ALU instruction AND writes the bitwise AND. -/
  | and (b : Fin 6) (e : Fin 32) (t : Fin 8) (rd : Fin 16) (rs : Fin 16) (rt : Fin 16)
  /-- OR (R222): ALU instruction OR writes the bitwise OR. -/
  | or (b : Fin 6) (e : Fin 32) (t : Fin 8) (rd : Fin 16) (rs : Fin 16) (rt : Fin 16)
  /-- XOR (R222): ALU instruction XOR writes the bitwise XOR. -/
  | xor (b : Fin 6) (e : Fin 32) (t : Fin 8) (rd : Fin 16) (rs : Fin 16) (rt : Fin 16)
  /-- ANDN (R222): ALU instruction ANDN writes Ds AND NOT Dt. -/
  | andn (b : Fin 6) (e : Fin 32) (t : Fin 8) (rd : Fin 16) (rs : Fin 16) (rt : Fin 16)
  /-- SLL (R222): ALU instruction SLL shifts Ds left. -/
  | sll (b : Fin 6) (e : Fin 32) (t : Fin 8) (rd : Fin 16) (rs : Fin 16) (rt : Fin 16)
  /-- SRL (R222): ALU instruction SRL shifts Ds right with zero fill. -/
  | srl (b : Fin 6) (e : Fin 32) (t : Fin 8) (rd : Fin 16) (rs : Fin 16) (rt : Fin 16)
  /-- SRA (R222): ALU instruction SRA shifts Ds right with sign fill. -/
  | sra (b : Fin 6) (e : Fin 32) (t : Fin 8) (rd : Fin 16) (rs : Fin 16) (rt : Fin 16)
  /-- ROR (R222): ALU instruction ROR rotates Ds right. -/
  | ror (b : Fin 6) (e : Fin 32) (t : Fin 8) (rd : Fin 16) (rs : Fin 16) (rt : Fin 16)
  /-- SLT (R222): ALU instruction SLT writes the signed less-than result. -/
  | slt (b : Fin 6) (e : Fin 32) (t : Fin 8) (rd : Fin 16) (rs : Fin 16) (rt : Fin 16)
  /-- SLTU (R222): ALU instruction SLTU writes the unsigned less-than result. -/
  | sltu (b : Fin 6) (e : Fin 32) (t : Fin 8) (rd : Fin 16) (rs : Fin 16) (rt : Fin 16)
  /-- MIN (R222): ALU instruction MIN writes the signed minimum. -/
  | min (b : Fin 6) (e : Fin 32) (t : Fin 8) (rd : Fin 16) (rs : Fin 16) (rt : Fin 16)
  /-- MAX (R222): ALU instruction MAX writes the signed maximum. -/
  | max (b : Fin 6) (e : Fin 32) (t : Fin 8) (rd : Fin 16) (rs : Fin 16) (rt : Fin 16)
  /-- MINU (R222): ALU instruction MINU writes the unsigned minimum. -/
  | minu (b : Fin 6) (e : Fin 32) (t : Fin 8) (rd : Fin 16) (rs : Fin 16) (rt : Fin 16)
  /-- MAXU (R222): ALU instruction MAXU writes the unsigned maximum. -/
  | maxu (b : Fin 6) (e : Fin 32) (t : Fin 8) (rd : Fin 16) (rs : Fin 16) (rt : Fin 16)
  /-- MUL (R222): ALU instruction MUL writes bits 31:0 of the product. -/
  | mul (b : Fin 6) (e : Fin 32) (t : Fin 8) (rd : Fin 16) (rs : Fin 16) (rt : Fin 16)
  /-- MULH (R222): ALU instruction MULH writes the high word of the signed product. -/
  | mulh (b : Fin 6) (e : Fin 32) (t : Fin 8) (rd : Fin 16) (rs : Fin 16) (rt : Fin 16)
  /-- MULHU (R222): ALU instruction MULHU writes the high word of the unsigned product. -/
  | mulhu (b : Fin 6) (e : Fin 32) (t : Fin 8) (rd : Fin 16) (rs : Fin 16) (rt : Fin 16)
  /-- CLZ (R222): ALU instruction CLZ counts the leading zero bits of Ds. -/
  | clz (b : Fin 6) (e : Fin 32) (t : Fin 8) (rd : Fin 16) (rs : Fin 16)
  /-- ABS (R222): ALU instruction ABS writes the saturated magnitude of Ds. -/
  | abs (b : Fin 6) (e : Fin 32) (t : Fin 8) (rd : Fin 16) (rs : Fin 16)
  /-- ADDI (R223): Immediate instruction ADDI adds a sign-extended IMM18. -/
  | addi (b : Fin 6) (e : Fin 32) (t : Fin 8) (rd : Fin 16) (rs : Fin 16) (imm : BitVec 18)
  /-- SLTI (R223): Immediate instruction SLTI compares signed against IMM18. -/
  | slti (b : Fin 6) (e : Fin 32) (t : Fin 8) (rd : Fin 16) (rs : Fin 16) (imm : BitVec 18)
  /-- SLTIU (R223): Immediate instruction SLTIU compares unsigned against IMM18. -/
  | sltiu (b : Fin 6) (e : Fin 32) (t : Fin 8) (rd : Fin 16) (rs : Fin 16) (imm : BitVec 18)
  /-- ANDI (R223): Immediate instruction ANDI ANDs with a zero-extended IMM18. -/
  | andi (b : Fin 6) (e : Fin 32) (t : Fin 8) (rd : Fin 16) (rs : Fin 16) (imm : BitVec 18)
  /-- ORI (R223): Immediate instruction ORI ORs with a zero-extended IMM18. -/
  | ori (b : Fin 6) (e : Fin 32) (t : Fin 8) (rd : Fin 16) (rs : Fin 16) (imm : BitVec 18)
  /-- XORI (R223): Immediate instruction XORI XORs with a zero-extended IMM18. -/
  | xori (b : Fin 6) (e : Fin 32) (t : Fin 8) (rd : Fin 16) (rs : Fin 16) (imm : BitVec 18)
  /-- LUI (R223): Immediate instruction LUI writes IMM16 × 65,536. -/
  | lui (b : Fin 6) (e : Fin 32) (t : Fin 8) (rd : Fin 16) (imm : BitVec 16)
  /-- SHIFTI (R223): Immediate instruction SHIFTI shifts or rotates Ds by SH as TYPE selects. -/
  | shifti (b : Fin 6) (e : Fin 32) (t : Fin 8) (rd : Fin 16) (rs : Fin 16) (ty : BitVec 2) (sh : BitVec 5)
  /-- ADDAI (R224): Address instruction ADDAI writes As + IMM18. -/
  | addai (b : Fin 6) (e : Fin 32) (t : Fin 8) (ad : Fin 16) (sa : Fin 16) (imm : BitVec 18)
  /-- MOVA (R224): Address instruction MOVA copies an address register. -/
  | mova (b : Fin 6) (e : Fin 32) (t : Fin 8) (ad : Fin 16) (sa : Fin 16)
  /-- ADDA (R224): Address instruction ADDA adds a scaled data register. -/
  | adda (b : Fin 6) (e : Fin 32) (t : Fin 8) (ad : Fin 16) (sa : Fin 16) (dt : Fin 16) (sc : BitVec 2)
  /-- SUBA (R224): Address instruction SUBA subtracts a scaled data register. -/
  | suba (b : Fin 6) (e : Fin 32) (t : Fin 8) (ad : Fin 16) (sa : Fin 16) (dt : Fin 16) (sc : BitVec 2)
  /-- MOVDA (R224): Address instruction MOVDA moves a data register into an address register. -/
  | movda (b : Fin 6) (e : Fin 32) (t : Fin 8) (ad : Fin 16) (ds : Fin 16)
  /-- MOVAD (R224): Address instruction MOVAD moves an address register into a data register. -/
  | movad (b : Fin 6) (e : Fin 32) (t : Fin 8) (dd : Fin 16) (sa : Fin 16)
  /-- MFC (R235): MFC reads a control register into a data register. -/
  | mfc (b : Fin 6) (e : Fin 32) (t : Fin 8) (dx : Fin 16) (cr : BitVec 6)
  /-- MTC (R235): MTC writes a control register, subject to level and reserved checks. -/
  | mtc (b : Fin 6) (e : Fin 32) (t : Fin 8) (dx : Fin 16) (cr : BitVec 6)
  /-- GETC (R237): GETC reads a register of a stopped thread of the same engine. -/
  | getc (b : Fin 6) (e : Fin 32) (t : Fin 8) (th : Fin 8) (cls : BitVec 2) (idx : BitVec 6) (dx : Fin 16)
  /-- PUTC (R237): PUTC writes a register of a stopped thread of the same engine. -/
  | putc (b : Fin 6) (e : Fin 32) (t : Fin 8) (th : Fin 8) (cls : BitVec 2) (idx : BitVec 6) (dx : Fin 16)
  /-- RELEASE (R237): RELEASE starts the stopped threads named in the mask at their CPC. -/
  | release (b : Fin 6) (e : Fin 32) (t : Fin 8) (dx : Fin 16)
  /-- LD (R226): Load instruction LD loads a word through a segment with the selected addressing mode. -/
  | ld (b : Fin 6) (e : Fin 32) (t : Fin 8) (rt : Fin 16) (ab : Fin 16) (seg : Fin 8) (m : Mode)
  /-- LDH (R226): Load instruction LDH loads a sign-extended halfword. -/
  | ldh (b : Fin 6) (e : Fin 32) (t : Fin 8) (rt : Fin 16) (ab : Fin 16) (seg : Fin 8) (m : Mode)
  /-- LDHU (R226): Load instruction LDHU loads a zero-extended halfword. -/
  | ldhu (b : Fin 6) (e : Fin 32) (t : Fin 8) (rt : Fin 16) (ab : Fin 16) (seg : Fin 8) (m : Mode)
  /-- LDB (R226): Load instruction LDB loads a sign-extended byte. -/
  | ldb (b : Fin 6) (e : Fin 32) (t : Fin 8) (rt : Fin 16) (ab : Fin 16) (seg : Fin 8) (m : Mode)
  /-- LDBU (R226): Load instruction LDBU loads a zero-extended byte. -/
  | ldbu (b : Fin 6) (e : Fin 32) (t : Fin 8) (rt : Fin 16) (ab : Fin 16) (seg : Fin 8) (m : Mode)
  /-- LDP (R226): Load instruction LDP loads a register pair. -/
  | ldp (b : Fin 6) (e : Fin 32) (t : Fin 8) (rt : Fin 16) (ab : Fin 16) (seg : Fin 8) (m : Mode)
  /-- LDA (R226): Load instruction LDA loads an address register. -/
  | lda (b : Fin 6) (e : Fin 32) (t : Fin 8) (rt : Fin 16) (ab : Fin 16) (seg : Fin 8) (m : Mode)
  /-- ST (R226): Store instruction ST stores a word through a segment. -/
  | st (b : Fin 6) (e : Fin 32) (t : Fin 8) (rt : Fin 16) (ab : Fin 16) (seg : Fin 8) (m : Mode) (coll : Bool)
  /-- STH (R226): Store instruction STH stores a halfword. -/
  | sth (b : Fin 6) (e : Fin 32) (t : Fin 8) (rt : Fin 16) (ab : Fin 16) (seg : Fin 8) (m : Mode) (coll : Bool)
  /-- STB (R226): Store instruction STB stores a byte. -/
  | stb (b : Fin 6) (e : Fin 32) (t : Fin 8) (rt : Fin 16) (ab : Fin 16) (seg : Fin 8) (m : Mode) (coll : Bool)
  /-- STP (R226): Store instruction STP stores a register pair. -/
  | stp (b : Fin 6) (e : Fin 32) (t : Fin 8) (rt : Fin 16) (ab : Fin 16) (seg : Fin 8) (m : Mode) (coll : Bool)
  /-- STA (R226): Store instruction STA stores an address register. -/
  | sta (b : Fin 6) (e : Fin 32) (t : Fin 8) (rt : Fin 16) (ab : Fin 16) (seg : Fin 8) (m : Mode) (coll : Bool)
  /-- BR (R228): BR branches on a comparison of two registers after its delay slot. -/
  | br (b : Fin 6) (e : Fin 32) (t : Fin 8) (ds : Fin 16) (dt : Fin 16) (cond : BitVec 3) (off : BitVec 15)
  /-- BRZ (R228): BRZ branches on a comparison with zero after its delay slot. -/
  | brz (b : Fin 6) (e : Fin 32) (t : Fin 8) (ds : Fin 16) (cond : BitVec 3) (off : BitVec 16)
  /-- J (R228): J jumps to an absolute word after its delay slot. -/
  | j (b : Fin 6) (e : Fin 32) (t : Fin 8) (tgt : BitVec 16)
  /-- CALL (R228): CALL writes A15 and jumps to an absolute word after its delay slot. -/
  | call (b : Fin 6) (e : Fin 32) (t : Fin 8) (tgt : BitVec 16)
  /-- JR (R228): JR jumps to the word in As after its delay slot. -/
  | jr (b : Fin 6) (e : Fin 32) (t : Fin 8) (sa : Fin 16)
  /-- CALLR (R228): CALLR writes A15 and jumps to the word in As after its delay slot. -/
  | callr (b : Fin 6) (e : Fin 32) (t : Fin 8) (sa : Fin 16)
  /-- RET (R228): RET jumps to A15 after its delay slot. -/
  | ret (b : Fin 6) (e : Fin 32) (t : Fin 8)
  /-- LOOPI (R231): LOOPI opens a hardware loop level with an immediate count. -/
  | loopi (b : Fin 6) (e : Fin 32) (t : Fin 8) (count : BitVec 10) (off : BitVec 16)
  /-- LOOPR (R231): LOOPR opens a hardware loop level with its count from Ds, or skips the body for count 0. -/
  | loopr (b : Fin 6) (e : Fin 32) (t : Fin 8) (ds : Fin 16) (off : BitVec 16)
  /-- LPOP (R233): LPOP decrements the active loop depth by N. -/
  | lpop (b : Fin 6) (e : Fin 32) (t : Fin 8) (n : BitVec 2)
  /-- WFE (R238): WFE waits for a masked event or the next boundary and returns the status word. -/
  | wfe (b : Fin 6) (e : Fin 32) (t : Fin 8) (dd : Fin 16) (mask : BitVec 5)
  /-- ENDOP (R238): ENDOP ends the thread's operation with OK or OUTPUT_INVALID and continues at OPRET. -/
  | endop (b : Fin 6) (e : Fin 32) (t : Fin 8) (inv : Bool)
  /-- RFT (R250): RFT restores STATUS from TSTAT and continues at TPC, after it, or at TBTGT. -/
  | rft (b : Fin 6) (e : Fin 32) (t : Fin 8) (skip : Bool)
  /-- BRK (R249): BRK raises trap 0x0A, or halts the thread when DBG is set. -/
  | brk (b : Fin 6) (e : Fin 32) (t : Fin 8)
  /-- MAC (R240): MAC adds a signed product to an accumulator. -/
  | mac (b : Fin 6) (e : Fin 32) (t : Fin 8) (ac : Fin 4) (ds : Fin 16) (dt : Fin 16)
  /-- MSU (R240): MSU subtracts a signed product from an accumulator. -/
  | msu (b : Fin 6) (e : Fin 32) (t : Fin 8) (ac : Fin 4) (ds : Fin 16) (dt : Fin 16)
  /-- MACU (R240): MACU adds an unsigned product to an accumulator. -/
  | macu (b : Fin 6) (e : Fin 32) (t : Fin 8) (ac : Fin 4) (ds : Fin 16) (dt : Fin 16)
  /-- MULAC (R240): MULAC writes a signed product to an accumulator. -/
  | mulac (b : Fin 6) (e : Fin 32) (t : Fin 8) (ac : Fin 4) (ds : Fin 16) (dt : Fin 16)
  /-- CLRAC (R240): CLRAC clears an accumulator. -/
  | clrac (b : Fin 6) (e : Fin 32) (t : Fin 8) (ac : Fin 4)
  /-- ACX (R240): ACX extracts a rounded, shifted and saturated accumulator value. -/
  | acx (b : Fin 6) (e : Fin 32) (t : Fin 8) (dd : Fin 16) (ac : Fin 4) (sh : BitVec 6)
  /-- ACXT (R240): ACXT extracts 32 accumulator bits from bit SH. -/
  | acxt (b : Fin 6) (e : Fin 32) (t : Fin 8) (dd : Fin 16) (ac : Fin 4) (sh : BitVec 6)
  /-- MFAC (R240): MFAC reads one part of an accumulator. -/
  | mfac (b : Fin 6) (e : Fin 32) (t : Fin 8) (dd : Fin 16) (ac : Fin 4) (part : BitVec 2)
  /-- MTAC (R240): MTAC writes one part of an accumulator. -/
  | mtac (b : Fin 6) (e : Fin 32) (t : Fin 8) (ac : Fin 4) (ds : Fin 16) (part : BitVec 2)
  /-- MFCP (R241): MFCP reads a coprocessor window register, or is refused. -/
  | mfcp (b : Fin 6) (e : Fin 32) (t : Fin 8) (unit : Bool) (dx : Fin 16) (reg : BitVec 6)
  /-- MTCP (R241): MTCP writes a coprocessor window register, or is refused. -/
  | mtcp (b : Fin 6) (e : Fin 32) (t : Fin 8) (unit : Bool) (dx : Fin 16) (reg : BitVec 6)
  /-- CSAVE (R256): CSAVE stores the thread's coprocessor window as an image. -/
  | csave (b : Fin 6) (e : Fin 32) (t : Fin 8) (unit : Bool) (ab : Fin 16) (seg : Fin 8)
  /-- CRST (R256): CRST loads the thread's coprocessor window from an image. -/
  | crst (b : Fin 6) (e : Fin 32) (t : Fin 8) (unit : Bool) (ab : Fin 16) (seg : Fin 8)
  /-- SDFT (R262): Separator SDFT updates the sliding-DFT sums of the masked channels and may advance P. -/
  | sdft (b : Fin 6) (e : Fin 32) (t : Fin 8) (mask : BitVec 8) (adv : Bool)
  /-- OUT (R263): Separator OUT writes a channel's phasor to RES0 and RES1. -/
  | out (b : Fin 6) (e : Fin 32) (t : Fin 8) (ch : Fin 8) (form : Bool) (rot : Bool)
  /-- CMUL (R261): Separator CMUL multiplies two complex registers. -/
  | cmul (b : Fin 6) (e : Fin 32) (t : Fin 8) (qd : Fin 4) (qa : Fin 4) (qb : Fin 4)
  /-- CMAC (R261): Separator CMAC adds a complex product to a complex register. -/
  | cmac (b : Fin 6) (e : Fin 32) (t : Fin 8) (qd : Fin 4) (qa : Fin 4) (qb : Fin 4)
  /-- CCLR (R261): Separator CCLR clears a complex register. -/
  | cclr (b : Fin 6) (e : Fin 32) (t : Fin 8) (qd : Fin 4)
  /-- CLRS (R261): Separator CLRS clears the sums and WRAP of the masked channels. -/
  | clrs (b : Fin 6) (e : Fin 32) (t : Fin 8) (mask : BitVec 8)
  /-- BEGIN (R272): Strainer BEGIN takes ownership of the window and starts a MAC with the selected key. -/
  | begin (b : Fin 6) (e : Fin 32) (t : Fin 8)
  /-- UPD (R272): Strainer UPD absorbs LEN bytes of the block buffer. -/
  | upd (b : Fin 6) (e : Fin 32) (t : Fin 8) (len : BitVec 7)
  /-- FIN (R272): Strainer FIN completes the MAC, writes the tag and sets DONE. -/
  | fin (b : Fin 6) (e : Fin 32) (t : Fin 8)
  /-- DROP (R272): Strainer DROP releases the window for its owner. -/
  | drop (b : Fin 6) (e : Fin 32) (t : Fin 8)
  /-- CP_RESULT_COMMIT (R254): A retired and finished coprocessor instruction commits its pending result or shadow state. -/
  | cpResultCommit (b : Fin 6) (e : Fin 32) (t : Fin 8) (unit : Bool)
  /-- CP_GATE_WRITE (R257): A write of a separator or strainer gate opens or closes the unit, clearing its state. -/
  | cpGateWrite (b : Fin 6) (m : Master) (strGate : Bool) (v : Word)
  /-- KEY_SLOT_READ (R265): BYx_ROTA_KEY_CMD read returns a slot's header, identifiers and check values. -/
  | keySlotRead (b : Fin 6) (m : Master) (bank : Bool) (slot : BitVec 8)
  /-- KEY_HEADER_WRITE (R265): BYx_ROTA_KEY_CMD writes a slot header and identifiers into the addressed key bank. -/
  | keyHeaderWrite (b : Fin 6) (m : Master) (bank : Bool) (slot : BitVec 8)
  /-- KEY_MATERIAL_WRITE (R265): BYx_ROTA_KEY_CMD writes key material from KEY_DATA into the addressed key bank. -/
  | keyMaterialWrite (b : Fin 6) (m : Master) (bank : Bool) (key : Bool) (slot : BitVec 8)
  /-- KEY_SLOT_INVALIDATE (R265): BYx_ROTA_KEY_CMD invalidates a key slot. -/
  | keySlotInvalidate (b : Fin 6) (m : Master) (bank : Bool) (slot : BitVec 8)
  /-- HANDOVER_PENDING_APPLY (R282): A pending handover takes effect once the old tanker owner becomes idle or stops. -/
  | handoverPendingApply (b : Fin 6) (bank : Fin 48)
  /-- VAT_OWNER_WRITE (R281): A management write of OWNER in BYx_VAT_OWNER changes a bank's owner. -/
  | vatOwnerWrite (b : Fin 6) (m : Master) (bank : Fin 48) (owner : BitVec 8)
  /-- BANK_RETAIN (R285): Setting RET retains a host-window bank at 0.55 V with its contents. -/
  | bankRetain (b : Fin 6) (m : Master) (bank : Fin 48)
  /-- BANK_WAKE (R285): Clearing RET starts the 2 µs wake of a retained bank, shown by WAKING. -/
  | bankWake (b : Fin 6) (m : Master) (bank : Fin 48)
  /-- BANK_WAKE_END (R285): The 2 µs wake delay ends and the bank accepts accesses. -/
  | bankWakeEnd (b : Fin 6) (bank : Fin 48)
  /-- POOL_ENABLE (R287): Setting EN in BYx_PAIL_POOL_CFG gives banks to the pails and threads the free list. -/
  | poolEnable (b : Fin 6) (m : Master) (p : Fin 4) (base : BitVec 6) (nbanks : BitVec 6)
  /-- POOL_DISABLE (R287): Clearing EN with every pail free returns the pool's banks to the host window. -/
  | poolDisable (b : Fin 6) (m : Master) (p : Fin 4) (base : BitVec 6) (nbanks : BitVec 6)
  /-- PAIL_ALLOC (R295): A read of ALLOC_Pp allocates a pail under the pool and quota rules, or returns 0xFFFF_FFFF. -/
  | pailAlloc (b : Fin 6) (r : Fin 36) (size : Nat)
  /-- PAIL_FREE (R292): A write to FREE returns a pail to its pool, or refuses a double free or bad offset. -/
  | pailFree (b : Fin 6) (r : Fin 36) (off : BitVec 24)
  /-- PAIL_SEND (R295): A write to SEND hands a pail to switch input 24 with the thread's SEND_LEN, or refuses it. -/
  | pailSend (b : Fin 6) (e : Fin 32) (t : Fin 8) (off : Word)
  /-- COLL_READ (R295): A read of COLL returns and clears the thread's collision flag. -/
  | collRead (b : Fin 6) (e : Fin 32) (t : Fin 8)
  /-- POOL_REBUILD (R293): A pool rebuild scans the state bits and rebuilds the free list, then clears BROKEN. -/
  | poolRebuild (b : Fin 6) (p : Fin 4)
  /-- TNK_SHADOW_WRITE (R299): A write of a BYx_TNK_SH word loads the shadow set unless it is armed. -/
  | tnkShadowWrite (b : Fin 6) (m : Master) (n : Fin 24) (w : Fin 8) (v : Word)
  /-- TNK_ARM (R299): A write of ARM in BYx_TNK_CTRL makes the shadow live or marks it armed. -/
  | tnkArm (b : Fin 6) (m : Master) (n : Fin 24)
  /-- TNK_DOORBELL (R301): A DOORBELL to a STOPPED channel re-reads NEXT of the latched descriptor and continues if valid. -/
  | tnkDoorbell (b : Fin 6) (m : Master) (n : Fin 24)
  /-- TNK_ABORT (R303): ABORT stops a live transfer at the next cell boundary with CODE ABORTED, or sets LATE. -/
  | tnkAbort (b : Fin 6) (m : Master) (n : Fin 24) (cells : Nat) (host : List Byte)
  /-- TNK_DISABLE (R304): Setting DISABLE stops the channel at once in DISABLED and abandons its descriptors. -/
  | tnkDisable (b : Fin 6) (m : Master) (n : Fin 24)
  /-- TNK_DISABLE_CLEAR (R304): Clearing DISABLE leaves the channel IDLE. -/
  | tnkDisableClear (b : Fin 6) (m : Master) (n : Fin 24)
  /-- DESCRIPTOR_COMPLETE (R300): A tanker finishes a descriptor, writes status then OWN, raises an event and follows the chain or stops. -/
  | descriptorComplete (b : Fin 6) (n : Fin 24) (dt : Nat) (host : List Byte)
  /-- LOCK_ACQUIRE (R307): A write of the master's identity to an acquire word takes a free lock or registers a waiter. -/
  | lockAcquire (b : Fin 6) (crm : Bool) (src : Src) (l : Fin 256) (v : Word)
  /-- LOCK_RELEASE (R308): A write to a release word frees the lock for its owner and wakes waiters, or is refused. -/
  | lockRelease (b : Fin 6) (crm : Bool) (src : Src) (l : Fin 256)
  /-- RESULT_STAGE (R318): A write of RES_W1 stages a result into a slot and answers RES_STATUS. -/
  | resultStage (b : Fin 6) (e : Fin 32) (t : Fin 8) (w1 : Word)
  /-- SUB_SEL_LATCH (R341): A write of SUB_SEL latches a subscription's state for the thread. -/
  | subSelLatch (b : Fin 6) (e : Fin 32) (t : Fin 8) (n : Word)
  /-- CAPTURE_HEAD_REMOVE (R331): A write to CAP_HEAD removes the head pin capture. -/
  | captureHeadRemove (b : Fin 6) (e : Fin 32)
  /-- REC_TRIG_WRITE (R396): An engine write of CODE to REC_TRIG triggers the recorder at the current tick. -/
  | recTrigWrite (b : Fin 6) (e : Fin 32) (code : BitVec 16)
  /-- PIN_PULSE_EXPIRY (R327): An output pin's pulse timer expires after PULSE_US and the pin returns to SAFE. -/
  | pinPulseExpiry (b : Fin 6) (m : Fin 16)
  /-- PIN_EDGE_CAPTURE (R329): An accepted input pin edge is captured into the capture queue, with event and recorder trigger as configured. -/
  | pinEdgeCapture (b : Fin 6) (m : Fin 16) (dt : Nat) (rise : Bool)
  /-- GOOSE_RETRANSMIT (R337): A publication's retransmission instant arrives and the frame is resent with sqNum increased. -/
  | gooseRetransmit (b : Fin 6) (n : BitVec 8)
  /-- SUB_EXPIRY (R340): A subscription's deadline passes and it becomes EXPIRED. -/
  | subExpiry (b : Fin 6) (n : BitVec 11)
  /-- PUB_ENTRY_READ (R333): BYx_CAL_PUB_CMD reads a publication entry. -/
  | pubEntryRead (b : Fin 6) (m : Master) (bank : Bool) (n : BitVec 8)
  /-- PUB_ENTRY_WRITE (R333): BYx_CAL_PUB_CMD writes a publication entry into the addressed bank. -/
  | pubEntryWrite (b : Fin 6) (m : Master) (bank : Bool) (n : BitVec 8)
  /-- PUB_STATE_READ (R333): BYx_CAL_PUB_CMD reads a publication's state. -/
  | pubStateRead (b : Fin 6) (m : Master) (bank : Bool) (n : BitVec 8)
  /-- SUB_ENTRY_READ (R339): BYx_CAL_SUB_CMD reads a subscription entry. -/
  | subEntryRead (b : Fin 6) (m : Master) (bank : Bool) (n : BitVec 11)
  /-- SUB_ENTRY_WRITE (R339): BYx_CAL_SUB_CMD writes a subscription entry into the addressed bank. -/
  | subEntryWrite (b : Fin 6) (m : Master) (bank : Bool) (n : BitVec 11)
  /-- SUB_STATE_READ (R339): BYx_CAL_SUB_CMD reads a subscription's state. -/
  | subStateRead (b : Fin 6) (m : Master) (bank : Bool) (n : BitVec 11)
  /-- INIT_WORD_RECEIVE (R351): A Tugus INIT word is received, giving the far end's credits and making the link ACTIVE when due. -/
  | initWordReceive (b : Fin 6) (l : Fin 2) (dt : Nat) (node : BitVec 17) (herd : BitVec 6) (tot : BitVec 28)
  /-- LINK_WORD_RECEIVE (R353): A link word is received, applying ACK, NAK and returned credits. -/
  | linkWordReceive (b : Fin 6) (l : Fin 2) (dt : Nat) (valid : Bool) (ack : BitVec 8) (nak : NakField) (ret : BitVec 16)
  /-- CAN_RECEIVE (R353): A can is received, checked for CRC and sequence, and delivered, routed or dropped. -/
  | canReceive (b : Fin 6) (l : Fin 2) (dt : Nat) (bytes : List Byte)
  /-- CAN_TRANSMIT (R352): A link launches the next can that has credit and retry-buffer room, in channel priority order. -/
  | canTransmit (b : Fin 6) (l : Fin 2) (dt : Nat)
  /-- RETRY_TIMEOUT (R354): RETRY_NS passes without an ACK of the oldest can, which is resent with the later cans. -/
  | retryTimeout (b : Fin 6) (l : Fin 2)
  /-- ECHO_REQUEST (R358): Every ECHO_US an ACTIVE link sends ECHO_REQ. -/
  | echoRequest (b : Fin 6) (l : Fin 2)
  /-- ECHO_RESPONSE (R358): The far end answers an ECHO_REQ with ECHO_RESP carrying t1 and t2. -/
  | echoResponse (b : Fin 6) (l : Fin 2) (dt : Nat)
  /-- CTL_TX_SEND (R371): GO in BYx_TUG_CTL_TX_CMD sends CTL_TX_DATA as a control can. -/
  | ctlTxSend (b : Fin 6) (m : Master)
  /-- CTL_RX_REMOVE (R371): Writing 1 to VALID of CTL_RX_STATUS removes the head control can and returns its credit. -/
  | ctlRxRemove (b : Fin 6) (m : Master)
  /-- JOIN (R368): A manager receives a JOIN and answers with JOIN_ACK. -/
  | join (b : Fin 6)
  /-- JOIN_RESEND (R368): An unanswered member resends JOIN every 1 s. -/
  | joinResend (b : Fin 6)
  /-- JOIN_ACK (R369): A member receives JOIN_ACK and becomes MEMBER when accepted. -/
  | joinAck (b : Fin 6)
  /-- LEAVE (R369): A manager receives LEAVE and drops the member. -/
  | leave (b : Fin 6)
  /-- HEARTBEAT (R369): A member receives HEARTBEAT and returns to MEMBER. -/
  | heartbeat (b : Fin 6)
  /-- HEARTBEAT_SEND (R368): A manager sends HEARTBEAT to each joined member every 1 s. -/
  | heartbeatSend (b : Fin 6)
  /-- HEARTBEAT_TIMEOUT (R369): 3 s without HEARTBEAT makes a member ISOLATED. -/
  | heartbeatTimeout (b : Fin 6)
  /-- EPOCH_ANNOUNCE (R370): A member receives EPOCH_ANNOUNCE, relays it, arms its byre and reports. -/
  | epochAnnounce (b : Fin 6)
  /-- EPOCH_REPORT (R370): A manager relays an EPOCH_REPORT, and the root events reports with nonzero CODE. -/
  | epochReport (b : Fin 6)
  /-- TUN_HEAD_REMOVE (R373): A write to TUN_HEAD removes the oldest tunnel queue can. -/
  | tunHeadRemove (b : Fin 6) (e : Fin 32) (t : Fin 8)
  /-- TUN_INJECT (R374): A write to TUN_INJECT injects a received can image as received, with status in TUN_INJ_STATUS. -/
  | tunInject (b : Fin 6) (e : Fin 32) (t : Fin 8) (off : Word)
  /-- TUN_DROP (R373): A write to TUN_DROP counts a dropped tunnel frame by reason. -/
  | tunDrop (b : Fin 6) (e : Fin 32) (t : Fin 8) (v : Word)
  /-- SHARE_ENTRY_READ (R364): BYx_TUG_SHR_CMD reads a share entry. -/
  | shareEntryRead (b : Fin 6) (m : Master) (bank : Bool) (n : BitVec 8)
  /-- SHARE_ENTRY_WRITE (R376): BYx_TUG_SHR_CMD writes a share entry into the addressed bank, or refuses it. -/
  | shareEntryWrite (b : Fin 6) (m : Master) (bank : Bool) (n : BitVec 8)
  /-- DRAM_TRAIN (R385): TRAIN starts full DRAM training at the current point. -/
  | dramTrain (b : Fin 6) (m : Master) (speed : BitVec 2)
  /-- DRAM_LOAD (R386): LOAD applies stored training results, or trains when none are stored. -/
  | dramLoad (b : Fin 6) (m : Master) (speed : BitVec 2)
  /-- SPEED_GO (R387): SPEED_GO changes the DRAM speed point, or is held during training or refused while pending. -/
  | speedGo (b : Fin 6) (m : Master) (speed : BitVec 2)
  /-- TRAINING_END (R385): DRAM training ends in READY or FAILED, applying any held speed change. -/
  | trainingEnd (b : Fin 6) (dt : Nat) (fail : BitVec 2) (mib : BitVec 16)
  /-- LOAD_END (R386): Loading of stored results ends in READY or FAILED, applying any held speed change. -/
  | loadEnd (b : Fin 6) (dt : Nat) (fail : BitVec 2) (mib : BitVec 16)
  /-- TRAIN_DATA_ACCESS (R386): A BYx_DRAM_TRAIN_DATA access reads or writes a training word and steps WORD. -/
  | trainDataAccess (b : Fin 6) (m : Master) (write : Bool) (v : Word)
  /-- NEIGHBOUR_REFRESH (R384): A scheduled neighbour-row refresh pair is issued within 4 µs of its activate. -/
  | neighbourRefresh (b : Fin 6)
  /-- RECORDER_DRAIN (R393): The real-time port drains the recorder staging buffer, raising or dropping panic. -/
  | recorderDrain (b : Fin 6) (n : Nat) (c : Nat)
  /-- REC_CMD_TRIGGER (R396): A write of TRIGGER to BYx_DRAM_REC_CMD triggers the recorder. -/
  | recCmdTrigger (b : Fin 6) (m : Master) (code : BitVec 16)
  /-- REC_CMD_REARM (R398): A write of REARM returns a FROZEN recorder to ARMED. -/
  | recCmdRearm (b : Fin 6) (m : Master) (code : BitVec 16)
  /-- HOST_PORT_RESET (R403): A PCIe reset, link-down, FLR or D3hot exit resets mailboxes, export rings and sessions. -/
  | hostPortReset (why : Fin 5) (dt : Nat)
  /-- MAILBOX_ACK (R411): ACK returns a DONE mailbox to IDLE, or sets RING_LOST. -/
  | mailboxAck (n : Fin 8)
  /-- MAILBOX_ABORT (R415): ABORT ends a BUSY command at its next abort point, or sets ABORT_LATE. -/
  | mailboxAbort (n : Fin 8)
  /-- EVQ_RD_WRITE (R418): The host writes CRM_EVQ_RD past the event entries it has read. -/
  | evqRdWrite (v : BitVec 8)
  /-- EXP_TAIL_WRITE (R422): A host write of CRM_EXP_TAIL gives descriptors to an export ring. -/
  | expTailWrite (r : Fin 32) (tail : BitVec 12)
  /-- EXPORT_END_MARK (R423): A transfer's end mark arrives, and the export path writes the descriptor status and then clears OWN. -/
  | exportEndMark (b : Fin 6) (dt : Nat) (desc : Option (List Byte))
  /-- EXPORT_COAL_TIMEOUT (R424): COAL_US passes since an unsignalled completion, and the ring raises its vector. -/
  | exportCoalTimeout (r : Fin 32)
  /-- SYS_INFO (R436): Command sys_info returns part, lifecycle, image versions and device ID. -/
  | sysInfo (n : Fin 8)
  /-- SYS_STATUS (R436): Command sys_status returns the state, epoch and time state of each byre and creamery status. -/
  | sysStatus (n : Fin 8)
  /-- ALARM_ACK (R436): Command alarm_ack writes W1C bits of one register. -/
  | alarmAck (n : Fin 8)
  /-- COUNTER_BASELINE (R428): Command counter_baseline records every counter of a byre in firmware. -/
  | counterBaseline (n : Fin 8)
  /-- CREAMERY_RESTART (R14): Command creamery_restart responds and then restarts the firmware while byres continue. -/
  | creameryRestart (n : Fin 8)
  /-- SESSION_NONCE (R456): Command session_nonce returns a fresh 16-byte nonce for the mailbox. -/
  | sessionNonce (n : Fin 8)
  /-- SESSION_OPEN (R457): Command session_open checks a signature over the nonce and opens a session. -/
  | sessionOpen (n : Fin 8)
  /-- SESSION_OPEN_HMAC (R456): Command session_open_hmac opens an Operator session with an HMAC over the nonce. -/
  | sessionOpenHmac (n : Fin 8)
  /-- SESSION_CLOSE (R458): Command session_close closes the named session. -/
  | sessionClose (n : Fin 8)
  /-- CLAIM (R453): Command claim enrols the installer root key and steps LIFECYCLE to FIELD. -/
  | claim (n : Fin 8) (low : Bool)
  /-- INSTALLER_KEY_ROTATE (R454): Command installer_key_rotate appends a new installer key signed by the current one. -/
  | installerKeyRotate (n : Fin 8)
  /-- OPERATOR_SECRET_SET (R454): Command operator_secret_set stores the Operator HMAC secret. -/
  | operatorSecretSet (n : Fin 8)
  /-- BYRE_STATUS (R436): Command byre_status returns a byre's state, binding, bad engines and time status. -/
  | byreStatus (n : Fin 8)
  /-- BYRE_RESET (R503): Command byre_reset resets a byre to HELD. -/
  | byreReset (n : Fin 8)
  /-- BYRE_RELEASE (R443): Command byre_release checks compatibility and moves a HELD byre to READY. -/
  | byreRelease (n : Fin 8)
  /-- BYRE_START (R466): Command byre_start moves a READY byre with a verified live bank to RUNNING at the next boundary. -/
  | byreStart (n : Fin 8)
  /-- BYRE_STOP (R466): Command byre_stop moves a byre to READY at the next boundary. -/
  | byreStop (n : Fin 8)
  /-- MICROCODE_LOAD (R448): Command microcode_load loads a signed microcode image into a byre, holding it HELD. -/
  | microcodeLoad (n : Fin 8) (host : HostRead)
  /-- BENCH_OVERRIDE (R445): Command bench_override forces a HELD byre with an undeclared combination to READY with test quality. -/
  | benchOverride (n : Fin 8)
  /-- TEST_ENTER (R466): Command test_enter moves a READY byre to TEST. -/
  | testEnter (n : Fin 8)
  /-- TEST_EXIT (R466): Command test_exit moves a TEST byre to READY. -/
  | testExit (n : Fin 8)
  /-- TANKER_ABORT (R303): Command tanker_abort aborts a tanker channel and returns its final status, or TOO_LATE. -/
  | tankerAbort (n : Fin 8)
  /-- BLOCK_COUNTERS (R436): Command block_counters returns a block's counters and one unit's counters. -/
  | blockCounters (n : Fin 8)
  /-- SCHED_LOAD (R429): Command sched_load writes a package into the standby tables and runs the verifier. -/
  | schedLoad (n : Fin 8) (host : HostRead)
  /-- SCHED_VERIFY (R429): Command sched_verify runs the verifier over the standby banks and sets VERIFIED on success. -/
  | schedVerify (n : Fin 8)
  /-- SCHED_ARM (R430): Command sched_arm writes the arm registers for s:k and maps any refusal to a status. -/
  | schedArm (n : Fin 8)
  /-- SCHED_CANCEL (R85): Command sched_cancel cancels a pending arm, or returns TOO_LATE. -/
  | schedCancel (n : Fin 8)
  /-- SCHED_STATUS (R436): Command sched_status returns the churn arm, epoch, verify and swap registers. -/
  | schedStatus (n : Fin 8)
  /-- SCHED_INSTALL (R436): Command sched_install stores a signed package in a slot of a byre's package store. -/
  | schedInstall (n : Fin 8) (host : HostRead)
  /-- SCHED_LIST (R436): Command sched_list lists installed packages. -/
  | schedList (n : Fin 8)
  /-- SCHED_SELECT (R428): Command sched_select loads, verifies and arms a stored package for s:k. -/
  | schedSelect (n : Fin 8)
  /-- SCHED_REMOVE (R436): Command sched_remove frees a package store slot unless it is the autostart entry. -/
  | schedRemove (n : Fin 8)
  /-- EMU_WRITE (R431): Command emu_write executes up to 113 exact-match inserts and deletes in order. -/
  | emuWrite (n : Fin 8)
  /-- EMU_READ (R436): Command emu_read returns an exact-match entry by key or location. -/
  | emuRead (n : Fin 8)
  /-- EMU_DELETE_TYPE (R436): Command emu_delete_type deletes every entry of one key type in a stopped byre. -/
  | emuDeleteType (n : Fin 8)
  /-- EMU_CONFIG (R435): Command emu_config writes BYx_EMU_CTRL and BYx_EMU_SEED. -/
  | emuConfig (n : Fin 8)
  /-- LEARN_CONFIG (R435): Command learn_config writes a port's learning limits. -/
  | learnConfig (n : Fin 8)
  /-- FWD_NOTES (R436): Command fwd_notes removes and returns up to 64 learning notes. -/
  | fwdNotes (n : Fin 8)
  /-- FWD_COPY (R149): Command fwd_copy inserts forwarding entries into target byres with LEARNED 0. -/
  | fwdCopy (n : Fin 8)
  /-- KEY_WRITE (R265): Command key_write writes a slot into the standby key bank and clears VERIFIED. -/
  | keyWrite (n : Fin 8)
  /-- KEY_INVALIDATE (R265): Command key_invalidate invalidates a standby key slot. -/
  | keyInvalidate (n : Fin 8)
  /-- KEY_READ (R436): Command key_read returns a slot's header, identifiers and check values. -/
  | keyRead (n : Fin 8)
  /-- TIME_STATUS (R435): Command time_status returns TIME registers 0x004 to 0x0A0. -/
  | timeStatus (n : Fin 8)
  /-- TIME_CONFIG (R435): Command time_config writes the time unit configuration registers. -/
  | timeConfig (n : Fin 8)
  /-- RTC_SET (R54): Command rtc_set sets the coarse real-time clock. -/
  | rtcSet (n : Fin 8)
  /-- UTC_SET (R435): Command utc_set writes BYx_TIME_UTC. -/
  | utcSet (n : Fin 8)
  /-- PPS_CONFIG (R435): Command pps_config writes the PPS registers. -/
  | ppsConfig (n : Fin 8)
  /-- PORT_DELAY (R435): Command port_delay writes a port's ingress and egress delays. -/
  | portDelay (n : Fin 8)
  /-- PORT_STATUS (R435): Command port_status returns a port's status and counters. -/
  | portStatus (n : Fin 8)
  /-- PORT_CONFIG (R435): Command port_config writes a port's control, guard, queue, tally, credit and timing registers. -/
  | portConfig (n : Fin 8)
  /-- PAIR_CONFIG (R435): Command pair_config writes BYx_SW_PAIR n. -/
  | pairConfig (n : Fin 8)
  /-- TALLY_CONFIG (R435): Command tally_config writes TALLY_CTRL and TALLY_BASE. -/
  | tallyConfig (n : Fin 8)
  /-- PIN_CONFIG (R435): Command pin_config writes an event pin's configuration. -/
  | pinConfig (n : Fin 8)
  /-- FRAME_SEND (R433): Command frame_send puts a frame into switch input 27, or returns BUSY. -/
  | frameSend (n : Fin 8)
  /-- FRAME_RECV (R433): Command frame_recv returns queued frames from output 27 and the drop count. -/
  | frameRecv (n : Fin 8)
  /-- EXPORT_SETUP (R432): Command export_setup binds and starts an export ring. -/
  | exportSetup (n : Fin 8)
  /-- EXPORT_STOP (R428): Command export_stop stops a ring and discards its staged data. -/
  | exportStop (n : Fin 8)
  /-- EXPORT_STATUS (R436): Command export_status returns a ring's registers. -/
  | exportStatus (n : Fin 8)
  /-- HWIN_MAP (R405): Command hwin_map maps a BAR index 2 page onto a vat bank. -/
  | hwinMap (n : Fin 8)
  /-- GROUP_STATUS (R435): Command group_status returns a group's press registers. -/
  | groupStatus (n : Fin 8)
  /-- HERD_NODE (R434): Command herd_node writes a byre's node, time, link, manager and root registers. -/
  | herdNode (n : Fin 8)
  /-- HERD_LINK (R435): Command herd_link writes BYx_TUG_MGR and BYx_TUG_ROOT. -/
  | herdLink (n : Fin 8)
  /-- HERD_ROUTE (R435): Command herd_route writes the route words. -/
  | herdRoute (n : Fin 8)
  /-- HERD_STATUS (R436): Command herd_status returns node, link and member state. -/
  | herdStatus (n : Fin 8)
  /-- HERD_EPOCH (R370): Command herd_epoch makes the root announce an epoch for s:k. -/
  | herdEpoch (n : Fin 8)
  /-- TUNNEL_CONFIG (R435): Command tunnel_config writes TUN_CFG and TUN_EP. -/
  | tunnelConfig (n : Fin 8)
  /-- REC_CONFIG (R435): Command rec_config writes the recorder configuration registers. -/
  | recConfig (n : Fin 8)
  /-- REC_TRIGGER (R396): Command rec_trigger triggers the recorder with CODE. -/
  | recTrigger (n : Fin 8)
  /-- REC_EXPORT (R398): Command rec_export exports a FROZEN recorder window through tanker descriptors. -/
  | recExport (n : ExportSlot)
  /-- REC_REARM (R398): Command rec_rearm writes REARM. -/
  | recRearm (n : Fin 8)
  /-- REC_STATUS (R436): Command rec_status returns the recorder state registers. -/
  | recStatus (n : Fin 8)
  /-- POWER_STATUS (R436): Command power_status returns domain states and regulator readings. -/
  | powerStatus (n : Fin 8) (readings : List Byte)
  /-- DOMAIN_SET (R487): Command domain_set requests a domain state change, refused with the block in DETAIL. -/
  | domainSet (n : Fin 8) (mute : BitVec 8) (pgood : Bool)
  /-- VCORE_SET (R494): Command vcore_set requests a rail voltage over PMBus. -/
  | vcoreSet (n : Fin 8)
  /-- DRAM_SPEED (R387): Command dram_speed changes the DRAM speed point and answers after the final step. -/
  | dramSpeed (n : Fin 8)
  /-- POWER_POLICY (R499): Command power_policy stores per-byre domain masks and PF_REC. -/
  | powerPolicy (n : Fin 8)
  /-- PFAIL_CONFIG (R497): Command pfail_config writes the PFAIL threshold. -/
  | pfailConfig (n : Fin 8)
  /-- AUDIT_STATUS (R461): Command audit_status returns audit log counts and the head hash. -/
  | auditStatus (n : Fin 8)
  /-- AUDIT_EXPORT (R464): Command audit_export copies up to 4,096 audit records to host memory and marks them exported. -/
  | auditExport (n : Fin 8)
  /-- AUDIT_WRAP (R464): Command audit_wrap allows or forbids audit log wrap. -/
  | auditWrap (n : Fin 8)
  /-- REG_READ (R436): Command reg_read returns up to 1,020 register words of a byre. -/
  | regRead (n : Fin 8)
  /-- REG_WRITE (R436): Command reg_write writes one register word of an idle byre. -/
  | regWrite (n : Fin 8)
  /-- DEBUG_UNLOCK (R459): Command debug_unlock enables debug under the Maker key unless DBG_PERM is blown. -/
  | debugUnlock (n : Fin 8)
  /-- DEBUG_HALT (R481): Command debug_halt halts a thread between instructions. -/
  | debugHalt (n : Fin 8)
  /-- DEBUG_RESUME (R481): Command debug_resume resumes a halted thread. -/
  | debugResume (n : Fin 8)
  /-- DEBUG_FREEZE (R82): Command debug_freeze sets or clears FREEZE. -/
  | debugFreeze (n : Fin 8)
  /-- SCRATCH_READ (R436): Command scratch_read returns engine scratch words through the indirect registers. -/
  | scratchRead (n : Fin 8)
  /-- TEMP_READ (R436): Command temp_read returns byre and creamery temperatures. -/
  | tempRead (n : Fin 8) (temps : List Byte)
  /-- FUSE_PROGRAM (R451): Command fuse_program blows OTP fuses one at a time. -/
  | fuseProgram (n : Fin 8)
  /-- FACTORY_TEST (R428): Command factory_test runs a factory test in lifecycle MAKER. -/
  | factoryTest (n : Fin 8)
  /-- FW_STATUS (R436): Command fw_status returns firmware slot and rollback state. -/
  | fwStatus (n : Fin 8)
  /-- FW_UPDATE (R447): Command fw_update checks and writes a firmware image to the inactive slot. -/
  | fwUpdate (n : Fin 8) (host : HostRead)
  /-- FW_ACTIVATE (R446): Command fw_activate sets a trial boot of the other slot and restarts the creamery. -/
  | fwActivate (n : Fin 8)
  /-- FW_COMMIT (R448): Command fw_commit raises FW_SVN and MC_SVN to the running images. -/
  | fwCommit (n : Fin 8)
  /-- CREAMERY_RESET_RELEASE (R437): AON releases the creamery reset and the boot ROM runs its boot sequence. -/
  | creameryResetRelease (dt : Nat) (flash : Bool)
  /-- CREAMERY_WATCHDOG_EXPIRY (R437): The 10 s creamery watchdog expires and resets the creamery. -/
  | creameryWatchdogExpiry
  /-- FIRMWARE_START (R449): Started firmware drains byre event queues and autostarts byres that have an autostart entry. -/
  | firmwareStart (pgood : BitVec 6)
  /-- SESSION_TIMEOUT (R458): A session with no command for 15 minutes closes. -/
  | sessionTimeout (id : Word)
  /-- PWR_REQUEST (R487): GO in AON_PWR_REQ moves a domain by an all-or-nothing handshake, or refuses it. -/
  | pwrRequest (m : Master) (v : Word) (mute : BitVec 8) (pgood : Bool)
  /-- HANDSHAKE_TIMEOUT (R487): A block that has not answered within 2 µs counts as refusing, and stopped blocks restart. -/
  | handshakeTimeout
  /-- WAKE_EVENT (R490): An enabled wake input returns the configured domains to on in dependency order. -/
  | wakeEvent (b : Fin 6) (i : Fin 4) (dt : Nat) (pgood : WakeLevel)
  /-- VOLTAGE_REQUEST (R494): GO in AON_VREQ sends PAGE and VOUT_COMMAND to the byre's regulator. -/
  | voltageRequest (m : Master) (b : Fin 6) (v : Word)
  /-- VREQ_TIMEOUT (R495): A voltage request not complete in 2 ms ends TIMEOUT or FAULT. -/
  | vreqTimeout (b : Fin 6) (acked : Bool) (pgood : Bool)
  /-- PGOOD_FALL (R496): Bn_PGOOD falls for more than 10 µs and the byre takes a machine check. -/
  | pgoodFall (b : Fin 6) (dt : Nat)
  /-- PFAIL_RAISE (R497): VIN falls below THRESH_MV and the supply monitor raises PFAIL. -/
  | pfailRaise (dt : Nat) (vin : BitVec 16)
  /-- PFAIL_CLEAR (R497): VIN rises 250 mV above THRESH_MV and PFAIL clears. -/
  | pfailClear (dt : Nat) (vin : BitVec 16)
  /-- POWER_ON_RESET (R502): Power-up or VIN below 4.2 V holds and then resets the whole device. -/
  | powerOnReset (rise : PorPin)
  /-- CRM_RESET_PIN (R502): CRM_RESET_N low for 1 µs resets the creamery and turns all byre domains off. -/
  | crmResetPin (dt : Nat)
  /-- CRM_REFCLK_LOSS (R500): Loss of CRM_REFCLK holds the creamery in reset while AON runs on its internal oscillator. -/
  | crmRefclkLoss (dt : Nat) (back : Bool)
  /-- JTAG_SYSTEM_RESET (R502): A JTAG system reset under Maker unlock resets the creamery and turns all byre domains off. -/
  | jtagSystemReset
  /-- MAILBOX_RING (R411): A host write of RING moves an IDLE mailbox to BUSY and the firmware runs the checks of R410, or sets RING_LOST outside IDLE. -/
  | mailboxRing (n : Fin 8) (dt : Nat)
  /-- UNDEFINED_INSTRUCTION (R220): A thread issues a word with an undefined major or function code, or a CP2/CP3 operation, and takes trap 0x01 or 0x02 with no effect. -/
  | undefinedInstruction (b : Fin 6) (e : Fin 32) (t : Fin 8)
  /-- INIT_WORD_SEND (R351): A Tugus link in INIT sends an INIT word at least once per µs and becomes ACTIVE once it has sent eight and received one. -/
  | initWordSend (b : Fin 6) (l : Fin 2) (dt : Nat)
  /-- VOLTAGE_REQUEST_DONE (R494): A voltage request completes when every PMBus byte is acknowledged and Bn_PGOOD is high, BUSY clears and the new setting is used. -/
  | voltageRequestDone (b : Fin 6) (dt : Nat)
  deriving DecidableEq, Repr

end Sys2Proof
end

