-- ==== Sys2Proof/Decode.lean ====
section
/-!
DEFINITION. The encoding of the engine instructions (R220 to R241, R261, R272): a decoder, total on any word, and an
encoder.  An encoding that R220 calls undefined has no decoding.  The operation table gives no row any bits, so
`decodeTableWord` reads no command from a table word.
-/

namespace Sys2Proof

/-- A register number: bits lo + 3 to lo. -/
abbrev rfield (w : Word) (lo : Nat) : Fin 16 := (w.extractLsb' lo 4).toFin

/-- ALU register form, major 0x00 (R222). -/
def decodeAlu (b : Fin 6) (e : Fin 32) (t : Fin 8) (w : Word) : Option Instr :=
  let rd := rfield w 22
  let rs := rfield w 18
  let rt := rfield w 14
  if w.extractLsb' 6 8 ≠ 0#8 then none
  else match (w.extractLsb' 0 6).toNat with
  | 0x01 => some (.add b e t rd rs rt)
  | 0x02 => some (.sub b e t rd rs rt)
  | 0x03 => some (.adds b e t rd rs rt)
  | 0x04 => some (.subs b e t rd rs rt)
  | 0x05 => some (.and b e t rd rs rt)
  | 0x06 => some (.or b e t rd rs rt)
  | 0x07 => some (.xor b e t rd rs rt)
  | 0x08 => some (.andn b e t rd rs rt)
  | 0x09 => some (.sll b e t rd rs rt)
  | 0x0A => some (.srl b e t rd rs rt)
  | 0x0B => some (.sra b e t rd rs rt)
  | 0x0C => some (.ror b e t rd rs rt)
  | 0x0D => some (.slt b e t rd rs rt)
  | 0x0E => some (.sltu b e t rd rs rt)
  | 0x0F => some (.min b e t rd rs rt)
  | 0x10 => some (.max b e t rd rs rt)
  | 0x11 => some (.minu b e t rd rs rt)
  | 0x12 => some (.maxu b e t rd rs rt)
  | 0x13 => some (.mul b e t rd rs rt)
  | 0x14 => some (.mulh b e t rd rs rt)
  | 0x15 => some (.mulhu b e t rd rs rt)
  | 0x16 => if w.extractLsb' 14 4 = 0#4 then some (.clz b e t rd rs) else none
  | 0x17 => if w.extractLsb' 14 4 = 0#4 then some (.abs b e t rd rs) else none
  | _ => none

/-- Address register form, major 0x0D (R224). -/
def decodeAddr (b : Fin 6) (e : Fin 32) (t : Fin 8) (w : Word) : Option Instr :=
  let d := rfield w 22
  let s := rfield w 18
  let k := rfield w 14
  let sc := w.extractLsb' 12 2
  let noK := w.extractLsb' 12 6 = 0#6
  if w.extractLsb' 4 8 ≠ 0#8 then none
  else match (w.extractLsb' 0 4).toNat with
  | 0x0 => if noK then some (.mova b e t d s) else none
  | 0x1 => some (.adda b e t d s k sc)
  | 0x2 => some (.suba b e t d s k sc)
  | 0x3 => if noK then some (.movda b e t d s) else none
  | 0x4 => if noK then some (.movad b e t d s) else none
  | _ => none

/-- Is the number that of a control register MFC and MTC may name (R235)? -/
def crListed (cr : BitVec 6) : Bool :=
  let n := cr.toNat
  decide (n ≤ 0x0A) || (decide (0x10 ≤ n) && decide (n ≤ 0x1A) && n % 4 != 3) || (decide (0x20 ≤ n) && n % 4 != 3)

/-- The context instructions, major 0x0F (R237). -/
def decodeCtx (b : Fin 6) (e : Fin 32) (t : Fin 8) (w : Word) : Option Instr :=
  let th := (w.extractLsb' 23 3).toFin
  let cls := w.extractLsb' 21 2
  let idx := w.extractLsb' 15 6
  let dx := rfield w 11
  let ok := cls = 0#2 ∧ idx.toNat < 16 ∨ cls = 1#2 ∧ idx.toNat < 16 ∨ cls = 2#2 ∧ (crListed idx ∨ idx = 0x0F#6)
  if w.extractLsb' 4 7 ≠ 0#7 then none
  else match (w.extractLsb' 0 4).toNat with
  | 0x0 => if ok then some (.getc b e t th cls idx dx) else none
  | 0x1 => if ok then some (.putc b e t th cls idx dx) else none
  | 0x2 => if w.extractLsb' 15 11 = 0#11 then some (.release b e t dx) else none
  | _ => none

/-- The addressing mode of a load or store (R226). -/
def decodeMode (w : Word) : Option Mode :=
  match (w.extractLsb' 13 2).toNat with
  | 0 => some (.disp (w.extractLsb' 0 13))
  | 1 => some (.post (w.extractLsb' 0 13))
  | 2 => some (.pre (w.extractLsb' 0 13))
  | _ => if w.extractLsb' 0 7 = 0#7 then some (.index (rfield w 9) (w.extractLsb' 7 2)) else none

/-- Does the mode write the base back? -/
def Mode.writesBase : Mode → Bool
  | .post _ => true
  | .pre _ => true
  | _ => false

/-- Loads and stores, majors 0x10 to 0x1C (R226). -/
def decodeMem (b : Fin 6) (e : Fin 32) (t : Fin 8) (w : Word) : Option Instr :=
  let rt := rfield w 22
  let ab := rfield w 18
  let seg := (w.extractLsb' 15 3).toFin
  match decodeMode w with
  | none => none
  | some m =>
    let own := rt = ab ∧ m.writesBase
    match (w.extractLsb' 26 6).toNat with
    | 0x10 => some (.ld b e t rt ab seg m)
    | 0x11 => some (.ldh b e t rt ab seg m)
    | 0x12 => some (.ldhu b e t rt ab seg m)
    | 0x13 => some (.ldb b e t rt ab seg m)
    | 0x14 => some (.ldbu b e t rt ab seg m)
    | 0x15 => if rt.val % 2 = 0 then some (.ldp b e t rt ab seg m) else none
    | 0x16 => if own then none else some (.lda b e t rt ab seg m)
    | 0x18 => some (.st b e t rt ab seg m false)
    | 0x19 => some (.sth b e t rt ab seg m false)
    | 0x1A => some (.stb b e t rt ab seg m false)
    | 0x1B => if rt.val % 2 = 0 then some (.stp b e t rt ab seg m false) else none
    | 0x1C => if own then none else some (.sta b e t rt ab seg m false)
    | _ => none

/-- JREG, major 0x24 (R228). -/
def decodeJreg (b : Fin 6) (e : Fin 32) (t : Fin 8) (w : Word) : Option Instr :=
  if w.extractLsb' 4 18 ≠ 0#18 then none
  else match (w.extractLsb' 0 4).toNat with
  | 0x0 => some (.jr b e t (rfield w 22))
  | 0x1 => some (.callr b e t (rfield w 22))
  | 0x2 => if w.extractLsb' 22 4 = 0#4 then some (.ret b e t) else none
  | _ => none

/-- SYS, major 0x2C (R238). -/
def decodeSys (b : Fin 6) (e : Fin 32) (t : Fin 8) (w : Word) : Option Instr :=
  let dd := rfield w 22
  let arg := w.extractLsb' 12 5
  let noD := w.extractLsb' 22 4 = 0#4
  if w.extractLsb' 17 5 ≠ 0#5 ∨ w.extractLsb' 4 8 ≠ 0#8 then none
  else match (w.extractLsb' 0 4).toNat with
  | 0x1 => some (.wfe b e t dd arg)
  | 0x2 => if noD ∧ arg = 0#5 then some (.endop b e t false) else if noD ∧ arg = 1#5 then some (.endop b e t true) else none
  | 0x3 => if noD ∧ arg = 0#5 then some (.rft b e t false) else if noD ∧ arg = 1#5 then some (.rft b e t true) else none
  | 0x4 => if noD ∧ arg = 0#5 then some (.brk b e t) else none
  | _ => none

/-- Multiply-accumulate forms, major 0x30 (R240). -/
def decodeMac (b : Fin 6) (e : Fin 32) (t : Fin 8) (w : Word) : Option Instr :=
  let ac := (w.extractLsb' 24 2).toFin
  let ds := rfield w 20
  let dt := rfield w 16
  let dd := rfield w 12
  let sh := w.extractLsb' 6 6
  let noS := w.extractLsb' 20 4 = 0#4
  let noT := w.extractLsb' 16 4 = 0#4
  let noD := w.extractLsb' 12 4 = 0#4
  let noSh := sh = 0#6
  let part := w.extractLsb' 6 2
  let partOk := w.extractLsb' 8 4 = 0#4 ∧ part ≠ 3#2
  match (w.extractLsb' 0 6).toNat with
  | 0x01 => if noD ∧ noSh then some (.mac b e t ac ds dt) else none
  | 0x02 => if noD ∧ noSh then some (.msu b e t ac ds dt) else none
  | 0x03 => if noD ∧ noSh then some (.macu b e t ac ds dt) else none
  | 0x04 => if noD ∧ noSh then some (.mulac b e t ac ds dt) else none
  | 0x05 => if noS ∧ noT ∧ noD ∧ noSh then some (.clrac b e t ac) else none
  | 0x08 => if noS ∧ noT then some (.acx b e t dd ac sh) else none
  | 0x09 => if noS ∧ noT ∧ sh.toNat ≤ 40 then some (.acxt b e t dd ac sh) else none
  | 0x0C => if noS ∧ noT ∧ partOk then some (.mfac b e t dd ac part) else none
  | 0x0D => if noT ∧ noD ∧ partOk then some (.mtac b e t ac ds part) else none
  | _ => none

/-- The lower major of CP0 or CP1 (R241); `u` is true for CP1. -/
def decodeCop (b : Fin 6) (e : Fin 32) (t : Fin 8) (u : Bool) (w : Word) : Option Instr :=
  match (w.extractLsb' 0 4).toNat with
  | 0x0 => if w.extractLsb' 4 12 = 0#12 then some (.mfcp b e t u (rfield w 22) (w.extractLsb' 16 6)) else none
  | 0x1 => if w.extractLsb' 4 12 = 0#12 then some (.mtcp b e t u (rfield w 22) (w.extractLsb' 16 6)) else none
  | 0x2 => if w.extractLsb' 22 4 = 0#4 ∧ w.extractLsb' 4 11 = 0#11 then
      some (.csave b e t u (rfield w 18) (w.extractLsb' 15 3).toFin) else none
  | 0x3 => if w.extractLsb' 22 4 = 0#4 ∧ w.extractLsb' 4 11 = 0#11 then
      some (.crst b e t u (rfield w 18) (w.extractLsb' 15 3).toFin) else none
  | _ => none

/-- The separator operations, major 0x39 (R261). -/
def decodeSep (b : Fin 6) (e : Fin 32) (t : Fin 8) (w : Word) : Option Instr :=
  match (w.extractLsb' 20 6).toNat with
  | 0x01 => if w.extractLsb' 0 11 = 0#11 then some (.sdft b e t (w.extractLsb' 12 8) (w.getLsbD 11)) else none
  | 0x02 => if w.extractLsb' 0 15 = 0#15 then
      some (.out b e t (w.extractLsb' 17 3).toFin (w.getLsbD 16) (w.getLsbD 15)) else none
  | 0x03 => if w.extractLsb' 0 14 = 0#14 then
      some (.cmul b e t (w.extractLsb' 18 2).toFin (w.extractLsb' 16 2).toFin (w.extractLsb' 14 2).toFin) else none
  | 0x04 => if w.extractLsb' 0 14 = 0#14 then
      some (.cmac b e t (w.extractLsb' 18 2).toFin (w.extractLsb' 16 2).toFin (w.extractLsb' 14 2).toFin) else none
  | 0x05 => if w.extractLsb' 0 18 = 0#18 then some (.cclr b e t (w.extractLsb' 18 2).toFin) else none
  | 0x06 => if w.extractLsb' 0 12 = 0#12 then some (.clrs b e t (w.extractLsb' 12 8)) else none
  | _ => none

/-- The strainer operations, major 0x3B (R272). -/
def decodeStr (b : Fin 6) (e : Fin 32) (t : Fin 8) (w : Word) : Option Instr :=
  match (w.extractLsb' 20 6).toNat with
  | 0x01 => if w.extractLsb' 0 20 = 0#20 then some (.begin b e t) else none
  | 0x02 =>
    let n := w.extractLsb' 0 7
    if w.extractLsb' 7 13 = 0#13 ∧ 1 ≤ n.toNat ∧ n.toNat ≤ 64 then some (.upd b e t n) else none
  | 0x03 => if w.extractLsb' 0 20 = 0#20 then some (.fin b e t) else none
  | 0x04 => if w.extractLsb' 0 20 = 0#20 then some (.drop b e t) else none
  | _ => none

/-- The instruction that thread `t` of engine `e` of byre `b` reads from a code-store word; `none` where R220 calls the
word undefined, and for every instruction of CP2 and CP3, which are refused whatever their other bits (R242). -/
def decodeEng (b : Fin 6) (e : Fin 32) (t : Fin 8) (w : Word) : Option Instr :=
  let rd := rfield w 22
  let rs := rfield w 18
  let i18 := w.extractLsb' 0 18
  let i16 := w.extractLsb' 0 16
  match (w.extractLsb' 26 6).toNat with
  | 0x00 => decodeAlu b e t w
  | 0x01 => some (.addi b e t rd rs i18)
  | 0x02 => some (.slti b e t rd rs i18)
  | 0x03 => some (.sltiu b e t rd rs i18)
  | 0x04 => some (.andi b e t rd rs i18)
  | 0x05 => some (.ori b e t rd rs i18)
  | 0x06 => some (.xori b e t rd rs i18)
  | 0x07 => if w.extractLsb' 16 6 = 0#6 then some (.lui b e t rd i16) else none
  | 0x08 => if w.extractLsb' 5 11 = 0#11 then some (.shifti b e t rd rs (w.extractLsb' 16 2) (w.extractLsb' 0 5)) else none
  | 0x0C => some (.addai b e t rd rs i18)
  | 0x0D => decodeAddr b e t w
  | 0x0E =>
    let cr := w.extractLsb' 16 6
    if w.extractLsb' 1 15 = 0#15 ∧ crListed cr then
      (if w.getLsbD 0 then some (.mtc b e t rd cr) else some (.mfc b e t rd cr)) else none
  | 0x0F => decodeCtx b e t w
  | 0x10 | 0x11 | 0x12 | 0x13 | 0x14 | 0x15 | 0x16 | 0x18 | 0x19 | 0x1A | 0x1B | 0x1C => decodeMem b e t w
  | 0x20 =>
    let c := w.extractLsb' 15 3
    if c.toNat ≤ 5 then some (.br b e t rd rs c (w.extractLsb' 0 15)) else none
  | 0x21 =>
    let c := w.extractLsb' 19 3
    if c.toNat ≤ 5 ∧ w.extractLsb' 16 3 = 0#3 then some (.brz b e t rd c i16) else none
  | 0x22 => if w.extractLsb' 16 10 = 0#10 then some (.j b e t i16) else none
  | 0x23 => if w.extractLsb' 16 10 = 0#10 then some (.call b e t i16) else none
  | 0x24 => decodeJreg b e t w
  | 0x28 =>
    let n := w.extractLsb' 16 10
    if n ≠ 0#10 ∧ i16 ≠ 0#16 then some (.loopi b e t n i16) else none
  | 0x29 => if w.extractLsb' 16 6 = 0#6 ∧ i16 ≠ 0#16 then some (.loopr b e t rd i16) else none
  | 0x2A =>
    let n := w.extractLsb' 0 2
    if w.extractLsb' 2 24 = 0#24 ∧ n ≠ 0#2 then some (.lpop b e t n) else none
  | 0x2C => decodeSys b e t w
  | 0x30 => decodeMac b e t w
  | 0x38 => decodeCop b e t false w
  | 0x39 => decodeSep b e t w
  | 0x3A => decodeCop b e t true w
  | 0x3B => decodeStr b e t w
  | _ => none

/-! ### The encoder -/

/-- The bits of a register number. -/
abbrev rbits (r : Fin 16) : BitVec 4 := BitVec.ofFin r

/-- A bit. -/
abbrev bbit (x : Bool) : BitVec 1 := BitVec.ofBool x

/-- MODE and the fields below it (R226). -/
def encodeMode : Mode → BitVec 15
  | .disp imm => 0#2 ++ imm
  | .post imm => 1#2 ++ imm
  | .pre imm => 2#2 ++ imm
  | .index dk sc => 3#2 ++ rbits dk ++ sc ++ 0#7

/-- A load or store word. -/
def encodeMem (major : BitVec 6) (rt ab : Fin 16) (seg : Fin 8) (m : Mode) : Word :=
  major ++ rbits rt ++ rbits ab ++ BitVec.ofFin (w := 3) seg ++ encodeMode m

/-- An ALU register form. -/
def encodeAlu (func : BitVec 6) (rd rs rt : Fin 16) : Word := 0#6 ++ rbits rd ++ rbits rs ++ rbits rt ++ 0#8 ++ func

/-- A multiply-accumulate form. -/
def encodeMac (func : BitVec 6) (ac : Fin 4) (ds dt dd : Fin 16) (sh : BitVec 6) : Word :=
  0x30#6 ++ BitVec.ofFin (w := 2) ac ++ rbits ds ++ rbits dt ++ rbits dd ++ sh ++ func

/-- The lower major of a unit. -/
abbrev copMajor (u : Bool) : BitVec 6 := if u then 0x3A#6 else 0x38#6

/-- The code-store word of an engine instruction (R221 to R241, R261, R272); `none` for every other command. -/
def encodeEng : Instr → Option Word
  | .add _ _ _ rd rs rt => some (encodeAlu 0x01#6 rd rs rt)
  | .sub _ _ _ rd rs rt => some (encodeAlu 0x02#6 rd rs rt)
  | .adds _ _ _ rd rs rt => some (encodeAlu 0x03#6 rd rs rt)
  | .subs _ _ _ rd rs rt => some (encodeAlu 0x04#6 rd rs rt)
  | .and _ _ _ rd rs rt => some (encodeAlu 0x05#6 rd rs rt)
  | .or _ _ _ rd rs rt => some (encodeAlu 0x06#6 rd rs rt)
  | .xor _ _ _ rd rs rt => some (encodeAlu 0x07#6 rd rs rt)
  | .andn _ _ _ rd rs rt => some (encodeAlu 0x08#6 rd rs rt)
  | .sll _ _ _ rd rs rt => some (encodeAlu 0x09#6 rd rs rt)
  | .srl _ _ _ rd rs rt => some (encodeAlu 0x0A#6 rd rs rt)
  | .sra _ _ _ rd rs rt => some (encodeAlu 0x0B#6 rd rs rt)
  | .ror _ _ _ rd rs rt => some (encodeAlu 0x0C#6 rd rs rt)
  | .slt _ _ _ rd rs rt => some (encodeAlu 0x0D#6 rd rs rt)
  | .sltu _ _ _ rd rs rt => some (encodeAlu 0x0E#6 rd rs rt)
  | .min _ _ _ rd rs rt => some (encodeAlu 0x0F#6 rd rs rt)
  | .max _ _ _ rd rs rt => some (encodeAlu 0x10#6 rd rs rt)
  | .minu _ _ _ rd rs rt => some (encodeAlu 0x11#6 rd rs rt)
  | .maxu _ _ _ rd rs rt => some (encodeAlu 0x12#6 rd rs rt)
  | .mul _ _ _ rd rs rt => some (encodeAlu 0x13#6 rd rs rt)
  | .mulh _ _ _ rd rs rt => some (encodeAlu 0x14#6 rd rs rt)
  | .mulhu _ _ _ rd rs rt => some (encodeAlu 0x15#6 rd rs rt)
  | .clz _ _ _ rd rs => some (encodeAlu 0x16#6 rd rs 0)
  | .abs _ _ _ rd rs => some (encodeAlu 0x17#6 rd rs 0)
  | .addi _ _ _ rd rs imm => some (0x01#6 ++ rbits rd ++ rbits rs ++ imm)
  | .slti _ _ _ rd rs imm => some (0x02#6 ++ rbits rd ++ rbits rs ++ imm)
  | .sltiu _ _ _ rd rs imm => some (0x03#6 ++ rbits rd ++ rbits rs ++ imm)
  | .andi _ _ _ rd rs imm => some (0x04#6 ++ rbits rd ++ rbits rs ++ imm)
  | .ori _ _ _ rd rs imm => some (0x05#6 ++ rbits rd ++ rbits rs ++ imm)
  | .xori _ _ _ rd rs imm => some (0x06#6 ++ rbits rd ++ rbits rs ++ imm)
  | .lui _ _ _ rd imm => some (0x07#6 ++ rbits rd ++ 0#6 ++ imm)
  | .shifti _ _ _ rd rs ty sh => some (0x08#6 ++ rbits rd ++ rbits rs ++ ty ++ 0#11 ++ sh)
  | .addai _ _ _ ad sa imm => some (0x0C#6 ++ rbits ad ++ rbits sa ++ imm)
  | .mova _ _ _ ad sa => some (0x0D#6 ++ rbits ad ++ rbits sa ++ 0#14 ++ 0x0#4)
  | .adda _ _ _ ad sa dt sc => some (0x0D#6 ++ rbits ad ++ rbits sa ++ rbits dt ++ sc ++ 0#8 ++ 0x1#4)
  | .suba _ _ _ ad sa dt sc => some (0x0D#6 ++ rbits ad ++ rbits sa ++ rbits dt ++ sc ++ 0#8 ++ 0x2#4)
  | .movda _ _ _ ad ds => some (0x0D#6 ++ rbits ad ++ rbits ds ++ 0#14 ++ 0x3#4)
  | .movad _ _ _ dd sa => some (0x0D#6 ++ rbits dd ++ rbits sa ++ 0#14 ++ 0x4#4)
  | .mfc _ _ _ dx cr => some (0x0E#6 ++ rbits dx ++ cr ++ 0#15 ++ 0#1)
  | .mtc _ _ _ dx cr => some (0x0E#6 ++ rbits dx ++ cr ++ 0#15 ++ 1#1)
  | .getc _ _ _ th cls idx dx => some (0x0F#6 ++ BitVec.ofFin (w := 3) th ++ cls ++ idx ++ rbits dx ++ 0#7 ++ 0x0#4)
  | .putc _ _ _ th cls idx dx => some (0x0F#6 ++ BitVec.ofFin (w := 3) th ++ cls ++ idx ++ rbits dx ++ 0#7 ++ 0x1#4)
  | .release _ _ _ dx => some (0x0F#6 ++ 0#11 ++ rbits dx ++ 0#7 ++ 0x2#4)
  | .ld _ _ _ rt ab seg m => some (encodeMem 0x10#6 rt ab seg m)
  | .ldh _ _ _ rt ab seg m => some (encodeMem 0x11#6 rt ab seg m)
  | .ldhu _ _ _ rt ab seg m => some (encodeMem 0x12#6 rt ab seg m)
  | .ldb _ _ _ rt ab seg m => some (encodeMem 0x13#6 rt ab seg m)
  | .ldbu _ _ _ rt ab seg m => some (encodeMem 0x14#6 rt ab seg m)
  | .ldp _ _ _ rt ab seg m => some (encodeMem 0x15#6 rt ab seg m)
  | .lda _ _ _ rt ab seg m => some (encodeMem 0x16#6 rt ab seg m)
  | .st _ _ _ rt ab seg m _ => some (encodeMem 0x18#6 rt ab seg m)
  | .sth _ _ _ rt ab seg m _ => some (encodeMem 0x19#6 rt ab seg m)
  | .stb _ _ _ rt ab seg m _ => some (encodeMem 0x1A#6 rt ab seg m)
  | .stp _ _ _ rt ab seg m _ => some (encodeMem 0x1B#6 rt ab seg m)
  | .sta _ _ _ rt ab seg m _ => some (encodeMem 0x1C#6 rt ab seg m)
  | .br _ _ _ ds dt cond off => some (0x20#6 ++ rbits ds ++ rbits dt ++ cond ++ off)
  | .brz _ _ _ ds cond off => some (0x21#6 ++ rbits ds ++ cond ++ 0#3 ++ off)
  | .j _ _ _ tgt => some (0x22#6 ++ 0#10 ++ tgt)
  | .call _ _ _ tgt => some (0x23#6 ++ 0#10 ++ tgt)
  | .jr _ _ _ sa => some (0x24#6 ++ rbits sa ++ 0#18 ++ 0x0#4)
  | .callr _ _ _ sa => some (0x24#6 ++ rbits sa ++ 0#18 ++ 0x1#4)
  | .ret _ _ _ => some (0x24#6 ++ 0#4 ++ 0#18 ++ 0x2#4)
  | .loopi _ _ _ count off => some (0x28#6 ++ count ++ off)
  | .loopr _ _ _ ds off => some (0x29#6 ++ rbits ds ++ 0#6 ++ off)
  | .lpop _ _ _ n => some (0x2A#6 ++ 0#24 ++ n)
  | .wfe _ _ _ dd mask => some (0x2C#6 ++ rbits dd ++ 0#5 ++ mask ++ 0#8 ++ 0x1#4)
  | .endop _ _ _ inv => some (0x2C#6 ++ 0#4 ++ 0#5 ++ 0#4 ++ bbit inv ++ 0#8 ++ 0x2#4)
  | .rft _ _ _ skip => some (0x2C#6 ++ 0#4 ++ 0#5 ++ 0#4 ++ bbit skip ++ 0#8 ++ 0x3#4)
  | .brk _ _ _ => some (0x2C#6 ++ 0#4 ++ 0#5 ++ 0#5 ++ 0#8 ++ 0x4#4)
  | .mac _ _ _ ac ds dt => some (encodeMac 0x01#6 ac ds dt 0 0#6)
  | .msu _ _ _ ac ds dt => some (encodeMac 0x02#6 ac ds dt 0 0#6)
  | .macu _ _ _ ac ds dt => some (encodeMac 0x03#6 ac ds dt 0 0#6)
  | .mulac _ _ _ ac ds dt => some (encodeMac 0x04#6 ac ds dt 0 0#6)
  | .clrac _ _ _ ac => some (encodeMac 0x05#6 ac 0 0 0 0#6)
  | .acx _ _ _ dd ac sh => some (encodeMac 0x08#6 ac 0 0 dd sh)
  | .acxt _ _ _ dd ac sh => some (encodeMac 0x09#6 ac 0 0 dd sh)
  | .mfac _ _ _ dd ac part => some (encodeMac 0x0C#6 ac 0 0 dd (0#4 ++ part))
  | .mtac _ _ _ ac ds part => some (encodeMac 0x0D#6 ac ds 0 0 (0#4 ++ part))
  | .mfcp _ _ _ u dx reg => some (copMajor u ++ rbits dx ++ reg ++ 0#12 ++ 0x0#4)
  | .mtcp _ _ _ u dx reg => some (copMajor u ++ rbits dx ++ reg ++ 0#12 ++ 0x1#4)
  | .csave _ _ _ u ab seg => some (copMajor u ++ 0#4 ++ rbits ab ++ BitVec.ofFin (w := 3) seg ++ 0#11 ++ 0x2#4)
  | .crst _ _ _ u ab seg => some (copMajor u ++ 0#4 ++ rbits ab ++ BitVec.ofFin (w := 3) seg ++ 0#11 ++ 0x3#4)
  | .sdft _ _ _ mask adv => some (0x39#6 ++ 0x01#6 ++ mask ++ bbit adv ++ 0#11)
  | .out _ _ _ ch form rot => some (0x39#6 ++ 0x02#6 ++ BitVec.ofFin (w := 3) ch ++ bbit form ++ bbit rot ++ 0#15)
  | .cmul _ _ _ qd qa qb =>
    some (0x39#6 ++ 0x03#6 ++ BitVec.ofFin (w := 2) qd ++ BitVec.ofFin (w := 2) qa ++ BitVec.ofFin (w := 2) qb ++ 0#14)
  | .cmac _ _ _ qd qa qb =>
    some (0x39#6 ++ 0x04#6 ++ BitVec.ofFin (w := 2) qd ++ BitVec.ofFin (w := 2) qa ++ BitVec.ofFin (w := 2) qb ++ 0#14)
  | .cclr _ _ _ qd => some (0x39#6 ++ 0x05#6 ++ BitVec.ofFin (w := 2) qd ++ 0#18)
  | .clrs _ _ _ mask => some (0x39#6 ++ 0x06#6 ++ mask ++ 0#12)
  | .begin _ _ _ => some (0x3B#6 ++ 0x01#6 ++ 0#20)
  | .upd _ _ _ len => some (0x3B#6 ++ 0x02#6 ++ 0#13 ++ len)
  | .fin _ _ _ => some (0x3B#6 ++ 0x03#6 ++ 0#20)
  | .drop _ _ _ => some (0x3B#6 ++ 0x04#6 ++ 0#20)
  | _ => none

/-- The operation table gives no row any bits, so no table word spells a command. -/
def decodeTableWord (_nbits _w : Nat) : Option Instr := none

end Sys2Proof
end

