-- ==== Sys2Proof/Config.lean ====
section
/-!
DEFINITION. What an implementation fixes and what the spec leaves open.  A free value is an opaque constant with no
body: nothing can be proved of it, so a statement holds whatever the hardware does (assumption log entry 5).
The `Nat` argument of a stream of free values is State's counter `free`, advanced at every use.
-/

namespace Sys2Proof.Config

/-- The offset, in ns, by which a counter loaded from the coarse clock lies off that clock; used modulo 62,001 and
moved to −31,000 .. +31,000 (R52: "within ±31 µs"). -/
opaque rtcLoadOfs : Nat → Nat

/-- The error of a PPS input capture, used modulo 21 and moved to −10 .. +10 ns (R45). -/
opaque ppsInErr : Nat → Nat

/-- The error of a port time stamp, used modulo 9 and moved to −4 .. +4 ns (R34). -/
opaque stampErr : Nat → Nat

/-- The tick rate of the idle plan while no bank with a legal RATE is live; used modulo 15,001 and moved to
1,000 .. 16,000 (the spec gives the idle plan no rate). -/
opaque idleRate : Nat

/-- A free word of a register (uses of the byre's counter `free`). -/
opaque freeWord : Nat → Word

/-- The micro-words that the loaded image makes a routine execute after its first one (R64), from that one; used modulo
4,096. -/
opaque microPath : Nat → List Nat

/-! ### The separator (R259 to R263) -/

/-- The coefficient a separator reads beyond entry 1,023, which no legal CFG and P reach (R259, R262). -/
opaque coefBeyond : Nat → Word

/-- Which of the two products of a component of a complex product the unit rounds first (R263 fixes only that each
multiply-add rounds once). -/
opaque cmulFirst : Bool

/-- The NaN that an operation propagates or produces, from its operands; only its payload bits are used (R263). -/
opaque nanPayload : Word → Word → Word → BitVec 22

/-- Which of the values within 2 units in the last place of the exact magnitude and angle RES0 and RES1 of OUT FORM 0 hold (R263;
`Machine.nearWord`; the whole value where the phasor is infinite or no number), and RES of an OUT whose window has no length N. -/
opaque outMag : Word → Word → Word
opaque outAng : Word → Word → Word
opaque outNoLen : Nat → Word

/-! ### Frames -/

/-- The bucket of the duplicate filter for a pair, source address and number, used modulo 1,024 (R116 names no hash). -/
opaque dupBucket : Nat → Nat → Nat → Nat

/-- The own MAC address of a pair of a byre (R118); no register of the spec holds it. -/
opaque pairMac : Nat → Nat → Nat

/-- The security extension of IEC 62351-6 in a frame (R268): MAC length in bytes, key identifier, initialisation vector,
the bytes that the MAC covers, and the MAC; none where the frame carries none. -/
opaque authExt : List Byte → Option (Nat × Nat × List Byte × List Byte × Nat)

/-- Whether an interrupt of the churn falls before the commit micro-word of a routine (R71): the microcode image decides. -/
opaque midRoutine : Nat → Bool

/-- Whether output 26 writes a frame to the DRAM or to the vat, and at which address (R108): no rule says. -/
opaque tankOutDram : Nat → Bool
opaque tankOut : Nat → Nat

/-- The time within which the publisher has built a frame, used modulo 1,001 ns (R335); the error of a pin capture, used
modulo 21 and moved to −10 .. +10 ns (R329). -/
opaque pubReady : Nat → Nat
opaque capErr : Nat → Nat

/-! ### Tugus -/

/-- Depth of the control queue of an output, at least 1 (CTL_TX_STATUS names it; no rule gives it); the size of a
manager's member table (R368); and whether the inject queue of 16 is full when a can is injected (R373). -/
opaque ctlDepth : Nat
opaque memberMax : Nat
opaque injFull : Nat → Bool

/-! ### DRAM -/

/-- What a DRAM byte that has not been written since the content was last undefined reads as: number of losses, address;
and the check that the metadata holds for such a block: number of losses, block (R380, R381, R388). -/
opaque dramByte : Nat → Nat → Byte
opaque dramCheck : Nat → Nat → BitVec 16

/-- The seed of the neighbour refresh generator and its next number (R384): use of the stream. -/
opaque nbrNext : Nat → Word

/-- A word of the training results that a training leaves: use of the stream, word. -/
opaque trainWord : Nat → Nat → Word

/-! ### Tankers -/

/-- A byte of a destination that a disabled channel was writing (R304: undefined), and the bytes that a skipped transfer
had moved (R302, R423), used modulo what it could move. -/
opaque lostByte : Nat → Nat → Byte
opaque moved : Nat → Nat

/-- Do two writes that the block's clock does not tell apart fall into one cycle (R284): use of the stream. -/
opaque sameCycle : Nat → Bool

/-! ### Power -/

/-- The OTP trim VCORE_MIN of a byre, used modulo 151 and moved to 650 .. 800 mV (R494). -/
opaque vcoreMin : Nat → Nat

/-- What a byre's regulator answers to VOUT_MODE: byre, page (R492: the linear format). -/
opaque voutMode : Nat → Nat → Byte

/-! ### The creamery -/

/-- Does a slot of the package store still hold its package when a sched_install into it is aborted between two parts (R415): use of the
stream. -/
opaque installKeeps : Nat → Bool

/-- A byte of the noise source (R456), and the number drawn for a session ID (R457): use of the stream. -/
opaque noise : Nat → Nat → Byte
opaque sessionId : Nat → Nat

/-- The results that a factory test defines (R436): test number, use of the stream; at most 4,080 bytes of it are used. -/
opaque factory : Nat → Nat → List Byte

/-- Has the firmware timer expired (R251; no rule says when it does): use of the stream. -/
opaque fwTimer : Nat → Bool

/-- Contents of the boot ROM, and of flash bytes that hold no record of the model, by management address. -/
opaque romByte : Nat → Byte

end Sys2Proof.Config
end

