-- ==== Sys2Proof/Machine/RegMap.lean ====
section
/-!
DEFINITION. The register map: every register and field of the spec's register tables, by name, with the offset,
access type (R7) and reset value the tables give.  Byre registers are offsets in the 16 MiB byre view of R26 (block n
at 0x00C0_0000 + n * 0x0001_0000); creamery and AON registers are absolute management addresses (R25).
`R.<REG>` is a register's offset, `F.<REG>_<FIELD>` one field of it, and `byreRegs`/`crmRegs`/`aonRegs` are the
tables a management access walks.
-/

namespace Sys2Proof.Machine

/-- The access types of R7 (RSV needs no entry: bits no field covers read 0 and ignore writes). -/
inductive Acc where
  | rw | ro | w1c | w1s | wo | rc
  deriving DecidableEq, Repr

/-- A field of one register: where it stands. -/
structure Fld where
  /-- the register's offset -/
  off : Nat
  hi : Nat
  lo : Nat
  deriving DecidableEq, Repr

/-- One row of a register table: bits, access type, reset value, and for a RW field the values that are not
reserved encodings (R9). -/
structure FldD where
  hi : Nat
  lo : Nat
  acc : Acc
  rst : Nat
  legal : Nat → Bool := fun _ => true

/-- A register, or an array of registers: `dims` lists (count, stride) from the outermost index in. -/
structure RegD where
  off : Nat
  dims : List (Nat × Nat)
  flds : List FldD

/-- A 32-bit field read as a two's-complement number. -/
def sgn32 (v : Nat) : Int := if v < 2147483648 then (v : Int) else (v : Int) - 4294967296

/-- Does `d`, an offset from an array's first register, name one of its registers? -/
def RegD.inDims : List (Nat × Nat) → Nat → Bool
  | [], d => d == 0
  | (c, st) :: ds, d => decide (d / st < c) && RegD.inDims ds (d % st)

/-- Does the offset name this register? -/
def RegD.has (r : RegD) (off : Nat) : Bool := decide (r.off ≤ off) && RegD.inDims r.dims (off - r.off)

/-- The register's value after reset. -/
def RegD.resetWord (r : RegD) : Nat := r.flds.foldl (fun a f => a + f.rst * 2 ^ f.lo) 0

namespace R
abbrev CRM_BUS_ERR : Nat := 0x2000040
abbrev CRM_BUS_ERR_ADDR : Nat := 0x2000044
abbrev CRM_BUS_ERR_SRC : Nat := 0x2000048
abbrev CRM_BUS_ERR_CNT : Nat := 0x200004C
abbrev TIME_CTRL : Nat := 0xCA0000
abbrev TIME_STATUS : Nat := 0xCA0004
abbrev TIME_SEC_LO : Nat := 0xCA0008
abbrev TIME_SEC_HI : Nat := 0xCA000C
abbrev TIME_NS : Nat := 0xCA0010
abbrev TIME_FADJ : Nat := 0xCA0014
abbrev TIME_STEP_SEC : Nat := 0xCA0018
abbrev TIME_STEP_NS : Nat := 0xCA001C
abbrev TIME_SERVO_CFG : Nat := 0xCA0020
abbrev TIME_SERVO : Nat := 0xCA0024
abbrev TIME_HOLD : Nat := 0xCA0028
abbrev TIME_ERR_BOUND : Nat := 0xCA002C
abbrev TIME_QUAL : Nat := 0xCA0030
abbrev TIME_UTC : Nat := 0xCA0034
abbrev TIME_TICK_RATE : Nat := 0xCA0038
abbrev TIME_TICK_SEC : Nat := 0xCA003C
abbrev TIME_TICK_K : Nat := 0xCA0040
abbrev TIME_PPS_OUT : Nat := 0xCA0044
abbrev TIME_PPS_OUT_OFS : Nat := 0xCA0048
abbrev TIME_PPS_IN : Nat := 0xCA004C
abbrev TIME_PPS_IN_DIFF : Nat := 0xCA0050
abbrev TIME_GAP_SEC : Nat := 0xCA0054
abbrev TIME_GAP_NS : Nat := 0xCA0058
abbrev TIME_MONO_LO : Nat := 0xCA005C
abbrev TIME_MONO_HI : Nat := 0xCA0060
abbrev TIME_BC_MASTER : Nat := 0xCA0064
abbrev TIME_TC_EN : Nat := 0xCA0068
abbrev TIME_SERVO_OWNER : Nat := 0xCA006C
abbrev TIME_RSV_FLAG : Nat := 0xCA0070
abbrev TIME_RSV_ADDR : Nat := 0xCA0074
abbrev TIME_ING_DLY (i : Nat) : Nat := 0xCA0100 + i * 0x8
abbrev TIME_EGR_DLY (i : Nat) : Nat := 0xCA0104 + i * 0x8
abbrev CHURN_CTRL : Nat := 0xC00000
abbrev CHURN_STATUS : Nat := 0xC00004
abbrev CHURN_VERIFY : Nat := 0xC00008
abbrev CHURN_PC : Nat := 0xC0000C
abbrev CHURN_UPC : Nat := 0xC00010
abbrev CHURN_ARM_SEC : Nat := 0xC00014
abbrev CHURN_ARM_K : Nat := 0xC00018
abbrev CHURN_ARM : Nat := 0xC0001C
abbrev CHURN_ARM_STATUS : Nat := 0xC00020
abbrev CHURN_EPOCH : Nat := 0xC00024
abbrev CHURN_SWAP_SEC : Nat := 0xC00028
abbrev CHURN_SWAP_K : Nat := 0xC0002C
abbrev CHURN_RESERVE : Nat := 0xC00030
abbrev CHURN_COMMIT_LAST : Nat := 0xC00034
abbrev CHURN_COMMIT_MAX : Nat := 0xC00038
abbrev CHURN_MCHK : Nat := 0xC0003C
abbrev CHURN_MCHK_ADDR : Nat := 0xC00040
abbrev CHURN_BADENG : Nat := 0xC00044
abbrev CHURN_RSV_FLAG : Nat := 0xC00070
abbrev CHURN_RSV_ADDR : Nat := 0xC00074
abbrev CHURN_DISP (i : Nat) : Nat := 0xC00400 + i * 0x4
abbrev SW_LINK_TIMING : Nat := 0xC20000
abbrev SW_DUP_CFG : Nat := 0xC20004
abbrev SW_TALLY_CTRL : Nat := 0xC20008
abbrev SW_TALLY_BASE : Nat := 0xC2000C
abbrev SW_TALLY_WR : Nat := 0xC20010
abbrev SW_TALLY_RD : Nat := 0xC20014
abbrev SW_RSV_FLAG : Nat := 0xC20070
abbrev SW_RSV_ADDR : Nat := 0xC20074
abbrev SW_CREDIT (i : Nat) : Nat := 0xC20100 + i * 0x4
abbrev SW_PAIR (i : Nat) : Nat := 0xC20180 + i * 0x4
abbrev SW_PORT_CTRL (i : Nat) : Nat := 0xC21000 + i * 0x100
abbrev SW_PORT_STATUS (i : Nat) : Nat := 0xC21004 + i * 0x100
abbrev SW_PORT_GUARD (i : Nat) : Nat := 0xC21008 + i * 0x100
abbrev SW_PORT_QDEPTH0 (i : Nat) : Nat := 0xC2100C + i * 0x100
abbrev SW_PORT_QDEPTH1 (i : Nat) : Nat := 0xC21010 + i * 0x100
abbrev SW_PORT_TALLY (i : Nat) : Nat := 0xC21014 + i * 0x100
abbrev SKIM_CTRL : Nat := 0xC30000
abbrev SKIM_FRAG_CFG : Nat := 0xC30004
abbrev SKIM_FLOOD : Nat := 0xC30008
abbrev SKIM_ENT_CMD : Nat := 0xC30010
abbrev SKIM_ENT_KEY (i : Nat) : Nat := 0xC30100 + i * 0x4
abbrev SKIM_ENT_MASK (i : Nat) : Nat := 0xC30140 + i * 0x4
abbrev SKIM_ENT_ACT (i : Nat) : Nat := 0xC30180 + i * 0x4
abbrev SKIM_DEF (i : Nat) (j : Nat) : Nat := 0xC30190 + i * 0x10 + j * 0x4
abbrev EMU_CTRL : Nat := 0xC40000
abbrev EMU_SEED : Nat := 0xC40004
abbrev EMU_CMD : Nat := 0xC40008
abbrev EMU_CMD_STATUS : Nat := 0xC4000C
abbrev EMU_OVF_USED : Nat := 0xC40010
abbrev EMU_ENT (i : Nat) : Nat := 0xC40020 + i * 0x4
abbrev EMU_NOTE0 : Nat := 0xC40040
abbrev EMU_NOTE1 : Nat := 0xC40044
abbrev EMU_NOTE2 : Nat := 0xC40048
abbrev EMU_LRN_CFG (i : Nat) : Nat := 0xC40200 + i * 0x8
abbrev EMU_LRN_COUNT (i : Nat) : Nat := 0xC40204 + i * 0x8
abbrev PRESS_CTRL : Nat := 0xC50000
abbrev PRESS_STATUS : Nat := 0xC50004
abbrev PRESS_CFG_CMD : Nat := 0xC50010
abbrev PRESS_CFG_STATUS : Nat := 0xC50014
abbrev PRESS_CFG_DATA (i : Nat) : Nat := 0xC50020 + i * 0x4
abbrev PRESS_GRP_SEC (i : Nat) : Nat := 0xC50200 + i * 0x10
abbrev PRESS_GRP_K (i : Nat) : Nat := 0xC50204 + i * 0x10
abbrev PRESS_GRP_SEAL (i : Nat) : Nat := 0xC50208 + i * 0x10
abbrev PRESS_GRP_STAT (i : Nat) : Nat := 0xC5020C + i * 0x10
abbrev ROTA_CTRL : Nat := 0xC10000
abbrev ROTA_STATUS : Nat := 0xC10004
abbrev ROTA_TOKENS : Nat := 0xC10008
abbrev ROTA_ING_CMD : Nat := 0xC10010
abbrev ROTA_ING_STATUS : Nat := 0xC10014
abbrev ROTA_ING_DATA (i : Nat) : Nat := 0xC10020 + i * 0x4
abbrev ROTA_IND_ADDR : Nat := 0xC10040
abbrev ROTA_IND_DATA : Nat := 0xC10044
abbrev ROTA_IND_STATUS : Nat := 0xC10048
abbrev ROTA_ENG_CTRL (i : Nat) : Nat := 0xC11000 + i * 0x100
abbrev ROTA_ENG_VECTOR (i : Nat) : Nat := 0xC11004 + i * 0x100
abbrev ROTA_ENG_STATUS (i : Nat) : Nat := 0xC11008 + i * 0x100
abbrev ROTA_ENG_SLOT0 (i : Nat) : Nat := 0xC1100C + i * 0x100
abbrev ROTA_ENG_SLOT1 (i : Nat) : Nat := 0xC11010 + i * 0x100
abbrev ROTA_ENG_URGENT (i : Nat) : Nat := 0xC11014 + i * 0x100
abbrev ROTA_ENG_TRAP (i : Nat) : Nat := 0xC11018 + i * 0x100
abbrev ROTA_ENG_THR (i : Nat) (j : Nat) : Nat := 0xC11020 + i * 0x100 + j * 0x4
abbrev ROTA_ENG_BUDGET (i : Nat) (j : Nat) : Nat := 0xC11040 + i * 0x100 + j * 0x4
abbrev ROTA_CP_GATE_SEP : Nat := 0xC14000
abbrev ROTA_CP_GATE_STR : Nat := 0xC14004
abbrev ROTA_KEY_CMD : Nat := 0xC14010
abbrev ROTA_KEY_STATUS : Nat := 0xC14014
abbrev ROTA_KEY_HDR : Nat := 0xC14018
abbrev ROTA_KEY_ID0 : Nat := 0xC1401C
abbrev ROTA_KEY_ID1 : Nat := 0xC14020
abbrev ROTA_KEY_KCV0 : Nat := 0xC14024
abbrev ROTA_KEY_KCV1 : Nat := 0xC14028
abbrev ROTA_STR_STATUS : Nat := 0xC14030
abbrev ROTA_AUTH_FAIL_CAP : Nat := 0xC14034
abbrev ROTA_KEY_DATA (i : Nat) : Nat := 0xC14040 + i * 0x4
abbrev PAIL_POOL_CFG (i : Nat) : Nat := 0xC60000 + i * 0x10
abbrev PAIL_POOL_STAT (i : Nat) : Nat := 0xC60004 + i * 0x10
abbrev PAIL_POOL_BOOK (i : Nat) : Nat := 0xC60008 + i * 0x10
abbrev PAIL_QUOTA (i : Nat) : Nat := 0xC60200 + i * 0x8
abbrev PAIL_USED (i : Nat) : Nat := 0xC60204 + i * 0x8
abbrev PAIL_FREE_CAP : Nat := 0xC60040
abbrev PAIL_FREE_ADDR : Nat := 0xC60044
abbrev VAT_BOOK : Nat := 0xC70000
abbrev VAT_COLL_CAP : Nat := 0xC70008
abbrev VAT_OWNER (i : Nat) : Nat := 0xC70100 + i * 0x4
abbrev TNK_SH (i : Nat) (j : Nat) : Nat := 0xC81000 + i * 0x100 + j * 0x4
abbrev TNK_LIVE (i : Nat) (j : Nat) : Nat := 0xC81020 + i * 0x100 + j * 0x4
abbrev TNK_CTRL (i : Nat) : Nat := 0xC81040 + i * 0x100
abbrev TNK_STATUS (i : Nat) : Nat := 0xC81044 + i * 0x100
abbrev TNK_LATCH (i : Nat) : Nat := 0xC81048 + i * 0x100
abbrev TNK_TAKEN (i : Nat) : Nat := 0xC8104C + i * 0x100
abbrev TNK_RETURNED (i : Nat) : Nat := 0xC81050 + i * 0x100
abbrev LOCK_GRP_RIGHTS (i : Nat) : Nat := 0xC90000 + i * 0x4
abbrev LOCK_ERR_CAP : Nat := 0xC90040
abbrev LOCK_ACQ (i : Nat) : Nat := 0xC90400 + i * 0x4
abbrev LOCK_REL (i : Nat) : Nat := 0xC90800 + i * 0x4
abbrev CAL_PUB_CMD : Nat := 0xCB0010
abbrev CAL_SUB_CMD : Nat := 0xCB0018
abbrev CAL_PUB_STATUS : Nat := 0xCB0014
abbrev CAL_SUB_STATUS : Nat := 0xCB001C
abbrev CAL_PUB_DATA (i : Nat) : Nat := 0xCB0100 + i * 0x4
abbrev CAL_SUB_DATA (i : Nat) : Nat := 0xCB0040 + i * 0x4
abbrev CAL_LATE_CAP : Nat := 0xCB0050
abbrev CAL_LATE_NS : Nat := 0xCB0054
abbrev CAL_CAP_LAST : Nat := 0xCB0058
abbrev CAL_CAP_LAST_SEC : Nat := 0xCB005C
abbrev CAL_CAP_LAST_NS : Nat := 0xCB0060
abbrev CAL_OCC (i : Nat) : Nat := 0xCB0300 + i * 0x4
abbrev CAL_PIN_CFG (i : Nat) : Nat := 0xCB0400 + i * 0x10
abbrev CAL_PIN_FILT (i : Nat) : Nat := 0xCB0404 + i * 0x10
abbrev CAL_PIN_DLY (i : Nat) : Nat := 0xCB0408 + i * 0x10
abbrev CAL_PIN_STATUS (i : Nat) : Nat := 0xCB040C + i * 0x10
abbrev TUG_NODE : Nat := 0xCD0000
abbrev TUG_MGR : Nat := 0xCD0004
abbrev TUG_ROOT : Nat := 0xCD0008
abbrev TUG_TIME_CFG : Nat := 0xCD000C
abbrev TUG_LINK_CFG : Nat := 0xCD0010
abbrev TUG_TUN_CFG : Nat := 0xCD0014
abbrev TUG_TUN_EP : Nat := 0xCD0018
abbrev TUG_BULK_OP : Nat := 0xCD001C
abbrev TUG_SHR_CMD : Nat := 0xCD0020
abbrev TUG_SHR_STATUS : Nat := 0xCD0024
abbrev TUG_SHR_DATA (i : Nat) : Nat := 0xCD0028 + i * 0x4
abbrev TUG_CTL_TX_CMD : Nat := 0xCD0034
abbrev TUG_CTL_TX_STATUS : Nat := 0xCD0038
abbrev TUG_CTL_RX_STATUS : Nat := 0xCD003C
abbrev TUG_TIME_CAP : Nat := 0xCD0040
abbrev TUG_TIME_CAP_OFS : Nat := 0xCD0044
abbrev TUG_CTL_TX_DATA (i : Nat) : Nat := 0xCD0200 + i * 0x4
abbrev TUG_CTL_RX_DATA (i : Nat) : Nat := 0xCD0300 + i * 0x4
abbrev TUG_ROUTE_MEMBER (i : Nat) : Nat := 0xCD0800 + i * 0x4
abbrev TUG_ROUTE_AREA (i : Nat) : Nat := 0xCD0820 + i * 0x4
abbrev TUG_LINK_STATUS (i : Nat) : Nat := 0xCD1000 + i * 0x100
abbrev TUG_LINK_FAR (i : Nat) : Nat := 0xCD1004 + i * 0x100
abbrev TUG_LINK_DLY (i : Nat) : Nat := 0xCD1008 + i * 0x100
abbrev TUG_LINK_OFS (i : Nat) : Nat := 0xCD100C + i * 0x100
abbrev TUG_LINK_RX_CRED (i : Nat) (j : Nat) : Nat := 0xCD1010 + i * 0x100 + j * 0x4
abbrev TUG_LINK_TX_CRED (i : Nat) (j : Nat) : Nat := 0xCD1020 + i * 0x100 + j * 0x4
abbrev DRAM_CFG : Nat := 0xCC0000
abbrev DRAM_CMD : Nat := 0xCC0004
abbrev DRAM_STATUS : Nat := 0xCC0008
abbrev DRAM_SIZE : Nat := 0xCC000C
abbrev DRAM_CHK_CAP : Nat := 0xCC0010
abbrev DRAM_TRAIN_IDX : Nat := 0xCC0014
abbrev DRAM_TRAIN_DATA : Nat := 0xCC0018
abbrev DRAM_REC_CTRL : Nat := 0xCC0020
abbrev DRAM_REC_BASE : Nat := 0xCC0024
abbrev DRAM_REC_SIZE : Nat := 0xCC0028
abbrev DRAM_REC_WIN : Nat := 0xCC002C
abbrev DRAM_REC_PANIC : Nat := 0xCC0030
abbrev DRAM_REC_STATE : Nat := 0xCC0034
abbrev DRAM_REC_CMD : Nat := 0xCC0038
abbrev DRAM_REC_WR : Nat := 0xCC003C
abbrev DRAM_REC_OLD : Nat := 0xCC0040
abbrev DRAM_REC_PRE : Nat := 0xCC0044
abbrev DRAM_REC_TRIG : Nat := 0xCC0048
abbrev DRAM_REC_TRIG_SEC : Nat := 0xCC004C
abbrev DRAM_REC_TRIG_K : Nat := 0xCC0050
abbrev CRM_ID : Nat := 0x2000000
abbrev CRM_HWIN_MAP (i : Nat) : Nat := 0x2040000 + i * 0x4
abbrev CHURN_BYRE : Nat := 0xC00048
abbrev CHURN_BADBANK_LO : Nat := 0xC0004C
abbrev CHURN_BADBANK_HI : Nat := 0xC00050
abbrev CHURN_FLT_CAP : Nat := 0xC00054
abbrev CHURN_FLT_ADDR : Nat := 0xC00058
abbrev CHURN_PAR_CAP : Nat := 0xC0005C
abbrev CHURN_PAR_ADDR : Nat := 0xC00060
abbrev AON_PWR_REQ : Nat := 0xD000000
abbrev AON_PWR_RESULT : Nat := 0xD000004
abbrev AON_PWR_STATE (i : Nat) : Nat := 0xD000010 + i * 0x4
abbrev AON_WAKE_CFG (i : Nat) : Nat := 0xD000030 + i * 0x4
abbrev AON_WAKE_STAT (i : Nat) : Nat := 0xD000050 + i * 0x4
abbrev AON_VREQ (i : Nat) : Nat := 0xD000080 + i * 0x8
abbrev AON_VSTAT (i : Nat) : Nat := 0xD000084 + i * 0x8
abbrev AON_VIN : Nat := 0xD000100
abbrev AON_PFAIL_CFG : Nat := 0xD000104
abbrev AON_PFAIL_STAT : Nat := 0xD000108
abbrev AON_CLK_STAT : Nat := 0xD00010C
abbrev AON_RST_CAUSE : Nat := 0xD000110
abbrev AON_BYRE_RST (i : Nat) : Nat := 0xD000120 + i * 0x4
abbrev PWR_TEMP : Nat := 0xCE0000
abbrev TIME_CNT_LOCK_LOSS : Nat := 0xCA0080
abbrev TIME_CNT_STEP : Nat := 0xCA0084
abbrev TIME_CNT_SKIP_STEP : Nat := 0xCA0088
abbrev TIME_CNT_LONG_STEP : Nat := 0xCA008C
abbrev TIME_CNT_SKIP_FREEZE : Nat := 0xCA0090
abbrev TIME_CNT_WATCHDOG : Nat := 0xCA0094
abbrev TIME_CNT_REFUSED : Nat := 0xCA0098
abbrev TIME_CNT_PPS_ALARM : Nat := 0xCA009C
abbrev TIME_CNT_PTP_DROP : Nat := 0xCA00A0
abbrev TIME_CNT_BAD_REQ : Nat := 0xCA00A4
abbrev CHURN_CNT_PLAN : Nat := 0xC00080
abbrev CHURN_CNT_RESERVE : Nat := 0xC00084
abbrev CHURN_CNT_MARGIN : Nat := 0xC00088
abbrev CHURN_CNT_OVERRUN : Nat := 0xC0008C
abbrev CHURN_CNT_RECOMPUTE : Nat := 0xC00090
abbrev CHURN_CNT_RESTART : Nat := 0xC00094
abbrev CHURN_CNT_SWAP : Nat := 0xC00098
abbrev CHURN_CNT_LATE_EPOCH : Nat := 0xC0009C
abbrev CHURN_CNT_REFUSED_ARM : Nat := 0xC000A0
abbrev CHURN_CNT_DEGRADE : Nat := 0xC000A4
abbrev SW_CNT_TALLY_DROP : Nat := 0xC20080
abbrev SW_CNT_TALLY_OVR : Nat := 0xC20084
abbrev SW_CNT_DUP_EVICT : Nat := 0xC20088
abbrev SW_CNT_CELL_DISCARD : Nat := 0xC2008C
abbrev SW_PORT_CNT_RX_FRAMES (i : Nat) : Nat := 0xC21040 + i * 0x100
abbrev SW_PORT_CNT_RX_OCT_LO (i : Nat) : Nat := 0xC21044 + i * 0x100
abbrev SW_PORT_CNT_RX_OCT_HI (i : Nat) : Nat := 0xC21048 + i * 0x100
abbrev SW_PORT_CNT_RX_FCS (i : Nat) : Nat := 0xC2104C + i * 0x100
abbrev SW_PORT_CNT_RX_RUNT (i : Nat) : Nat := 0xC21050 + i * 0x100
abbrev SW_PORT_CNT_RX_OVERSIZE (i : Nat) : Nat := 0xC21054 + i * 0x100
abbrev SW_PORT_CNT_RX_NOPAIL (i : Nat) : Nat := 0xC21058 + i * 0x100
abbrev SW_PORT_CNT_RX_PAUSE (i : Nat) : Nat := 0xC2105C + i * 0x100
abbrev SW_PORT_CNT_RX_INQ (i : Nat) : Nat := 0xC21060 + i * 0x100
abbrev SW_PORT_CNT_TX_FRAMES (i : Nat) : Nat := 0xC21064 + i * 0x100
abbrev SW_PORT_CNT_TX_OCT_LO (i : Nat) : Nat := 0xC21068 + i * 0x100
abbrev SW_PORT_CNT_TX_OCT_HI (i : Nat) : Nat := 0xC2106C + i * 0x100
abbrev SW_PORT_CNT_TX_ABORT (i : Nat) : Nat := 0xC21070 + i * 0x100
abbrev SW_PORT_CNT_TX_FLUSH (i : Nat) : Nat := 0xC21074 + i * 0x100
abbrev SW_PORT_CNT_TX_NOPAIL (i : Nat) : Nat := 0xC21078 + i * 0x100
abbrev SW_PORT_CNT_LINK_DOWN (i : Nat) : Nat := 0xC2107C + i * 0x100
abbrev SW_PORT_CNT_DUP_DROP (i : Nat) : Nat := 0xC21080 + i * 0x100
abbrev SW_PORT_CNT_RCT_ERR (i : Nat) : Nat := 0xC21084 + i * 0x100
abbrev SW_PORT_CNT_CAL_DOWN (i : Nat) : Nat := 0xC21088 + i * 0x100
abbrev SW_PORT_CNT_CAL_LATE (i : Nat) : Nat := 0xC2108C + i * 0x100
abbrev SW_PORT_CNT_TX_QDROP (i : Nat) (j : Nat) : Nat := 0xC210C0 + i * 0x100 + j * 0x4
abbrev SKIM_CNT_LOOKUP : Nat := 0xC30080
abbrev SKIM_CNT_DEFAULT : Nat := 0xC30084
abbrev SKIM_CNT_PARSE_ERR : Nat := 0xC30088
abbrev SKIM_CNT_ACT_DROP : Nat := 0xC3008C
abbrev SKIM_CNT_FRAG_FIRST : Nat := 0xC30090
abbrev SKIM_CNT_FRAG_HIT : Nat := 0xC30094
abbrev SKIM_CNT_FRAG_MISS : Nat := 0xC30098
abbrev SKIM_CNT_FRAG_FULL : Nat := 0xC3009C
abbrev SKIM_CNT_FRAG_TIMEOUT : Nat := 0xC300A0
abbrev SKIM_CNT_FRAG_REPLACE : Nat := 0xC300A4
abbrev EMU_CNT_LOOKUP : Nat := 0xC40080
abbrev EMU_CNT_MISS : Nat := 0xC40084
abbrev EMU_CNT_STREAM_MISS : Nat := 0xC40088
abbrev EMU_CNT_AUTH_NOKEY : Nat := 0xC4008C
abbrev EMU_CNT_FWD_FILTER : Nat := 0xC40090
abbrev EMU_CNT_INSERT_FULL : Nat := 0xC40094
abbrev EMU_CNT_AGED : Nat := 0xC40098
abbrev EMU_CNT_SUPERSEDED : Nat := 0xC4009C
abbrev EMU_CNT_LEARN : Nat := 0xC400A0
abbrev EMU_CNT_LEARN_MOVE : Nat := 0xC400A4
abbrev EMU_CNT_LEARN_CONFLICT : Nat := 0xC400A8
abbrev EMU_CNT_LEARN_LIMIT : Nat := 0xC400AC
abbrev EMU_CNT_LEARN_RATE : Nat := 0xC400B0
abbrev EMU_CNT_LEARN_FULL : Nat := 0xC400B4
abbrev EMU_CNT_NOTE_DROP : Nat := 0xC400B8
abbrev PRESS_CNT_SAMPLE : Nat := 0xC50080
abbrev PRESS_CNT_TWIN : Nat := 0xC50084
abbrev PRESS_CNT_REPEAT : Nat := 0xC50088
abbrev PRESS_CNT_LATE : Nat := 0xC5008C
abbrev PRESS_CNT_EARLY : Nat := 0xC50090
abbrev PRESS_CNT_BAD_CNT : Nat := 0xC50094
abbrev PRESS_CNT_LAYOUT : Nat := 0xC50098
abbrev PRESS_CNT_CONFREV : Nat := 0xC5009C
abbrev PRESS_CNT_NOTSYNC : Nat := 0xC500A0
abbrev PRESS_CNT_SUBST : Nat := 0xC500A4
abbrev PRESS_CNT_INVALID : Nat := 0xC500A8
abbrev PRESS_CNT_PARITY_FIX : Nat := 0xC500AC
abbrev PRESS_CNT_PARITY_LOST : Nat := 0xC500B0
abbrev PRESS_CNT_SEAL : Nat := 0xC500B4
abbrev PRESS_CNT_EXP_SKIP : Nat := 0xC500B8
abbrev PRESS_CNT_PORT_REFUSED : Nat := 0xC500BC
abbrev ROTA_CNT_DISPATCH : Nat := 0xC10080
abbrev ROTA_CNT_INGRESS : Nat := 0xC10084
abbrev ROTA_CNT_POST : Nat := 0xC10088
abbrev ROTA_CNT_PLACE_AFFINE : Nat := 0xC1008C
abbrev ROTA_CNT_PLACE_CLUSTER : Nat := 0xC10090
abbrev ROTA_CNT_PLACE_BYRE : Nat := 0xC10094
abbrev ROTA_CNT_DONE_OK : Nat := 0xC10098
abbrev ROTA_CNT_DONE_FAIL : Nat := 0xC1009C
abbrev ROTA_CNT_BUDGET : Nat := 0xC100A0
abbrev ROTA_CNT_WITHDRAWN : Nat := 0xC100A4
abbrev ROTA_CNT_TERMINATED : Nat := 0xC100A8
abbrev ROTA_CNT_FULL_STALL : Nat := 0xC100AC
abbrev ROTA_CNT_ING_HOLD : Nat := 0xC100B0
abbrev ROTA_CNT_ING_BADOP : Nat := 0xC100B4
abbrev ROTA_CNT_POST_DROP : Nat := 0xC100B8
abbrev ROTA_CNT_PRED_MISSING : Nat := 0xC100BC
abbrev ROTA_CNT_REL_TICK : Nat := 0xC100C0
abbrev ROTA_CNT_REL_REPEAT : Nat := 0xC100C4
abbrev ROTA_CNT_RECOMPUTE : Nat := 0xC100C8
abbrev ROTA_ENG_CNT_ISSUE (i : Nat) : Nat := 0xC11080 + i * 0x100
abbrev ROTA_ENG_CNT_BUBBLE (i : Nat) : Nat := 0xC11084 + i * 0x100
abbrev ROTA_ENG_CNT_OPS (i : Nat) : Nat := 0xC11088 + i * 0x100
abbrev ROTA_ENG_CNT_TRAP (i : Nat) : Nat := 0xC1108C + i * 0x100
abbrev ROTA_CNT_AUTH_PASS : Nat := 0xC14080
abbrev ROTA_CNT_AUTH_NOEXT : Nat := 0xC14084
abbrev ROTA_CNT_AUTH_KEYID : Nat := 0xC14088
abbrev ROTA_CNT_AUTH_ALG : Nat := 0xC1408C
abbrev ROTA_CNT_AUTH_TAG : Nat := 0xC14090
abbrev ROTA_CNT_AUTH_SLOT : Nat := 0xC14094
abbrev ROTA_CNT_AUTH_QFULL : Nat := 0xC14098
abbrev ROTA_CNT_AUTH_UNAVAIL : Nat := 0xC1409C
abbrev ROTA_CNT_KEY_PARITY_FIX : Nat := 0xC140A0
abbrev ROTA_CNT_KEY_PARITY_LOST : Nat := 0xC140A4
abbrev ROTA_CNT_CP_POISON : Nat := 0xC140A8
abbrev PAIL_CNT_FALLBACK : Nat := 0xC60080
abbrev PAIL_CNT_EMPTY : Nat := 0xC60084
abbrev PAIL_CNT_QUOTA : Nat := 0xC60088
abbrev PAIL_CNT_DOUBLE_FREE : Nat := 0xC6008C
abbrev PAIL_CNT_BAD_FREE : Nat := 0xC60090
abbrev PAIL_CNT_LINK_PARITY : Nat := 0xC60094
abbrev PAIL_CNT_REBUILD : Nat := 0xC60098
abbrev PAIL_CNT_DATA_PARITY : Nat := 0xC6009C
abbrev PAIL_CNT_TX_PARITY : Nat := 0xC600A0
abbrev VAT_CNT_HANDOVER : Nat := 0xC70080
abbrev VAT_CNT_HANDOVER_REPLACE : Nat := 0xC70084
abbrev VAT_CNT_HANDOVER_REFUSED : Nat := 0xC70088
abbrev VAT_CNT_COLL : Nat := 0xC7008C
abbrev TNK_CNT_DONE (i : Nat) : Nat := 0xC81080 + i * 0x100
abbrev TNK_CNT_ERR (i : Nat) : Nat := 0xC81084 + i * 0x100
abbrev TNK_CNT_ABORT (i : Nat) : Nat := 0xC81088 + i * 0x100
abbrev TNK_CNT_SKIP (i : Nat) : Nat := 0xC8108C + i * 0x100
abbrev TNK_CNT_ABANDON (i : Nat) : Nat := 0xC81090 + i * 0x100
abbrev TNK_CNT_ARM_REFUSED (i : Nat) : Nat := 0xC81094 + i * 0x100
abbrev TNK_CNT_REREAD (i : Nat) : Nat := 0xC81098 + i * 0x100
abbrev LOCK_CNT_DENIED : Nat := 0xC90080
abbrev LOCK_CNT_SPOOF : Nat := 0xC90084
abbrev LOCK_CNT_BAD_RELEASE : Nat := 0xC90088
abbrev LOCK_CNT_ORPHAN : Nat := 0xC9008C
abbrev CAL_CNT_RES_CONFLICT : Nat := 0xCB0080
abbrev CAL_CNT_RES_DISCARD : Nat := 0xCB0084
abbrev CAL_CNT_CAL_FULL : Nat := 0xCB0088
abbrev CAL_CNT_CAL_EMPTY : Nat := 0xCB008C
abbrev CAL_CNT_CAL_MISMATCH : Nat := 0xCB0090
abbrev CAL_CNT_CAL_REPLACE : Nat := 0xCB0094
abbrev CAL_CNT_PIN_LATE : Nat := 0xCB0098
abbrev CAL_CNT_CAP_DROP : Nat := 0xCB009C
abbrev CAL_CNT_PUB_STATE : Nat := 0xCB00A0
abbrev CAL_CNT_PUB_SAME : Nat := 0xCB00A4
abbrev CAL_CNT_PUB_RETX : Nat := 0xCB00A8
abbrev CAL_CNT_PUB_RETX_SKIP : Nat := 0xCB00AC
abbrev CAL_CNT_PUB_BAD : Nat := 0xCB00B0
abbrev CAL_CNT_SUB_EXPIRED : Nat := 0xCB00B4
abbrev CAL_CNT_SUB_RECOVER : Nat := 0xCB00B8
abbrev CAL_CNT_SUB_STALE : Nat := 0xCB00BC
abbrev CAL_CNT_SUB_CONFREV : Nat := 0xCB00C0
abbrev CAL_CNT_SUB_PARSE : Nat := 0xCB00C4
abbrev TUG_CNT_ROUTE_DROP : Nat := 0xCD0080
abbrev TUG_CNT_HOP_DROP : Nat := 0xCD0084
abbrev TUG_CNT_HERD_DROP : Nat := 0xCD0088
abbrev TUG_CNT_BAD_CAN : Nat := 0xCD008C
abbrev TUG_CNT_CTL_DROP : Nat := 0xCD0090
abbrev TUG_CNT_SHARE_UNKNOWN : Nat := 0xCD0094
abbrev TUG_CNT_SHARE_BAD : Nat := 0xCD0098
abbrev TUG_CNT_SHARE_REPEAT : Nat := 0xCD009C
abbrev TUG_CNT_SHARE_LATE : Nat := 0xCD00A0
abbrev TUG_CNT_SHARE_EARLY : Nat := 0xCD00A4
abbrev TUG_CNT_RX_NOPAIL : Nat := 0xCD00A8
abbrev TUG_CNT_TUN_QFULL : Nat := 0xCD00AC
abbrev TUG_CNT_TUN_TAG : Nat := 0xCD00B0
abbrev TUG_CNT_TUN_REPLAY : Nat := 0xCD00B4
abbrev TUG_CNT_TUN_FORMAT : Nat := 0xCD00B8
abbrev TUG_CNT_TUN_TIME : Nat := 0xCD00BC
abbrev TUG_LINK_CNT_TX_CANS (i : Nat) : Nat := 0xCD1080 + i * 0x100
abbrev TUG_LINK_CNT_RX_CANS (i : Nat) : Nat := 0xCD1084 + i * 0x100
abbrev TUG_LINK_CNT_CRC_ERR (i : Nat) : Nat := 0xCD1088 + i * 0x100
abbrev TUG_LINK_CNT_SEQ_DISCARD (i : Nat) : Nat := 0xCD108C + i * 0x100
abbrev TUG_LINK_CNT_RETRY (i : Nat) : Nat := 0xCD1090 + i * 0x100
abbrev TUG_LINK_CNT_CAN_LOST (i : Nat) : Nat := 0xCD1094 + i * 0x100
abbrev TUG_LINK_CNT_DOWN_LOST (i : Nat) : Nat := 0xCD1098 + i * 0x100
abbrev TUG_LINK_CNT_CREDIT_VIOL (i : Nat) : Nat := 0xCD109C + i * 0x100
abbrev TUG_LINK_CNT_TIME_MISMATCH (i : Nat) : Nat := 0xCD10A0 + i * 0x100
abbrev TUG_LINK_CNT_ECHO (i : Nat) : Nat := 0xCD10A4 + i * 0x100
abbrev TUG_LINK_CNT_DLY_BAD (i : Nat) : Nat := 0xCD10A8 + i * 0x100
abbrev DRAM_CNT_CHECK_FAIL : Nat := 0xCC0080
abbrev DRAM_CNT_RMW_POISON : Nat := 0xCC0084
abbrev DRAM_CNT_NBR : Nat := 0xCC0088
abbrev DRAM_CNT_TRAIN : Nat := 0xCC008C
abbrev DRAM_CNT_PANIC : Nat := 0xCC0090
abbrev DRAM_CNT_REC_OVF : Nat := 0xCC0094
abbrev DRAM_CNT_REC_TRUNC : Nat := 0xCC0098
abbrev DRAM_CNT_REC_SKIP : Nat := 0xCC009C
abbrev DRAM_CNT_LATE_DROP : Nat := 0xCC00A0
abbrev DRAM_CNT_TRIG_EXTEND : Nat := 0xCC00A4
abbrev DRAM_CNT_TRIG_LOST : Nat := 0xCC00A8
abbrev CHURN_CNT_TRANSIENT : Nat := 0xC000A8
abbrev CHURN_CNT_LASTING : Nat := 0xC000AC
abbrev CHURN_CNT_CONSERVE : Nat := 0xC000B0
abbrev CHURN_CNT_DATA_PARITY : Nat := 0xC000B4
abbrev CHURN_CNT_BAD_WITHDRAW : Nat := 0xC000B8
abbrev AON_CNT_CRM_RESET : Nat := 0xD000180
abbrev AON_CNT_PFAIL : Nat := 0xD000184
abbrev AON_CNT_PWR_REFUSED : Nat := 0xD000188
abbrev AON_CNT_VREQ_TIMEOUT : Nat := 0xD00018C
abbrev AON_CNT_BYRE_RST (i : Nat) : Nat := 0xD0001A0 + i * 0x4
abbrev CRM_MB_DOORBELL (i : Nat) : Nat := 0x2020000 + i * 0x10
abbrev CRM_MB_STATUS (i : Nat) : Nat := 0x2020004 + i * 0x10
abbrev CRM_MB_CFG (i : Nat) : Nat := 0x2020008 + i * 0x10
abbrev CRM_EVQ_WR : Nat := 0x2021000
abbrev CRM_EVQ_RD : Nat := 0x2021004
abbrev CRM_EVQ_CFG : Nat := 0x2021008
abbrev CRM_EVQ_CNT_DROP : Nat := 0x202100C
abbrev CRM_EXP_CFG (i : Nat) : Nat := 0x2030000 + i * 0x40
abbrev CRM_EXP_BASE_LO (i : Nat) : Nat := 0x2030004 + i * 0x40
abbrev CRM_EXP_BASE_HI (i : Nat) : Nat := 0x2030008 + i * 0x40
abbrev CRM_EXP_TAIL (i : Nat) : Nat := 0x203000C + i * 0x40
abbrev CRM_EXP_HEAD (i : Nat) : Nat := 0x2030010 + i * 0x40
abbrev CRM_EXP_COAL (i : Nat) : Nat := 0x2030014 + i * 0x40
abbrev CRM_EXP_CNT_UNBOUND : Nat := 0x2031000
abbrev CRM_EXP_CNT_DONE (i : Nat) : Nat := 0x2030020 + i * 0x40
abbrev CRM_EXP_CNT_TRUNC (i : Nat) : Nat := 0x2030024 + i * 0x40
abbrev CRM_EXP_CNT_SKIP (i : Nat) : Nat := 0x2030028 + i * 0x40
abbrev CRM_EXP_CNT_NODESC (i : Nat) : Nat := 0x203002C + i * 0x40
abbrev ROTA_RSV_FLAG : Nat := 0xC10070
abbrev ROTA_RSV_ADDR : Nat := 0xC10074
abbrev SKIM_RSV_FLAG : Nat := 0xC30070
abbrev SKIM_RSV_ADDR : Nat := 0xC30074
abbrev EMU_RSV_FLAG : Nat := 0xC40070
abbrev EMU_RSV_ADDR : Nat := 0xC40074
abbrev PRESS_RSV_FLAG : Nat := 0xC50070
abbrev PRESS_RSV_ADDR : Nat := 0xC50074
abbrev PAIL_RSV_FLAG : Nat := 0xC60070
abbrev PAIL_RSV_ADDR : Nat := 0xC60074
abbrev VAT_RSV_FLAG : Nat := 0xC70070
abbrev VAT_RSV_ADDR : Nat := 0xC70074
abbrev TNK_RSV_FLAG : Nat := 0xC80070
abbrev TNK_RSV_ADDR : Nat := 0xC80074
abbrev LOCK_RSV_FLAG : Nat := 0xC90070
abbrev LOCK_RSV_ADDR : Nat := 0xC90074
abbrev CAL_RSV_FLAG : Nat := 0xCB0070
abbrev CAL_RSV_ADDR : Nat := 0xCB0074
abbrev DRAM_RSV_FLAG : Nat := 0xCC0070
abbrev DRAM_RSV_ADDR : Nat := 0xCC0074
abbrev TUG_RSV_FLAG : Nat := 0xCD0070
abbrev TUG_RSV_ADDR : Nat := 0xCD0074
abbrev AON_RSV_FLAG : Nat := 0xD000070
abbrev AON_RSV_ADDR : Nat := 0xD000074
abbrev AON_PWR_STATE_CRM : Nat := 0xD000028
abbrev SW_CREDIT_LINK (i : Nat) : Nat := 0xC20170 + i * 0x4
abbrev CRM_TNK_SH (i : Nat) (j : Nat) : Nat := 0x2050000 + i * 0x100 + j * 0x4
abbrev CRM_TNK_LIVE (i : Nat) (j : Nat) : Nat := 0x2050020 + i * 0x100 + j * 0x4
abbrev CRM_TNK_CTRL (i : Nat) : Nat := 0x2050040 + i * 0x100
abbrev CRM_TNK_STATUS (i : Nat) : Nat := 0x2050044 + i * 0x100
abbrev CRM_TNK_LATCH (i : Nat) : Nat := 0x2050048 + i * 0x100
abbrev CRM_TNK_TAKEN (i : Nat) : Nat := 0x205004C + i * 0x100
abbrev CRM_TNK_RETURNED (i : Nat) : Nat := 0x2050050 + i * 0x100
abbrev CRM_TNK_CNT_DONE (i : Nat) : Nat := 0x2050080 + i * 0x100
abbrev CRM_TNK_CNT_ERR (i : Nat) : Nat := 0x2050084 + i * 0x100
abbrev CRM_TNK_CNT_ABORT (i : Nat) : Nat := 0x2050088 + i * 0x100
abbrev CRM_TNK_CNT_SKIP (i : Nat) : Nat := 0x205008C + i * 0x100
abbrev CRM_TNK_CNT_ABANDON (i : Nat) : Nat := 0x2050090 + i * 0x100
abbrev CRM_TNK_CNT_ARM_REFUSED (i : Nat) : Nat := 0x2050094 + i * 0x100
abbrev CRM_TNK_CNT_REREAD (i : Nat) : Nat := 0x2050098 + i * 0x100
abbrev CRM_LOCK_ACQ (i : Nat) : Nat := 0x2060000 + i * 0x4
abbrev CRM_LOCK_REL (i : Nat) : Nat := 0x2060400 + i * 0x4
abbrev CRM_LOCK_GRP_RIGHTS (i : Nat) : Nat := 0x2060800 + i * 0x4
end R

namespace F
abbrev CRM_BUS_ERR_MULTI : Fld := ⟨R.CRM_BUS_ERR, 6, 6⟩
abbrev CRM_BUS_ERR_ALIGN : Fld := ⟨R.CRM_BUS_ERR, 5, 5⟩
abbrev CRM_BUS_ERR_READ_ONLY : Fld := ⟨R.CRM_BUS_ERR, 4, 4⟩
abbrev CRM_BUS_ERR_NOT_OWNER : Fld := ⟨R.CRM_BUS_ERR, 3, 3⟩
abbrev CRM_BUS_ERR_LOCKED : Fld := ⟨R.CRM_BUS_ERR, 2, 2⟩
abbrev CRM_BUS_ERR_DOMAIN_OFF : Fld := ⟨R.CRM_BUS_ERR, 1, 1⟩
abbrev CRM_BUS_ERR_UNMAPPED : Fld := ⟨R.CRM_BUS_ERR, 0, 0⟩
abbrev CRM_BUS_ERR_ADDR_ADDR : Fld := ⟨R.CRM_BUS_ERR_ADDR, 31, 0⟩
abbrev CRM_BUS_ERR_SRC_WRITE : Fld := ⟨R.CRM_BUS_ERR_SRC, 8, 8⟩
abbrev CRM_BUS_ERR_SRC_MASTER : Fld := ⟨R.CRM_BUS_ERR_SRC, 2, 0⟩
abbrev CRM_BUS_ERR_CNT_COUNT : Fld := ⟨R.CRM_BUS_ERR_CNT, 31, 0⟩
abbrev TIME_CTRL_DOMAIN : Fld := ⟨R.TIME_CTRL, 23, 16⟩
abbrev TIME_CTRL_TWO_STEP_TX : Fld := ⟨R.TIME_CTRL, 9, 9⟩
abbrev TIME_CTRL_TRANSPORT : Fld := ⟨R.TIME_CTRL, 8, 8⟩
abbrev TIME_CTRL_DELAY : Fld := ⟨R.TIME_CTRL, 7, 7⟩
abbrev TIME_CTRL_MODE : Fld := ⟨R.TIME_CTRL, 6, 5⟩
abbrev TIME_CTRL_SLAVE_PORT : Fld := ⟨R.TIME_CTRL, 4, 0⟩
abbrev TIME_STATUS_REFCLK_OK : Fld := ⟨R.TIME_STATUS, 9, 9⟩
abbrev TIME_STATUS_PPS_IN_MISSING : Fld := ⟨R.TIME_STATUS, 8, 8⟩
abbrev TIME_STATUS_PPS_IN_ALARM : Fld := ⟨R.TIME_STATUS, 7, 7⟩
abbrev TIME_STATUS_STEP_PEND : Fld := ⟨R.TIME_STATUS, 6, 6⟩
abbrev TIME_STATUS_FROZEN : Fld := ⟨R.TIME_STATUS, 5, 5⟩
abbrev TIME_STATUS_TICK_RUN : Fld := ⟨R.TIME_STATUS, 4, 4⟩
abbrev TIME_STATUS_SRC_RTC : Fld := ⟨R.TIME_STATUS, 3, 3⟩
abbrev TIME_STATUS_CLK_FAIL : Fld := ⟨R.TIME_STATUS, 2, 2⟩
abbrev TIME_STATUS_STATE : Fld := ⟨R.TIME_STATUS, 1, 0⟩
abbrev TIME_SEC_LO_SEC_LO : Fld := ⟨R.TIME_SEC_LO, 31, 0⟩
abbrev TIME_SEC_HI_FRAC : Fld := ⟨R.TIME_SEC_HI, 31, 16⟩
abbrev TIME_SEC_HI_SEC_HI : Fld := ⟨R.TIME_SEC_HI, 15, 0⟩
abbrev TIME_NS_NS : Fld := ⟨R.TIME_NS, 31, 0⟩
abbrev TIME_FADJ_FADJ : Fld := ⟨R.TIME_FADJ, 31, 0⟩
abbrev TIME_STEP_SEC_STEP_SEC : Fld := ⟨R.TIME_STEP_SEC, 31, 0⟩
abbrev TIME_STEP_NS_STEP_NS : Fld := ⟨R.TIME_STEP_NS, 31, 0⟩
abbrev TIME_SERVO_CFG_LOCK_COUNT : Fld := ⟨R.TIME_SERVO_CFG, 31, 28⟩
abbrev TIME_SERVO_CFG_LOCK_THRESH : Fld := ⟨R.TIME_SERVO_CFG, 27, 16⟩
abbrev TIME_SERVO_CFG_STEP_THRESH_US : Fld := ⟨R.TIME_SERVO_CFG, 15, 8⟩
abbrev TIME_SERVO_CFG_SLEW_MAX_PPM : Fld := ⟨R.TIME_SERVO_CFG, 7, 0⟩
abbrev TIME_SERVO_REQ : Fld := ⟨R.TIME_SERVO, 31, 30⟩
abbrev TIME_SERVO_KEEP : Fld := ⟨R.TIME_SERVO, 29, 29⟩
abbrev TIME_SERVO_BOUND_NS : Fld := ⟨R.TIME_SERVO, 23, 0⟩
abbrev TIME_HOLD_HOLD_DRIFT : Fld := ⟨R.TIME_HOLD, 15, 0⟩
abbrev TIME_ERR_BOUND_BOUND : Fld := ⟨R.TIME_ERR_BOUND, 31, 0⟩
abbrev TIME_QUAL_SMPSYNCH : Fld := ⟨R.TIME_QUAL, 9, 8⟩
abbrev TIME_QUAL_TQ : Fld := ⟨R.TIME_QUAL, 7, 0⟩
abbrev TIME_UTC_LEAP59 : Fld := ⟨R.TIME_UTC, 18, 18⟩
abbrev TIME_UTC_LEAP61 : Fld := ⟨R.TIME_UTC, 17, 17⟩
abbrev TIME_UTC_VALID : Fld := ⟨R.TIME_UTC, 16, 16⟩
abbrev TIME_UTC_OFFSET : Fld := ⟨R.TIME_UTC, 15, 0⟩
abbrev TIME_TICK_RATE_RATE : Fld := ⟨R.TIME_TICK_RATE, 13, 0⟩
abbrev TIME_TICK_SEC_SEC : Fld := ⟨R.TIME_TICK_SEC, 31, 0⟩
abbrev TIME_TICK_K_K : Fld := ⟨R.TIME_TICK_K, 13, 0⟩
abbrev TIME_PPS_OUT_EN : Fld := ⟨R.TIME_PPS_OUT, 31, 31⟩
abbrev TIME_PPS_OUT_POL : Fld := ⟨R.TIME_PPS_OUT, 30, 30⟩
abbrev TIME_PPS_OUT_GATE : Fld := ⟨R.TIME_PPS_OUT, 29, 29⟩
abbrev TIME_PPS_OUT_WIDTH_US : Fld := ⟨R.TIME_PPS_OUT, 18, 0⟩
abbrev TIME_PPS_OUT_OFS_OFS : Fld := ⟨R.TIME_PPS_OUT_OFS, 31, 0⟩
abbrev TIME_PPS_IN_EN : Fld := ⟨R.TIME_PPS_IN, 31, 31⟩
abbrev TIME_PPS_IN_EDGE : Fld := ⟨R.TIME_PPS_IN, 30, 30⟩
abbrev TIME_PPS_IN_THRESH_NS : Fld := ⟨R.TIME_PPS_IN, 23, 0⟩
abbrev TIME_PPS_IN_DIFF_DIFF : Fld := ⟨R.TIME_PPS_IN_DIFF, 31, 0⟩
abbrev TIME_GAP_SEC_GAP_SEC : Fld := ⟨R.TIME_GAP_SEC, 31, 0⟩
abbrev TIME_GAP_NS_GAP_VALID : Fld := ⟨R.TIME_GAP_NS, 31, 31⟩
abbrev TIME_GAP_NS_GAP_NS : Fld := ⟨R.TIME_GAP_NS, 30, 0⟩
abbrev TIME_MONO_LO_MONO_LO : Fld := ⟨R.TIME_MONO_LO, 31, 0⟩
abbrev TIME_MONO_HI_DISC : Fld := ⟨R.TIME_MONO_HI, 31, 31⟩
abbrev TIME_MONO_HI_MONO_HI : Fld := ⟨R.TIME_MONO_HI, 30, 0⟩
abbrev TIME_BC_MASTER_PORTS : Fld := ⟨R.TIME_BC_MASTER, 19, 0⟩
abbrev TIME_TC_EN_PORTS : Fld := ⟨R.TIME_TC_EN, 19, 0⟩
abbrev TIME_SERVO_OWNER_ENGINE : Fld := ⟨R.TIME_SERVO_OWNER, 7, 3⟩
abbrev TIME_SERVO_OWNER_THREAD : Fld := ⟨R.TIME_SERVO_OWNER, 2, 0⟩
abbrev TIME_RSV_FLAG_RSV_WR : Fld := ⟨R.TIME_RSV_FLAG, 0, 0⟩
abbrev TIME_RSV_ADDR_ADDR : Fld := ⟨R.TIME_RSV_ADDR, 31, 0⟩
abbrev TIME_ING_DLY_DLY (i : Nat) : Fld := ⟨R.TIME_ING_DLY i, 15, 0⟩
abbrev TIME_EGR_DLY_DLY (i : Nat) : Fld := ⟨R.TIME_EGR_DLY i, 15, 0⟩
abbrev CHURN_CTRL_FREEZE : Fld := ⟨R.CHURN_CTRL, 0, 0⟩
abbrev CHURN_STATUS_DEGRADE_PEND : Fld := ⟨R.CHURN_STATUS, 12, 12⟩
abbrev CHURN_STATUS_OVR_RUN : Fld := ⟨R.CHURN_STATUS, 11, 10⟩
abbrev CHURN_STATUS_BINDING : Fld := ⟨R.CHURN_STATUS, 9, 7⟩
abbrev CHURN_STATUS_ARMED : Fld := ⟨R.CHURN_STATUS, 6, 6⟩
abbrev CHURN_STATUS_VERIFIED1 : Fld := ⟨R.CHURN_STATUS, 5, 5⟩
abbrev CHURN_STATUS_VERIFIED0 : Fld := ⟨R.CHURN_STATUS, 4, 4⟩
abbrev CHURN_STATUS_LIVE_BANK : Fld := ⟨R.CHURN_STATUS, 3, 3⟩
abbrev CHURN_STATUS_PHASE : Fld := ⟨R.CHURN_STATUS, 2, 0⟩
abbrev CHURN_VERIFY_VERIFIED_STBY : Fld := ⟨R.CHURN_VERIFY, 0, 0⟩
abbrev CHURN_PC_TAG : Fld := ⟨R.CHURN_PC, 31, 16⟩
abbrev CHURN_PC_WORD : Fld := ⟨R.CHURN_PC, 13, 0⟩
abbrev CHURN_UPC_OPC : Fld := ⟨R.CHURN_UPC, 23, 16⟩
abbrev CHURN_UPC_UPC : Fld := ⟨R.CHURN_UPC, 11, 0⟩
abbrev CHURN_ARM_SEC_SEC : Fld := ⟨R.CHURN_ARM_SEC, 31, 0⟩
abbrev CHURN_ARM_K_K : Fld := ⟨R.CHURN_ARM_K, 13, 0⟩
abbrev CHURN_ARM_CANCEL : Fld := ⟨R.CHURN_ARM, 1, 1⟩
abbrev CHURN_ARM_ARM : Fld := ⟨R.CHURN_ARM, 0, 0⟩
abbrev CHURN_ARM_STATUS_ARMED_EPOCH : Fld := ⟨R.CHURN_ARM_STATUS, 31, 16⟩
abbrev CHURN_ARM_STATUS_REFUSE_CODE : Fld := ⟨R.CHURN_ARM_STATUS, 7, 4⟩
abbrev CHURN_ARM_STATUS_REFUSED : Fld := ⟨R.CHURN_ARM_STATUS, 3, 3⟩
abbrev CHURN_ARM_STATUS_LATE_EPOCH : Fld := ⟨R.CHURN_ARM_STATUS, 2, 2⟩
abbrev CHURN_ARM_STATUS_SWAP_DONE : Fld := ⟨R.CHURN_ARM_STATUS, 1, 1⟩
abbrev CHURN_EPOCH_PREV : Fld := ⟨R.CHURN_EPOCH, 31, 16⟩
abbrev CHURN_EPOCH_LIVE : Fld := ⟨R.CHURN_EPOCH, 15, 0⟩
abbrev CHURN_SWAP_SEC_SEC : Fld := ⟨R.CHURN_SWAP_SEC, 31, 0⟩
abbrev CHURN_SWAP_K_K : Fld := ⟨R.CHURN_SWAP_K, 13, 0⟩
abbrev CHURN_RESERVE_RESERVE_NS : Fld := ⟨R.CHURN_RESERVE, 31, 0⟩
abbrev CHURN_COMMIT_LAST_OFS : Fld := ⟨R.CHURN_COMMIT_LAST, 31, 0⟩
abbrev CHURN_COMMIT_MAX_OFS : Fld := ⟨R.CHURN_COMMIT_MAX, 31, 0⟩
abbrev CHURN_MCHK_VALID : Fld := ⟨R.CHURN_MCHK, 31, 31⟩
abbrev CHURN_MCHK_CAUSE : Fld := ⟨R.CHURN_MCHK, 3, 0⟩
abbrev CHURN_MCHK_ADDR_ADDR : Fld := ⟨R.CHURN_MCHK_ADDR, 31, 0⟩
abbrev CHURN_BADENG_ENGINES : Fld := ⟨R.CHURN_BADENG, 31, 0⟩
abbrev CHURN_RSV_FLAG_RSV_WR : Fld := ⟨R.CHURN_RSV_FLAG, 0, 0⟩
abbrev CHURN_RSV_ADDR_ADDR : Fld := ⟨R.CHURN_RSV_ADDR, 31, 0⟩
abbrev CHURN_DISP_LEGAL (i : Nat) : Fld := ⟨R.CHURN_DISP i, 31, 31⟩
abbrev CHURN_DISP_START (i : Nat) : Fld := ⟨R.CHURN_DISP i, 11, 0⟩
abbrev SW_LINK_TIMING_UP_MS : Fld := ⟨R.SW_LINK_TIMING, 31, 16⟩
abbrev SW_LINK_TIMING_DOWN_US : Fld := ⟨R.SW_LINK_TIMING, 15, 0⟩
abbrev SW_DUP_CFG_FORGET_MS : Fld := ⟨R.SW_DUP_CFG, 15, 0⟩
abbrev SW_TALLY_CTRL_EN : Fld := ⟨R.SW_TALLY_CTRL, 31, 31⟩
abbrev SW_TALLY_CTRL_TARGET : Fld := ⟨R.SW_TALLY_CTRL, 30, 30⟩
abbrev SW_TALLY_CTRL_MODE : Fld := ⟨R.SW_TALLY_CTRL, 29, 29⟩
abbrev SW_TALLY_CTRL_DROP_EN : Fld := ⟨R.SW_TALLY_CTRL, 28, 28⟩
abbrev SW_TALLY_CTRL_TANKER : Fld := ⟨R.SW_TALLY_CTRL, 27, 24⟩
abbrev SW_TALLY_CTRL_SIZE_LOG2 : Fld := ⟨R.SW_TALLY_CTRL, 20, 16⟩
abbrev SW_TALLY_BASE_BASE : Fld := ⟨R.SW_TALLY_BASE, 31, 0⟩
abbrev SW_TALLY_WR_WR : Fld := ⟨R.SW_TALLY_WR, 23, 0⟩
abbrev SW_TALLY_RD_RD : Fld := ⟨R.SW_TALLY_RD, 23, 0⟩
abbrev SW_RSV_FLAG_RSV_WR : Fld := ⟨R.SW_RSV_FLAG, 0, 0⟩
abbrev SW_RSV_ADDR_ADDR : Fld := ⟨R.SW_RSV_ADDR, 31, 0⟩
abbrev SW_CREDIT_FREE (i : Nat) : Fld := ⟨R.SW_CREDIT i, 26, 16⟩
abbrev SW_CREDIT_TOTAL (i : Nat) : Fld := ⟨R.SW_CREDIT i, 10, 0⟩
abbrev SW_PAIR_MODE (i : Nat) : Fld := ⟨R.SW_PAIR i, 31, 30⟩
abbrev SW_PAIR_ROLE (i : Nat) : Fld := ⟨R.SW_PAIR i, 29, 28⟩
abbrev SW_PAIR_PEER (i : Nat) : Fld := ⟨R.SW_PAIR i, 27, 24⟩
abbrev SW_PAIR_INTERLINK (i : Nat) : Fld := ⟨R.SW_PAIR i, 20, 16⟩
abbrev SW_PAIR_PORT_B (i : Nat) : Fld := ⟨R.SW_PAIR i, 12, 8⟩
abbrev SW_PAIR_PORT_A (i : Nat) : Fld := ⟨R.SW_PAIR i, 4, 0⟩
abbrev SW_PORT_CTRL_ADMIN_UP (i : Nat) : Fld := ⟨R.SW_PORT_CTRL i, 31, 31⟩
abbrev SW_PORT_CTRL_ANEG_EN (i : Nat) : Fld := ⟨R.SW_PORT_CTRL i, 30, 30⟩
abbrev SW_PORT_CTRL_LINE (i : Nat) : Fld := ⟨R.SW_PORT_CTRL i, 29, 27⟩
abbrev SW_PORT_CTRL_LOOPBACK (i : Nat) : Fld := ⟨R.SW_PORT_CTRL i, 26, 26⟩
abbrev SW_PORT_CTRL_FORCE_SPEED (i : Nat) : Fld := ⟨R.SW_PORT_CTRL i, 25, 24⟩
abbrev SW_PORT_CTRL_MAX_FRAME (i : Nat) : Fld := ⟨R.SW_PORT_CTRL i, 23, 12⟩
abbrev SW_PORT_CTRL_IN_QDEPTH (i : Nat) : Fld := ⟨R.SW_PORT_CTRL i, 7, 0⟩
abbrev SW_PORT_STATUS_DOWN_EVT (i : Nat) : Fld := ⟨R.SW_PORT_STATUS i, 7, 7⟩
abbrev SW_PORT_STATUS_ANEG_FAIL (i : Nat) : Fld := ⟨R.SW_PORT_STATUS i, 6, 6⟩
abbrev SW_PORT_STATUS_REMOTE_FAULT (i : Nat) : Fld := ⟨R.SW_PORT_STATUS i, 5, 5⟩
abbrev SW_PORT_STATUS_PCS_LOCK (i : Nat) : Fld := ⟨R.SW_PORT_STATUS i, 4, 4⟩
abbrev SW_PORT_STATUS_SPEED (i : Nat) : Fld := ⟨R.SW_PORT_STATUS i, 3, 2⟩
abbrev SW_PORT_STATUS_ANEG_DONE (i : Nat) : Fld := ⟨R.SW_PORT_STATUS i, 1, 1⟩
abbrev SW_PORT_STATUS_LINK (i : Nat) : Fld := ⟨R.SW_PORT_STATUS i, 0, 0⟩
abbrev SW_PORT_GUARD_GUARD_NS (i : Nat) : Fld := ⟨R.SW_PORT_GUARD i, 23, 0⟩
abbrev SW_PORT_QDEPTH0_Q3 (i : Nat) : Fld := ⟨R.SW_PORT_QDEPTH0 i, 31, 24⟩
abbrev SW_PORT_QDEPTH0_Q2 (i : Nat) : Fld := ⟨R.SW_PORT_QDEPTH0 i, 23, 16⟩
abbrev SW_PORT_QDEPTH0_Q1 (i : Nat) : Fld := ⟨R.SW_PORT_QDEPTH0 i, 15, 8⟩
abbrev SW_PORT_QDEPTH0_Q0 (i : Nat) : Fld := ⟨R.SW_PORT_QDEPTH0 i, 7, 0⟩
abbrev SW_PORT_QDEPTH1_Q7 (i : Nat) : Fld := ⟨R.SW_PORT_QDEPTH1 i, 31, 24⟩
abbrev SW_PORT_QDEPTH1_Q6 (i : Nat) : Fld := ⟨R.SW_PORT_QDEPTH1 i, 23, 16⟩
abbrev SW_PORT_QDEPTH1_Q5 (i : Nat) : Fld := ⟨R.SW_PORT_QDEPTH1 i, 15, 8⟩
abbrev SW_PORT_QDEPTH1_Q4 (i : Nat) : Fld := ⟨R.SW_PORT_QDEPTH1 i, 7, 0⟩
abbrev SW_PORT_TALLY_TX_N (i : Nat) : Fld := ⟨R.SW_PORT_TALLY i, 31, 16⟩
abbrev SW_PORT_TALLY_RX_N (i : Nat) : Fld := ⟨R.SW_PORT_TALLY i, 15, 0⟩
abbrev SKIM_CTRL_FRAG_MISS_DROP : Fld := ⟨R.SKIM_CTRL, 1, 1⟩
abbrev SKIM_CTRL_LIVE_BANK : Fld := ⟨R.SKIM_CTRL, 0, 0⟩
abbrev SKIM_FRAG_CFG_FRAG_TIMEOUT_MS : Fld := ⟨R.SKIM_FRAG_CFG, 7, 0⟩
abbrev SKIM_FLOOD_OUTPUTS : Fld := ⟨R.SKIM_FLOOD, 27, 0⟩
abbrev SKIM_ENT_CMD_GO : Fld := ⟨R.SKIM_ENT_CMD, 31, 31⟩
abbrev SKIM_ENT_CMD_OP : Fld := ⟨R.SKIM_ENT_CMD, 30, 29⟩
abbrev SKIM_ENT_CMD_BANK : Fld := ⟨R.SKIM_ENT_CMD, 28, 28⟩
abbrev SKIM_ENT_CMD_INDEX : Fld := ⟨R.SKIM_ENT_CMD, 11, 0⟩
abbrev SKIM_ENT_KEY_DATA (i : Nat) : Fld := ⟨R.SKIM_ENT_KEY i, 31, 0⟩
abbrev SKIM_ENT_MASK_DATA (i : Nat) : Fld := ⟨R.SKIM_ENT_MASK i, 31, 0⟩
abbrev SKIM_ENT_ACT_DATA (i : Nat) : Fld := ⟨R.SKIM_ENT_ACT i, 31, 0⟩
abbrev SKIM_DEF_DATA (i : Nat) (j : Nat) : Fld := ⟨R.SKIM_DEF i j, 31, 0⟩
abbrev EMU_CTRL_MK1 : Fld := ⟨R.EMU_CTRL, 31, 31⟩
abbrev EMU_CTRL_AGE_LIMIT : Fld := ⟨R.EMU_CTRL, 14, 0⟩
abbrev EMU_SEED_SEED : Fld := ⟨R.EMU_SEED, 13, 0⟩
abbrev EMU_CMD_GO : Fld := ⟨R.EMU_CMD, 31, 31⟩
abbrev EMU_CMD_OP : Fld := ⟨R.EMU_CMD, 30, 28⟩
abbrev EMU_CMD_LOC : Fld := ⟨R.EMU_CMD, 16, 0⟩
abbrev EMU_CMD_STATUS_BUSY : Fld := ⟨R.EMU_CMD_STATUS, 31, 31⟩
abbrev EMU_CMD_STATUS_LOC : Fld := ⟨R.EMU_CMD_STATUS, 24, 8⟩
abbrev EMU_CMD_STATUS_RESULT : Fld := ⟨R.EMU_CMD_STATUS, 3, 0⟩
abbrev EMU_OVF_USED_USED : Fld := ⟨R.EMU_OVF_USED, 10, 0⟩
abbrev EMU_ENT_DATA (i : Nat) : Fld := ⟨R.EMU_ENT i, 31, 0⟩
abbrev EMU_NOTE0_MAC_LO : Fld := ⟨R.EMU_NOTE0, 31, 0⟩
abbrev EMU_NOTE1_MAC_HI : Fld := ⟨R.EMU_NOTE1, 15, 0⟩
abbrev EMU_NOTE1_VID : Fld := ⟨R.EMU_NOTE1, 27, 16⟩
abbrev EMU_NOTE2_PORT : Fld := ⟨R.EMU_NOTE2, 4, 0⟩
abbrev EMU_NOTE2_EVENT : Fld := ⟨R.EMU_NOTE2, 6, 5⟩
abbrev EMU_NOTE2_VALID : Fld := ⟨R.EMU_NOTE2, 31, 31⟩
abbrev EMU_LRN_CFG_EXCESS (i : Nat) : Fld := ⟨R.EMU_LRN_CFG i, 31, 31⟩
abbrev EMU_LRN_CFG_RATE (i : Nat) : Fld := ⟨R.EMU_LRN_CFG i, 26, 16⟩
abbrev EMU_LRN_CFG_LIMIT (i : Nat) : Fld := ⟨R.EMU_LRN_CFG i, 12, 0⟩
abbrev EMU_LRN_COUNT_COUNT (i : Nat) : Fld := ⟨R.EMU_LRN_COUNT i, 12, 0⟩
abbrev PRESS_CTRL_LATE_REC : Fld := ⟨R.PRESS_CTRL, 1, 1⟩
abbrev PRESS_CTRL_LIVE_BANK : Fld := ⟨R.PRESS_CTRL, 0, 0⟩
abbrev PRESS_STATUS_SEAL_Q : Fld := ⟨R.PRESS_STATUS, 15, 12⟩
abbrev PRESS_STATUS_SEALING : Fld := ⟨R.PRESS_STATUS, 7, 7⟩
abbrev PRESS_STATUS_GROUP : Fld := ⟨R.PRESS_STATUS, 6, 4⟩
abbrev PRESS_CFG_CMD_GO : Fld := ⟨R.PRESS_CFG_CMD, 31, 31⟩
abbrev PRESS_CFG_CMD_OP : Fld := ⟨R.PRESS_CFG_CMD, 30, 30⟩
abbrev PRESS_CFG_CMD_BANK : Fld := ⟨R.PRESS_CFG_CMD, 29, 29⟩
abbrev PRESS_CFG_CMD_TABLE : Fld := ⟨R.PRESS_CFG_CMD, 28, 27⟩
abbrev PRESS_CFG_CMD_INDEX : Fld := ⟨R.PRESS_CFG_CMD, 11, 0⟩
abbrev PRESS_CFG_STATUS_BUSY : Fld := ⟨R.PRESS_CFG_STATUS, 31, 31⟩
abbrev PRESS_CFG_STATUS_RESULT : Fld := ⟨R.PRESS_CFG_STATUS, 3, 0⟩
abbrev PRESS_CFG_DATA_DATA (i : Nat) : Fld := ⟨R.PRESS_CFG_DATA i, 31, 0⟩
abbrev PRESS_GRP_SEC_SEC (i : Nat) : Fld := ⟨R.PRESS_GRP_SEC i, 31, 0⟩
abbrev PRESS_GRP_K_VALID (i : Nat) : Fld := ⟨R.PRESS_GRP_K i, 31, 31⟩
abbrev PRESS_GRP_K_K (i : Nat) : Fld := ⟨R.PRESS_GRP_K i, 13, 0⟩
abbrev PRESS_GRP_SEAL_N_SUBST (i : Nat) : Fld := ⟨R.PRESS_GRP_SEAL i, 31, 16⟩
abbrev PRESS_GRP_SEAL_SEAL_NS (i : Nat) : Fld := ⟨R.PRESS_GRP_SEAL i, 15, 0⟩
abbrev PRESS_GRP_STAT_N_INVALID (i : Nat) : Fld := ⟨R.PRESS_GRP_STAT i, 31, 16⟩
abbrev PRESS_GRP_STAT_OPEN (i : Nat) : Fld := ⟨R.PRESS_GRP_STAT i, 1, 1⟩
abbrev PRESS_GRP_STAT_SEAL_HELD (i : Nat) : Fld := ⟨R.PRESS_GRP_STAT i, 0, 0⟩
abbrev ROTA_CTRL_INGRESS_MAX : Fld := ⟨R.ROTA_CTRL, 11, 0⟩
abbrev ROTA_STATUS_FULL_STALL : Fld := ⟨R.ROTA_STATUS, 31, 31⟩
abbrev ROTA_STATUS_ING_HELD : Fld := ⟨R.ROTA_STATUS, 30, 30⟩
abbrev ROTA_STATUS_ING_BANK : Fld := ⟨R.ROTA_STATUS, 29, 29⟩
abbrev ROTA_STATUS_ING_OCC : Fld := ⟨R.ROTA_STATUS, 28, 16⟩
abbrev ROTA_STATUS_OCC : Fld := ⟨R.ROTA_STATUS, 12, 0⟩
abbrev ROTA_TOKENS_IN_TRANSIT : Fld := ⟨R.ROTA_TOKENS, 28, 16⟩
abbrev ROTA_TOKENS_FREE : Fld := ⟨R.ROTA_TOKENS, 12, 0⟩
abbrev ROTA_ING_CMD_GO : Fld := ⟨R.ROTA_ING_CMD, 31, 31⟩
abbrev ROTA_ING_CMD_OP : Fld := ⟨R.ROTA_ING_CMD, 30, 30⟩
abbrev ROTA_ING_CMD_BANK : Fld := ⟨R.ROTA_ING_CMD, 29, 29⟩
abbrev ROTA_ING_CMD_INDEX : Fld := ⟨R.ROTA_ING_CMD, 9, 0⟩
abbrev ROTA_ING_STATUS_BUSY : Fld := ⟨R.ROTA_ING_STATUS, 31, 31⟩
abbrev ROTA_ING_STATUS_RESULT : Fld := ⟨R.ROTA_ING_STATUS, 3, 0⟩
abbrev ROTA_ING_DATA_DATA (i : Nat) : Fld := ⟨R.ROTA_ING_DATA i, 31, 0⟩
abbrev ROTA_IND_ADDR_ENGINE : Fld := ⟨R.ROTA_IND_ADDR, 28, 24⟩
abbrev ROTA_IND_ADDR_OFFSET : Fld := ⟨R.ROTA_IND_ADDR, 16, 2⟩
abbrev ROTA_IND_DATA_DATA : Fld := ⟨R.ROTA_IND_DATA, 31, 0⟩
abbrev ROTA_IND_STATUS_PERR : Fld := ⟨R.ROTA_IND_STATUS, 0, 0⟩
abbrev ROTA_ENG_CTRL_START (i : Nat) : Fld := ⟨R.ROTA_ENG_CTRL i, 31, 31⟩
abbrev ROTA_ENG_CTRL_STOP (i : Nat) : Fld := ⟨R.ROTA_ENG_CTRL i, 30, 30⟩
abbrev ROTA_ENG_VECTOR_VECTOR (i : Nat) : Fld := ⟨R.ROTA_ENG_VECTOR i, 15, 0⟩
abbrev ROTA_ENG_STATUS_STATE (i : Nat) : Fld := ⟨R.ROTA_ENG_STATUS i, 31, 29⟩
abbrev ROTA_ENG_STATUS_BAD (i : Nat) : Fld := ⟨R.ROTA_ENG_STATUS i, 28, 28⟩
abbrev ROTA_ENG_STATUS_BOUND (i : Nat) : Fld := ⟨R.ROTA_ENG_STATUS i, 23, 16⟩
abbrev ROTA_ENG_STATUS_DISPATCHABLE (i : Nat) : Fld := ⟨R.ROTA_ENG_STATUS i, 15, 8⟩
abbrev ROTA_ENG_STATUS_RELEASED (i : Nat) : Fld := ⟨R.ROTA_ENG_STATUS i, 7, 0⟩
abbrev ROTA_ENG_SLOT0_G0 (i : Nat) : Fld := ⟨R.ROTA_ENG_SLOT0 i, 3, 3⟩
abbrev ROTA_ENG_SLOT0_G1 (i : Nat) : Fld := ⟨R.ROTA_ENG_SLOT0 i, 7, 7⟩
abbrev ROTA_ENG_SLOT0_G2 (i : Nat) : Fld := ⟨R.ROTA_ENG_SLOT0 i, 11, 11⟩
abbrev ROTA_ENG_SLOT0_G3 (i : Nat) : Fld := ⟨R.ROTA_ENG_SLOT0 i, 15, 15⟩
abbrev ROTA_ENG_SLOT0_G4 (i : Nat) : Fld := ⟨R.ROTA_ENG_SLOT0 i, 19, 19⟩
abbrev ROTA_ENG_SLOT0_G5 (i : Nat) : Fld := ⟨R.ROTA_ENG_SLOT0 i, 23, 23⟩
abbrev ROTA_ENG_SLOT0_G6 (i : Nat) : Fld := ⟨R.ROTA_ENG_SLOT0 i, 27, 27⟩
abbrev ROTA_ENG_SLOT0_G7 (i : Nat) : Fld := ⟨R.ROTA_ENG_SLOT0 i, 31, 31⟩
abbrev ROTA_ENG_SLOT0_OWNER0 (i : Nat) : Fld := ⟨R.ROTA_ENG_SLOT0 i, 2, 0⟩
abbrev ROTA_ENG_SLOT0_OWNER1 (i : Nat) : Fld := ⟨R.ROTA_ENG_SLOT0 i, 6, 4⟩
abbrev ROTA_ENG_SLOT0_OWNER2 (i : Nat) : Fld := ⟨R.ROTA_ENG_SLOT0 i, 10, 8⟩
abbrev ROTA_ENG_SLOT0_OWNER3 (i : Nat) : Fld := ⟨R.ROTA_ENG_SLOT0 i, 14, 12⟩
abbrev ROTA_ENG_SLOT0_OWNER4 (i : Nat) : Fld := ⟨R.ROTA_ENG_SLOT0 i, 18, 16⟩
abbrev ROTA_ENG_SLOT0_OWNER5 (i : Nat) : Fld := ⟨R.ROTA_ENG_SLOT0 i, 22, 20⟩
abbrev ROTA_ENG_SLOT0_OWNER6 (i : Nat) : Fld := ⟨R.ROTA_ENG_SLOT0 i, 26, 24⟩
abbrev ROTA_ENG_SLOT0_OWNER7 (i : Nat) : Fld := ⟨R.ROTA_ENG_SLOT0 i, 30, 28⟩
abbrev ROTA_ENG_SLOT1_G0 (i : Nat) : Fld := ⟨R.ROTA_ENG_SLOT1 i, 3, 3⟩
abbrev ROTA_ENG_SLOT1_G1 (i : Nat) : Fld := ⟨R.ROTA_ENG_SLOT1 i, 7, 7⟩
abbrev ROTA_ENG_SLOT1_G2 (i : Nat) : Fld := ⟨R.ROTA_ENG_SLOT1 i, 11, 11⟩
abbrev ROTA_ENG_SLOT1_G3 (i : Nat) : Fld := ⟨R.ROTA_ENG_SLOT1 i, 15, 15⟩
abbrev ROTA_ENG_SLOT1_G4 (i : Nat) : Fld := ⟨R.ROTA_ENG_SLOT1 i, 19, 19⟩
abbrev ROTA_ENG_SLOT1_G5 (i : Nat) : Fld := ⟨R.ROTA_ENG_SLOT1 i, 23, 23⟩
abbrev ROTA_ENG_SLOT1_G6 (i : Nat) : Fld := ⟨R.ROTA_ENG_SLOT1 i, 27, 27⟩
abbrev ROTA_ENG_SLOT1_G7 (i : Nat) : Fld := ⟨R.ROTA_ENG_SLOT1 i, 31, 31⟩
abbrev ROTA_ENG_SLOT1_OWNER0 (i : Nat) : Fld := ⟨R.ROTA_ENG_SLOT1 i, 2, 0⟩
abbrev ROTA_ENG_SLOT1_OWNER1 (i : Nat) : Fld := ⟨R.ROTA_ENG_SLOT1 i, 6, 4⟩
abbrev ROTA_ENG_SLOT1_OWNER2 (i : Nat) : Fld := ⟨R.ROTA_ENG_SLOT1 i, 10, 8⟩
abbrev ROTA_ENG_SLOT1_OWNER3 (i : Nat) : Fld := ⟨R.ROTA_ENG_SLOT1 i, 14, 12⟩
abbrev ROTA_ENG_SLOT1_OWNER4 (i : Nat) : Fld := ⟨R.ROTA_ENG_SLOT1 i, 18, 16⟩
abbrev ROTA_ENG_SLOT1_OWNER5 (i : Nat) : Fld := ⟨R.ROTA_ENG_SLOT1 i, 22, 20⟩
abbrev ROTA_ENG_SLOT1_OWNER6 (i : Nat) : Fld := ⟨R.ROTA_ENG_SLOT1 i, 26, 24⟩
abbrev ROTA_ENG_SLOT1_OWNER7 (i : Nat) : Fld := ⟨R.ROTA_ENG_SLOT1 i, 30, 28⟩
abbrev ROTA_ENG_URGENT_EN (i : Nat) : Fld := ⟨R.ROTA_ENG_URGENT i, 3, 3⟩
abbrev ROTA_ENG_URGENT_THREAD (i : Nat) : Fld := ⟨R.ROTA_ENG_URGENT i, 2, 0⟩
abbrev ROTA_ENG_TRAP_VALID (i : Nat) : Fld := ⟨R.ROTA_ENG_TRAP i, 31, 31⟩
abbrev ROTA_ENG_TRAP_THREAD (i : Nat) : Fld := ⟨R.ROTA_ENG_TRAP i, 10, 8⟩
abbrev ROTA_ENG_TRAP_CAUSE (i : Nat) : Fld := ⟨R.ROTA_ENG_TRAP i, 7, 0⟩
abbrev ROTA_ENG_THR_OP_ID (i : Nat) (j : Nat) : Fld := ⟨R.ROTA_ENG_THR i j, 31, 16⟩
abbrev ROTA_ENG_THR_STATE (i : Nat) (j : Nat) : Fld := ⟨R.ROTA_ENG_THR i j, 3, 0⟩
abbrev ROTA_ENG_BUDGET_LEFT (i : Nat) (j : Nat) : Fld := ⟨R.ROTA_ENG_BUDGET i j, 31, 0⟩
abbrev ROTA_CP_GATE_SEP_SEP : Fld := ⟨R.ROTA_CP_GATE_SEP, 31, 0⟩
abbrev ROTA_CP_GATE_STR_STR : Fld := ⟨R.ROTA_CP_GATE_STR, 3, 0⟩
abbrev ROTA_KEY_CMD_GO : Fld := ⟨R.ROTA_KEY_CMD, 31, 31⟩
abbrev ROTA_KEY_CMD_OP : Fld := ⟨R.ROTA_KEY_CMD, 30, 29⟩
abbrev ROTA_KEY_CMD_BANK : Fld := ⟨R.ROTA_KEY_CMD, 28, 28⟩
abbrev ROTA_KEY_CMD_KEY : Fld := ⟨R.ROTA_KEY_CMD, 27, 27⟩
abbrev ROTA_KEY_CMD_SLOT : Fld := ⟨R.ROTA_KEY_CMD, 7, 0⟩
abbrev ROTA_KEY_STATUS_BUSY : Fld := ⟨R.ROTA_KEY_STATUS, 31, 31⟩
abbrev ROTA_KEY_STATUS_RESULT : Fld := ⟨R.ROTA_KEY_STATUS, 3, 0⟩
abbrev ROTA_KEY_HDR_HDR : Fld := ⟨R.ROTA_KEY_HDR, 31, 0⟩
abbrev ROTA_KEY_ID0_ID : Fld := ⟨R.ROTA_KEY_ID0, 31, 0⟩
abbrev ROTA_KEY_ID1_ID : Fld := ⟨R.ROTA_KEY_ID1, 31, 0⟩
abbrev ROTA_KEY_KCV0_KCV : Fld := ⟨R.ROTA_KEY_KCV0, 23, 0⟩
abbrev ROTA_KEY_KCV1_KCV : Fld := ⟨R.ROTA_KEY_KCV1, 23, 0⟩
abbrev ROTA_STR_STATUS_OPEN : Fld := ⟨R.ROTA_STR_STATUS, 19, 16⟩
abbrev ROTA_STR_STATUS_IN_QOCC : Fld := ⟨R.ROTA_STR_STATUS, 14, 8⟩
abbrev ROTA_STR_STATUS_LIVE_KEY_BANK : Fld := ⟨R.ROTA_STR_STATUS, 0, 0⟩
abbrev ROTA_AUTH_FAIL_CAP_VALID : Fld := ⟨R.ROTA_AUTH_FAIL_CAP, 31, 31⟩
abbrev ROTA_AUTH_FAIL_CAP_REASON : Fld := ⟨R.ROTA_AUTH_FAIL_CAP, 27, 24⟩
abbrev ROTA_AUTH_FAIL_CAP_KT : Fld := ⟨R.ROTA_AUTH_FAIL_CAP, 23, 23⟩
abbrev ROTA_AUTH_FAIL_CAP_LAN_B : Fld := ⟨R.ROTA_AUTH_FAIL_CAP, 22, 22⟩
abbrev ROTA_AUTH_FAIL_CAP_PORT : Fld := ⟨R.ROTA_AUTH_FAIL_CAP, 20, 16⟩
abbrev ROTA_AUTH_FAIL_CAP_INDEX : Fld := ⟨R.ROTA_AUTH_FAIL_CAP, 11, 0⟩
abbrev ROTA_KEY_DATA_DATA (i : Nat) : Fld := ⟨R.ROTA_KEY_DATA i, 31, 0⟩
abbrev PAIL_POOL_CFG_EN (i : Nat) : Fld := ⟨R.PAIL_POOL_CFG i, 31, 31⟩
abbrev PAIL_POOL_CFG_NBANKS (i : Nat) : Fld := ⟨R.PAIL_POOL_CFG i, 13, 8⟩
abbrev PAIL_POOL_CFG_BASE_BANK (i : Nat) : Fld := ⟨R.PAIL_POOL_CFG i, 5, 0⟩
abbrev PAIL_POOL_STAT_BROKEN (i : Nat) : Fld := ⟨R.PAIL_POOL_STAT i, 31, 31⟩
abbrev PAIL_POOL_STAT_REBUILDING (i : Nat) : Fld := ⟨R.PAIL_POOL_STAT i, 30, 30⟩
abbrev PAIL_POOL_STAT_FREE (i : Nat) : Fld := ⟨R.PAIL_POOL_STAT i, 16, 0⟩
abbrev PAIL_POOL_BOOK_TOTAL (i : Nat) : Fld := ⟨R.PAIL_POOL_BOOK i, 16, 0⟩
abbrev PAIL_QUOTA_LIMIT (i : Nat) : Fld := ⟨R.PAIL_QUOTA i, 16, 0⟩
abbrev PAIL_USED_USED (i : Nat) : Fld := ⟨R.PAIL_USED i, 16, 0⟩
abbrev PAIL_FREE_CAP_VALID : Fld := ⟨R.PAIL_FREE_CAP, 31, 31⟩
abbrev PAIL_FREE_CAP_KIND : Fld := ⟨R.PAIL_FREE_CAP, 30, 30⟩
abbrev PAIL_FREE_CAP_REQ : Fld := ⟨R.PAIL_FREE_CAP, 5, 0⟩
abbrev PAIL_FREE_ADDR_OFFSET : Fld := ⟨R.PAIL_FREE_ADDR, 31, 0⟩
abbrev VAT_BOOK_IN_TRANSIT : Fld := ⟨R.VAT_BOOK, 5, 0⟩
abbrev VAT_COLL_CAP_VALID : Fld := ⟨R.VAT_COLL_CAP, 31, 31⟩
abbrev VAT_COLL_CAP_ENG_VALID : Fld := ⟨R.VAT_COLL_CAP, 27, 27⟩
abbrev VAT_COLL_CAP_ENGINE : Fld := ⟨R.VAT_COLL_CAP, 26, 22⟩
abbrev VAT_COLL_CAP_BANK : Fld := ⟨R.VAT_COLL_CAP, 21, 16⟩
abbrev VAT_COLL_CAP_OWNER : Fld := ⟨R.VAT_COLL_CAP, 15, 8⟩
abbrev VAT_COLL_CAP_LOSER : Fld := ⟨R.VAT_COLL_CAP, 7, 0⟩
abbrev VAT_OWNER_RET (i : Nat) : Fld := ⟨R.VAT_OWNER i, 31, 31⟩
abbrev VAT_OWNER_RETAINED (i : Nat) : Fld := ⟨R.VAT_OWNER i, 30, 30⟩
abbrev VAT_OWNER_WAKING (i : Nat) : Fld := ⟨R.VAT_OWNER i, 29, 29⟩
abbrev VAT_OWNER_PEND (i : Nat) : Fld := ⟨R.VAT_OWNER i, 16, 16⟩
abbrev VAT_OWNER_PEND_OWNER (i : Nat) : Fld := ⟨R.VAT_OWNER i, 15, 8⟩
abbrev VAT_OWNER_OWNER (i : Nat) : Fld := ⟨R.VAT_OWNER i, 7, 0⟩
abbrev TNK_SH_DATA (i : Nat) (j : Nat) : Fld := ⟨R.TNK_SH i j, 31, 0⟩
abbrev TNK_LIVE_DATA (i : Nat) (j : Nat) : Fld := ⟨R.TNK_LIVE i j, 31, 0⟩
abbrev TNK_CTRL_DISABLE (i : Nat) : Fld := ⟨R.TNK_CTRL i, 31, 31⟩
abbrev TNK_CTRL_ABORT (i : Nat) : Fld := ⟨R.TNK_CTRL i, 2, 2⟩
abbrev TNK_CTRL_DOORBELL (i : Nat) : Fld := ⟨R.TNK_CTRL i, 1, 1⟩
abbrev TNK_CTRL_ARM (i : Nat) : Fld := ⟨R.TNK_CTRL i, 0, 0⟩
abbrev TNK_STATUS_ERR_CODE (i : Nat) : Fld := ⟨R.TNK_STATUS i, 15, 12⟩
abbrev TNK_STATUS_SH_BUSY (i : Nat) : Fld := ⟨R.TNK_STATUS i, 10, 10⟩
abbrev TNK_STATUS_DONE (i : Nat) : Fld := ⟨R.TNK_STATUS i, 9, 9⟩
abbrev TNK_STATUS_LATE (i : Nat) : Fld := ⟨R.TNK_STATUS i, 8, 8⟩
abbrev TNK_STATUS_HELD (i : Nat) : Fld := ⟨R.TNK_STATUS i, 6, 5⟩
abbrev TNK_STATUS_SH_ARMED (i : Nat) : Fld := ⟨R.TNK_STATUS i, 4, 4⟩
abbrev TNK_STATUS_STATE (i : Nat) : Fld := ⟨R.TNK_STATUS i, 2, 0⟩
abbrev TNK_LATCH_OFFSET (i : Nat) : Fld := ⟨R.TNK_LATCH i, 23, 0⟩
abbrev TNK_TAKEN_COUNT (i : Nat) : Fld := ⟨R.TNK_TAKEN i, 31, 0⟩
abbrev TNK_RETURNED_COUNT (i : Nat) : Fld := ⟨R.TNK_RETURNED i, 31, 0⟩
abbrev LOCK_GRP_RIGHTS_MASTERS (i : Nat) : Fld := ⟨R.LOCK_GRP_RIGHTS i, 5, 0⟩
abbrev LOCK_ERR_CAP_VALID : Fld := ⟨R.LOCK_ERR_CAP, 31, 31⟩
abbrev LOCK_ERR_CAP_LOCK : Fld := ⟨R.LOCK_ERR_CAP, 16, 9⟩
abbrev LOCK_ERR_CAP_MASTER : Fld := ⟨R.LOCK_ERR_CAP, 8, 0⟩
abbrev LOCK_ACQ_DENIED (i : Nat) : Fld := ⟨R.LOCK_ACQ i, 31, 31⟩
abbrev LOCK_ACQ_ORPHAN (i : Nat) : Fld := ⟨R.LOCK_ACQ i, 17, 17⟩
abbrev LOCK_ACQ_HELD (i : Nat) : Fld := ⟨R.LOCK_ACQ i, 16, 16⟩
abbrev LOCK_ACQ_OWNER (i : Nat) : Fld := ⟨R.LOCK_ACQ i, 8, 0⟩
abbrev LOCK_REL_RELEASE (i : Nat) : Fld := ⟨R.LOCK_REL i, 31, 0⟩
abbrev CAL_PUB_CMD_GO : Fld := ⟨R.CAL_PUB_CMD, 31, 31⟩
abbrev CAL_PUB_CMD_OP : Fld := ⟨R.CAL_PUB_CMD, 30, 29⟩
abbrev CAL_PUB_CMD_BANK : Fld := ⟨R.CAL_PUB_CMD, 28, 28⟩
abbrev CAL_PUB_CMD_INDEX : Fld := ⟨R.CAL_PUB_CMD, 10, 0⟩
abbrev CAL_SUB_CMD_GO : Fld := ⟨R.CAL_SUB_CMD, 31, 31⟩
abbrev CAL_SUB_CMD_OP : Fld := ⟨R.CAL_SUB_CMD, 30, 29⟩
abbrev CAL_SUB_CMD_BANK : Fld := ⟨R.CAL_SUB_CMD, 28, 28⟩
abbrev CAL_SUB_CMD_INDEX : Fld := ⟨R.CAL_SUB_CMD, 10, 0⟩
abbrev CAL_PUB_STATUS_BUSY : Fld := ⟨R.CAL_PUB_STATUS, 31, 31⟩
abbrev CAL_PUB_STATUS_RESULT : Fld := ⟨R.CAL_PUB_STATUS, 3, 0⟩
abbrev CAL_SUB_STATUS_BUSY : Fld := ⟨R.CAL_SUB_STATUS, 31, 31⟩
abbrev CAL_SUB_STATUS_RESULT : Fld := ⟨R.CAL_SUB_STATUS, 3, 0⟩
abbrev CAL_PUB_DATA_DATA (i : Nat) : Fld := ⟨R.CAL_PUB_DATA i, 31, 0⟩
abbrev CAL_SUB_DATA_DATA (i : Nat) : Fld := ⟨R.CAL_SUB_DATA i, 31, 0⟩
abbrev CAL_LATE_CAP_VALID : Fld := ⟨R.CAL_LATE_CAP, 31, 31⟩
abbrev CAL_LATE_CAP_TARGET : Fld := ⟨R.CAL_LATE_CAP, 5, 0⟩
abbrev CAL_LATE_NS_NS : Fld := ⟨R.CAL_LATE_NS, 31, 0⟩
abbrev CAL_CAP_LAST_VALID : Fld := ⟨R.CAL_CAP_LAST, 31, 31⟩
abbrev CAL_CAP_LAST_EDGE : Fld := ⟨R.CAL_CAP_LAST, 20, 20⟩
abbrev CAL_CAP_LAST_PIN : Fld := ⟨R.CAL_CAP_LAST, 19, 16⟩
abbrev CAL_CAP_LAST_SEC_SEC : Fld := ⟨R.CAL_CAP_LAST_SEC, 31, 0⟩
abbrev CAL_CAP_LAST_NS_NS : Fld := ⟨R.CAL_CAP_LAST_NS, 31, 0⟩
abbrev CAL_OCC_OCC (i : Nat) : Fld := ⟨R.CAL_OCC i, 8, 0⟩
abbrev CAL_PIN_CFG_MODE (i : Nat) : Fld := ⟨R.CAL_PIN_CFG i, 31, 30⟩
abbrev CAL_PIN_CFG_SAFE (i : Nat) : Fld := ⟨R.CAL_PIN_CFG i, 29, 29⟩
abbrev CAL_PIN_CFG_RISE (i : Nat) : Fld := ⟨R.CAL_PIN_CFG i, 28, 28⟩
abbrev CAL_PIN_CFG_FALL (i : Nat) : Fld := ⟨R.CAL_PIN_CFG i, 27, 27⟩
abbrev CAL_PIN_CFG_EVT (i : Nat) : Fld := ⟨R.CAL_PIN_CFG i, 26, 26⟩
abbrev CAL_PIN_CFG_REC (i : Nat) : Fld := ⟨R.CAL_PIN_CFG i, 25, 25⟩
abbrev CAL_PIN_CFG_PULSE_US (i : Nat) : Fld := ⟨R.CAL_PIN_CFG i, 19, 0⟩
abbrev CAL_PIN_FILT_FILT (i : Nat) : Fld := ⟨R.CAL_PIN_FILT i, 15, 0⟩
abbrev CAL_PIN_DLY_DLY (i : Nat) : Fld := ⟨R.CAL_PIN_DLY i, 15, 0⟩
abbrev CAL_PIN_STATUS_PULSE (i : Nat) : Fld := ⟨R.CAL_PIN_STATUS i, 2, 2⟩
abbrev CAL_PIN_STATUS_DRIVEN (i : Nat) : Fld := ⟨R.CAL_PIN_STATUS i, 1, 1⟩
abbrev CAL_PIN_STATUS_LEVEL (i : Nat) : Fld := ⟨R.CAL_PIN_STATUS i, 0, 0⟩
abbrev TUG_NODE_EN : Fld := ⟨R.TUG_NODE, 31, 31⟩
abbrev TUG_NODE_ROLE : Fld := ⟨R.TUG_NODE, 25, 24⟩
abbrev TUG_NODE_HERD : Fld := ⟨R.TUG_NODE, 21, 16⟩
abbrev TUG_NODE_DEVICE : Fld := ⟨R.TUG_NODE, 13, 0⟩
abbrev TUG_MGR_NODE : Fld := ⟨R.TUG_MGR, 16, 0⟩
abbrev TUG_ROOT_NODE : Fld := ⟨R.TUG_ROOT, 16, 0⟩
abbrev TUG_TIME_CFG_HT_EN : Fld := ⟨R.TUG_TIME_CFG, 31, 31⟩
abbrev TUG_TIME_CFG_HT_LINK : Fld := ⟨R.TUG_TIME_CFG, 30, 30⟩
abbrev TUG_TIME_CFG_THRESH_NS : Fld := ⟨R.TUG_TIME_CFG, 27, 16⟩
abbrev TUG_TIME_CFG_ECHO_US : Fld := ⟨R.TUG_TIME_CFG, 15, 0⟩
abbrev TUG_LINK_CFG_RETRY_NS : Fld := ⟨R.TUG_LINK_CFG, 15, 0⟩
abbrev TUG_TUN_CFG_TUN_EN : Fld := ⟨R.TUG_TUN_CFG, 31, 31⟩
abbrev TUG_TUN_CFG_TUN_SLOT : Fld := ⟨R.TUG_TUN_CFG, 23, 16⟩
abbrev TUG_TUN_CFG_TUN_ETYPE : Fld := ⟨R.TUG_TUN_CFG, 15, 0⟩
abbrev TUG_TUN_EP_THRESH_US : Fld := ⟨R.TUG_TUN_EP, 31, 16⟩
abbrev TUG_TUN_EP_EP : Fld := ⟨R.TUG_TUN_EP, 7, 0⟩
abbrev TUG_BULK_OP_ROTA_OP : Fld := ⟨R.TUG_BULK_OP, 15, 0⟩
abbrev TUG_SHR_CMD_GO : Fld := ⟨R.TUG_SHR_CMD, 31, 31⟩
abbrev TUG_SHR_CMD_OP : Fld := ⟨R.TUG_SHR_CMD, 30, 30⟩
abbrev TUG_SHR_CMD_BANK : Fld := ⟨R.TUG_SHR_CMD, 29, 29⟩
abbrev TUG_SHR_CMD_INDEX : Fld := ⟨R.TUG_SHR_CMD, 7, 0⟩
abbrev TUG_SHR_STATUS_BUSY : Fld := ⟨R.TUG_SHR_STATUS, 31, 31⟩
abbrev TUG_SHR_STATUS_RESULT : Fld := ⟨R.TUG_SHR_STATUS, 3, 0⟩
abbrev TUG_SHR_DATA_DATA (i : Nat) : Fld := ⟨R.TUG_SHR_DATA i, 31, 0⟩
abbrev TUG_CTL_TX_CMD_GO : Fld := ⟨R.TUG_CTL_TX_CMD, 31, 31⟩
abbrev TUG_CTL_TX_STATUS_RESULT : Fld := ⟨R.TUG_CTL_TX_STATUS, 3, 0⟩
abbrev TUG_CTL_RX_STATUS_VALID : Fld := ⟨R.TUG_CTL_RX_STATUS, 31, 31⟩
abbrev TUG_CTL_RX_STATUS_OCC : Fld := ⟨R.TUG_CTL_RX_STATUS, 6, 0⟩
abbrev TUG_TIME_CAP_VALID : Fld := ⟨R.TUG_TIME_CAP, 31, 31⟩
abbrev TUG_TIME_CAP_LINK : Fld := ⟨R.TUG_TIME_CAP, 30, 30⟩
abbrev TUG_TIME_CAP_SRC : Fld := ⟨R.TUG_TIME_CAP, 16, 0⟩
abbrev TUG_TIME_CAP_OFS_D : Fld := ⟨R.TUG_TIME_CAP_OFS, 31, 0⟩
abbrev TUG_CTL_TX_DATA_DATA (i : Nat) : Fld := ⟨R.TUG_CTL_TX_DATA i, 31, 0⟩
abbrev TUG_CTL_RX_DATA_DATA (i : Nat) : Fld := ⟨R.TUG_CTL_RX_DATA i, 31, 0⟩
abbrev TUG_ROUTE_MEMBER_ROUTE0 (i : Nat) : Fld := ⟨R.TUG_ROUTE_MEMBER i, 1, 0⟩
abbrev TUG_ROUTE_MEMBER_ROUTE1 (i : Nat) : Fld := ⟨R.TUG_ROUTE_MEMBER i, 3, 2⟩
abbrev TUG_ROUTE_MEMBER_ROUTE2 (i : Nat) : Fld := ⟨R.TUG_ROUTE_MEMBER i, 5, 4⟩
abbrev TUG_ROUTE_MEMBER_ROUTE3 (i : Nat) : Fld := ⟨R.TUG_ROUTE_MEMBER i, 7, 6⟩
abbrev TUG_ROUTE_MEMBER_ROUTE4 (i : Nat) : Fld := ⟨R.TUG_ROUTE_MEMBER i, 9, 8⟩
abbrev TUG_ROUTE_MEMBER_ROUTE5 (i : Nat) : Fld := ⟨R.TUG_ROUTE_MEMBER i, 11, 10⟩
abbrev TUG_ROUTE_MEMBER_ROUTE6 (i : Nat) : Fld := ⟨R.TUG_ROUTE_MEMBER i, 13, 12⟩
abbrev TUG_ROUTE_MEMBER_ROUTE7 (i : Nat) : Fld := ⟨R.TUG_ROUTE_MEMBER i, 15, 14⟩
abbrev TUG_ROUTE_MEMBER_ROUTE8 (i : Nat) : Fld := ⟨R.TUG_ROUTE_MEMBER i, 17, 16⟩
abbrev TUG_ROUTE_MEMBER_ROUTE9 (i : Nat) : Fld := ⟨R.TUG_ROUTE_MEMBER i, 19, 18⟩
abbrev TUG_ROUTE_MEMBER_ROUTE10 (i : Nat) : Fld := ⟨R.TUG_ROUTE_MEMBER i, 21, 20⟩
abbrev TUG_ROUTE_MEMBER_ROUTE11 (i : Nat) : Fld := ⟨R.TUG_ROUTE_MEMBER i, 23, 22⟩
abbrev TUG_ROUTE_MEMBER_ROUTE12 (i : Nat) : Fld := ⟨R.TUG_ROUTE_MEMBER i, 25, 24⟩
abbrev TUG_ROUTE_MEMBER_ROUTE13 (i : Nat) : Fld := ⟨R.TUG_ROUTE_MEMBER i, 27, 26⟩
abbrev TUG_ROUTE_MEMBER_ROUTE14 (i : Nat) : Fld := ⟨R.TUG_ROUTE_MEMBER i, 29, 28⟩
abbrev TUG_ROUTE_MEMBER_ROUTE15 (i : Nat) : Fld := ⟨R.TUG_ROUTE_MEMBER i, 31, 30⟩
abbrev TUG_ROUTE_AREA_ROUTE0 (i : Nat) : Fld := ⟨R.TUG_ROUTE_AREA i, 1, 0⟩
abbrev TUG_ROUTE_AREA_ROUTE1 (i : Nat) : Fld := ⟨R.TUG_ROUTE_AREA i, 3, 2⟩
abbrev TUG_ROUTE_AREA_ROUTE2 (i : Nat) : Fld := ⟨R.TUG_ROUTE_AREA i, 5, 4⟩
abbrev TUG_ROUTE_AREA_ROUTE3 (i : Nat) : Fld := ⟨R.TUG_ROUTE_AREA i, 7, 6⟩
abbrev TUG_ROUTE_AREA_ROUTE4 (i : Nat) : Fld := ⟨R.TUG_ROUTE_AREA i, 9, 8⟩
abbrev TUG_ROUTE_AREA_ROUTE5 (i : Nat) : Fld := ⟨R.TUG_ROUTE_AREA i, 11, 10⟩
abbrev TUG_ROUTE_AREA_ROUTE6 (i : Nat) : Fld := ⟨R.TUG_ROUTE_AREA i, 13, 12⟩
abbrev TUG_ROUTE_AREA_ROUTE7 (i : Nat) : Fld := ⟨R.TUG_ROUTE_AREA i, 15, 14⟩
abbrev TUG_ROUTE_AREA_ROUTE8 (i : Nat) : Fld := ⟨R.TUG_ROUTE_AREA i, 17, 16⟩
abbrev TUG_ROUTE_AREA_ROUTE9 (i : Nat) : Fld := ⟨R.TUG_ROUTE_AREA i, 19, 18⟩
abbrev TUG_ROUTE_AREA_ROUTE10 (i : Nat) : Fld := ⟨R.TUG_ROUTE_AREA i, 21, 20⟩
abbrev TUG_ROUTE_AREA_ROUTE11 (i : Nat) : Fld := ⟨R.TUG_ROUTE_AREA i, 23, 22⟩
abbrev TUG_ROUTE_AREA_ROUTE12 (i : Nat) : Fld := ⟨R.TUG_ROUTE_AREA i, 25, 24⟩
abbrev TUG_ROUTE_AREA_ROUTE13 (i : Nat) : Fld := ⟨R.TUG_ROUTE_AREA i, 27, 26⟩
abbrev TUG_ROUTE_AREA_ROUTE14 (i : Nat) : Fld := ⟨R.TUG_ROUTE_AREA i, 29, 28⟩
abbrev TUG_ROUTE_AREA_ROUTE15 (i : Nat) : Fld := ⟨R.TUG_ROUTE_AREA i, 31, 30⟩
abbrev TUG_LINK_STATUS_TIME_ALARM (i : Nat) : Fld := ⟨R.TUG_LINK_STATUS i, 7, 7⟩
abbrev TUG_LINK_STATUS_DLY_VALID (i : Nat) : Fld := ⟨R.TUG_LINK_STATUS i, 6, 6⟩
abbrev TUG_LINK_STATUS_PEER (i : Nat) : Fld := ⟨R.TUG_LINK_STATUS i, 5, 5⟩
abbrev TUG_LINK_STATUS_FAR_TQ (i : Nat) : Fld := ⟨R.TUG_LINK_STATUS i, 4, 4⟩
abbrev TUG_LINK_STATUS_STATE (i : Nat) : Fld := ⟨R.TUG_LINK_STATUS i, 1, 0⟩
abbrev TUG_LINK_FAR_HERD (i : Nat) : Fld := ⟨R.TUG_LINK_FAR i, 22, 17⟩
abbrev TUG_LINK_FAR_NODE (i : Nat) : Fld := ⟨R.TUG_LINK_FAR i, 16, 0⟩
abbrev TUG_LINK_DLY_DLY (i : Nat) : Fld := ⟨R.TUG_LINK_DLY i, 31, 0⟩
abbrev TUG_LINK_OFS_OFS (i : Nat) : Fld := ⟨R.TUG_LINK_OFS i, 31, 0⟩
abbrev TUG_LINK_RX_CRED_RET_PEND (i : Nat) (j : Nat) : Fld := ⟨R.TUG_LINK_RX_CRED i j, 30, 24⟩
abbrev TUG_LINK_RX_CRED_HELD (i : Nat) (j : Nat) : Fld := ⟨R.TUG_LINK_RX_CRED i j, 22, 16⟩
abbrev TUG_LINK_RX_CRED_TOTAL (i : Nat) (j : Nat) : Fld := ⟨R.TUG_LINK_RX_CRED i j, 6, 0⟩
abbrev TUG_LINK_TX_CRED_TOTAL (i : Nat) (j : Nat) : Fld := ⟨R.TUG_LINK_TX_CRED i j, 30, 24⟩
abbrev TUG_LINK_TX_CRED_OUT (i : Nat) (j : Nat) : Fld := ⟨R.TUG_LINK_TX_CRED i j, 22, 16⟩
abbrev TUG_LINK_TX_CRED_AVAIL (i : Nat) (j : Nat) : Fld := ⟨R.TUG_LINK_TX_CRED i j, 6, 0⟩
abbrev DRAM_CFG_NBR_K : Fld := ⟨R.DRAM_CFG, 20, 16⟩
abbrev DRAM_CFG_GRAIN_LOG2 : Fld := ⟨R.DRAM_CFG, 12, 8⟩
abbrev DRAM_CMD_TRAIN : Fld := ⟨R.DRAM_CMD, 31, 31⟩
abbrev DRAM_CMD_LOAD : Fld := ⟨R.DRAM_CMD, 30, 30⟩
abbrev DRAM_CMD_SPEED_GO : Fld := ⟨R.DRAM_CMD, 29, 29⟩
abbrev DRAM_CMD_SPEED : Fld := ⟨R.DRAM_CMD, 1, 0⟩
abbrev DRAM_STATUS_STATE : Fld := ⟨R.DRAM_STATUS, 31, 29⟩
abbrev DRAM_STATUS_PEND : Fld := ⟨R.DRAM_STATUS, 28, 28⟩
abbrev DRAM_STATUS_PEND_SPEED : Fld := ⟨R.DRAM_STATUS, 27, 26⟩
abbrev DRAM_STATUS_CUR_SPEED : Fld := ⟨R.DRAM_STATUS, 25, 24⟩
abbrev DRAM_STATUS_REFUSED : Fld := ⟨R.DRAM_STATUS, 23, 23⟩
abbrev DRAM_STATUS_TVALID : Fld := ⟨R.DRAM_STATUS, 22, 20⟩
abbrev DRAM_STATUS_FAIL_CH : Fld := ⟨R.DRAM_STATUS, 19, 18⟩
abbrev DRAM_SIZE_MIB : Fld := ⟨R.DRAM_SIZE, 15, 0⟩
abbrev DRAM_CHK_CAP_VALID : Fld := ⟨R.DRAM_CHK_CAP, 31, 31⟩
abbrev DRAM_CHK_CAP_WRITE : Fld := ⟨R.DRAM_CHK_CAP, 30, 30⟩
abbrev DRAM_CHK_CAP_BLOCK : Fld := ⟨R.DRAM_CHK_CAP, 26, 0⟩
abbrev DRAM_TRAIN_IDX_POINT : Fld := ⟨R.DRAM_TRAIN_IDX, 9, 8⟩
abbrev DRAM_TRAIN_IDX_CH : Fld := ⟨R.DRAM_TRAIN_IDX, 7, 7⟩
abbrev DRAM_TRAIN_IDX_WORD : Fld := ⟨R.DRAM_TRAIN_IDX, 5, 0⟩
abbrev DRAM_TRAIN_DATA_DATA : Fld := ⟨R.DRAM_TRAIN_DATA, 31, 0⟩
abbrev DRAM_REC_CTRL_EN : Fld := ⟨R.DRAM_REC_CTRL, 31, 31⟩
abbrev DRAM_REC_CTRL_EXP_TANKER : Fld := ⟨R.DRAM_REC_CTRL, 3, 0⟩
abbrev DRAM_REC_BASE_BASE : Fld := ⟨R.DRAM_REC_BASE, 26, 0⟩
abbrev DRAM_REC_SIZE_SIZE : Fld := ⟨R.DRAM_REC_SIZE, 26, 0⟩
abbrev DRAM_REC_WIN_POST : Fld := ⟨R.DRAM_REC_WIN, 31, 16⟩
abbrev DRAM_REC_WIN_PRE : Fld := ⟨R.DRAM_REC_WIN, 15, 0⟩
abbrev DRAM_REC_PANIC_HI : Fld := ⟨R.DRAM_REC_PANIC, 15, 8⟩
abbrev DRAM_REC_PANIC_LO : Fld := ⟨R.DRAM_REC_PANIC, 7, 0⟩
abbrev DRAM_REC_STATE_STATE : Fld := ⟨R.DRAM_REC_STATE, 31, 30⟩
abbrev DRAM_REC_STATE_PANIC : Fld := ⟨R.DRAM_REC_STATE, 29, 29⟩
abbrev DRAM_REC_STATE_PRE_SHORT : Fld := ⟨R.DRAM_REC_STATE, 28, 28⟩
abbrev DRAM_REC_STATE_PRE_LOST : Fld := ⟨R.DRAM_REC_STATE, 27, 27⟩
abbrev DRAM_REC_STATE_FROZEN_EARLY : Fld := ⟨R.DRAM_REC_STATE, 26, 26⟩
abbrev DRAM_REC_STATE_STAGE : Fld := ⟨R.DRAM_REC_STATE, 11, 0⟩
abbrev DRAM_REC_CMD_TRIGGER : Fld := ⟨R.DRAM_REC_CMD, 31, 31⟩
abbrev DRAM_REC_CMD_REARM : Fld := ⟨R.DRAM_REC_CMD, 30, 30⟩
abbrev DRAM_REC_CMD_CODE : Fld := ⟨R.DRAM_REC_CMD, 15, 0⟩
abbrev DRAM_REC_WR_OFS : Fld := ⟨R.DRAM_REC_WR, 26, 0⟩
abbrev DRAM_REC_OLD_OFS : Fld := ⟨R.DRAM_REC_OLD, 26, 0⟩
abbrev DRAM_REC_PRE_OFS : Fld := ⟨R.DRAM_REC_PRE, 26, 0⟩
abbrev DRAM_REC_TRIG_OFS : Fld := ⟨R.DRAM_REC_TRIG, 26, 0⟩
abbrev DRAM_REC_TRIG_SEC_SEC : Fld := ⟨R.DRAM_REC_TRIG_SEC, 31, 0⟩
abbrev DRAM_REC_TRIG_K_K : Fld := ⟨R.DRAM_REC_TRIG_K, 13, 0⟩
abbrev CRM_ID_PART : Fld := ⟨R.CRM_ID, 31, 16⟩
abbrev CRM_ID_STEPPING : Fld := ⟨R.CRM_ID, 15, 8⟩
abbrev CRM_HWIN_MAP_EN (i : Nat) : Fld := ⟨R.CRM_HWIN_MAP i, 31, 31⟩
abbrev CRM_HWIN_MAP_BYRE (i : Nat) : Fld := ⟨R.CRM_HWIN_MAP i, 10, 8⟩
abbrev CRM_HWIN_MAP_BANK (i : Nat) : Fld := ⟨R.CRM_HWIN_MAP i, 5, 0⟩
abbrev CHURN_BYRE_OK : Fld := ⟨R.CHURN_BYRE, 31, 31⟩
abbrev CHURN_BYRE_BENCH : Fld := ⟨R.CHURN_BYRE, 30, 30⟩
abbrev CHURN_BYRE_TESTQ : Fld := ⟨R.CHURN_BYRE, 29, 29⟩
abbrev CHURN_BYRE_REASON : Fld := ⟨R.CHURN_BYRE, 19, 16⟩
abbrev CHURN_BYRE_PREV : Fld := ⟨R.CHURN_BYRE, 7, 4⟩
abbrev CHURN_BYRE_STATE : Fld := ⟨R.CHURN_BYRE, 3, 0⟩
abbrev CHURN_BADBANK_LO_BANKS : Fld := ⟨R.CHURN_BADBANK_LO, 31, 0⟩
abbrev CHURN_BADBANK_HI_BANKS : Fld := ⟨R.CHURN_BADBANK_HI, 15, 0⟩
abbrev CHURN_FLT_CAP_VALID : Fld := ⟨R.CHURN_FLT_CAP, 31, 31⟩
abbrev CHURN_FLT_CAP_KIND : Fld := ⟨R.CHURN_FLT_CAP, 30, 28⟩
abbrev CHURN_FLT_CAP_INDEX : Fld := ⟨R.CHURN_FLT_CAP, 21, 16⟩
abbrev CHURN_FLT_CAP_OP_ID : Fld := ⟨R.CHURN_FLT_CAP, 15, 0⟩
abbrev CHURN_FLT_ADDR_ADDR : Fld := ⟨R.CHURN_FLT_ADDR, 31, 0⟩
abbrev CHURN_PAR_CAP_VALID : Fld := ⟨R.CHURN_PAR_CAP, 31, 31⟩
abbrev CHURN_PAR_CAP_BLOCK : Fld := ⟨R.CHURN_PAR_CAP, 27, 24⟩
abbrev CHURN_PAR_CAP_INDEX : Fld := ⟨R.CHURN_PAR_CAP, 23, 0⟩
abbrev CHURN_PAR_ADDR_ADDR : Fld := ⟨R.CHURN_PAR_ADDR, 31, 0⟩
abbrev AON_PWR_REQ_GO : Fld := ⟨R.AON_PWR_REQ, 31, 31⟩
abbrev AON_PWR_REQ_DOMAIN : Fld := ⟨R.AON_PWR_REQ, 19, 16⟩
abbrev AON_PWR_REQ_BYRE : Fld := ⟨R.AON_PWR_REQ, 11, 8⟩
abbrev AON_PWR_REQ_TARGET : Fld := ⟨R.AON_PWR_REQ, 1, 0⟩
abbrev AON_PWR_RESULT_BUSY : Fld := ⟨R.AON_PWR_RESULT, 31, 31⟩
abbrev AON_PWR_RESULT_REQ_LOST : Fld := ⟨R.AON_PWR_RESULT, 30, 30⟩
abbrev AON_PWR_RESULT_DOMAIN : Fld := ⟨R.AON_PWR_RESULT, 19, 16⟩
abbrev AON_PWR_RESULT_BLOCK : Fld := ⟨R.AON_PWR_RESULT, 15, 8⟩
abbrev AON_PWR_RESULT_RESULT : Fld := ⟨R.AON_PWR_RESULT, 3, 0⟩
abbrev AON_PWR_STATE_DOM0 (i : Nat) : Fld := ⟨R.AON_PWR_STATE i, 1, 0⟩
abbrev AON_PWR_STATE_DOM1 (i : Nat) : Fld := ⟨R.AON_PWR_STATE i, 3, 2⟩
abbrev AON_PWR_STATE_DOM2 (i : Nat) : Fld := ⟨R.AON_PWR_STATE i, 5, 4⟩
abbrev AON_PWR_STATE_DOM3 (i : Nat) : Fld := ⟨R.AON_PWR_STATE i, 7, 6⟩
abbrev AON_PWR_STATE_DOM4 (i : Nat) : Fld := ⟨R.AON_PWR_STATE i, 9, 8⟩
abbrev AON_PWR_STATE_DOM5 (i : Nat) : Fld := ⟨R.AON_PWR_STATE i, 11, 10⟩
abbrev AON_PWR_STATE_DOM6 (i : Nat) : Fld := ⟨R.AON_PWR_STATE i, 13, 12⟩
abbrev AON_PWR_STATE_DOM7 (i : Nat) : Fld := ⟨R.AON_PWR_STATE i, 15, 14⟩
abbrev AON_PWR_STATE_DOM8 (i : Nat) : Fld := ⟨R.AON_PWR_STATE i, 17, 16⟩
abbrev AON_PWR_STATE_DOM9 (i : Nat) : Fld := ⟨R.AON_PWR_STATE i, 19, 18⟩
abbrev AON_WAKE_CFG_DOMAINS (i : Nat) : Fld := ⟨R.AON_WAKE_CFG i, 25, 16⟩
abbrev AON_WAKE_CFG_EDGE (i : Nat) : Fld := ⟨R.AON_WAKE_CFG i, 11, 8⟩
abbrev AON_WAKE_CFG_POL (i : Nat) : Fld := ⟨R.AON_WAKE_CFG i, 7, 4⟩
abbrev AON_WAKE_CFG_EN (i : Nat) : Fld := ⟨R.AON_WAKE_CFG i, 3, 0⟩
abbrev AON_WAKE_STAT_PINS (i : Nat) : Fld := ⟨R.AON_WAKE_STAT i, 3, 0⟩
abbrev AON_VREQ_GO (i : Nat) : Fld := ⟨R.AON_VREQ i, 31, 31⟩
abbrev AON_VREQ_RAIL (i : Nat) : Fld := ⟨R.AON_VREQ i, 30, 30⟩
abbrev AON_VREQ_MV (i : Nat) : Fld := ⟨R.AON_VREQ i, 10, 0⟩
abbrev AON_VSTAT_BUSY (i : Nat) : Fld := ⟨R.AON_VSTAT i, 31, 31⟩
abbrev AON_VSTAT_PGOOD (i : Nat) : Fld := ⟨R.AON_VSTAT i, 30, 30⟩
abbrev AON_VSTAT_RESULT (i : Nat) : Fld := ⟨R.AON_VSTAT i, 29, 28⟩
abbrev AON_VSTAT_VCORE_MIN (i : Nat) : Fld := ⟨R.AON_VSTAT i, 26, 16⟩
abbrev AON_VSTAT_CORE_MV (i : Nat) : Fld := ⟨R.AON_VSTAT i, 10, 0⟩
abbrev AON_VIN_MV : Fld := ⟨R.AON_VIN, 15, 0⟩
abbrev AON_PFAIL_CFG_EN : Fld := ⟨R.AON_PFAIL_CFG, 31, 31⟩
abbrev AON_PFAIL_CFG_THRESH_MV : Fld := ⟨R.AON_PFAIL_CFG, 15, 0⟩
abbrev AON_PFAIL_STAT_SEEN : Fld := ⟨R.AON_PFAIL_STAT, 1, 1⟩
abbrev AON_PFAIL_STAT_PFAIL : Fld := ⟨R.AON_PFAIL_STAT, 0, 0⟩
abbrev AON_CLK_STAT_RTC_DEGRADED : Fld := ⟨R.AON_CLK_STAT, 10, 10⟩
abbrev AON_CLK_STAT_PCIE_CLK_OK : Fld := ⟨R.AON_CLK_STAT, 9, 9⟩
abbrev AON_CLK_STAT_CRM_CLK_OK : Fld := ⟨R.AON_CLK_STAT, 8, 8⟩
abbrev AON_CLK_STAT_REFCLK_OK : Fld := ⟨R.AON_CLK_STAT, 5, 0⟩
abbrev AON_RST_CAUSE_CAUSE : Fld := ⟨R.AON_RST_CAUSE, 7, 0⟩
abbrev AON_BYRE_RST_LAST (i : Nat) : Fld := ⟨R.AON_BYRE_RST i, 3, 0⟩
abbrev PWR_TEMP_HOT : Fld := ⟨R.PWR_TEMP, 16, 16⟩
abbrev PWR_TEMP_TEMP : Fld := ⟨R.PWR_TEMP, 15, 0⟩
abbrev TIME_CNT_LOCK_LOSS_COUNT : Fld := ⟨R.TIME_CNT_LOCK_LOSS, 31, 0⟩
abbrev TIME_CNT_STEP_COUNT : Fld := ⟨R.TIME_CNT_STEP, 31, 0⟩
abbrev TIME_CNT_SKIP_STEP_COUNT : Fld := ⟨R.TIME_CNT_SKIP_STEP, 31, 0⟩
abbrev TIME_CNT_LONG_STEP_COUNT : Fld := ⟨R.TIME_CNT_LONG_STEP, 31, 0⟩
abbrev TIME_CNT_SKIP_FREEZE_COUNT : Fld := ⟨R.TIME_CNT_SKIP_FREEZE, 31, 0⟩
abbrev TIME_CNT_WATCHDOG_COUNT : Fld := ⟨R.TIME_CNT_WATCHDOG, 31, 0⟩
abbrev TIME_CNT_REFUSED_COUNT : Fld := ⟨R.TIME_CNT_REFUSED, 31, 0⟩
abbrev TIME_CNT_PPS_ALARM_COUNT : Fld := ⟨R.TIME_CNT_PPS_ALARM, 31, 0⟩
abbrev TIME_CNT_PTP_DROP_COUNT : Fld := ⟨R.TIME_CNT_PTP_DROP, 31, 0⟩
abbrev TIME_CNT_BAD_REQ_COUNT : Fld := ⟨R.TIME_CNT_BAD_REQ, 31, 0⟩
abbrev CHURN_CNT_PLAN_COUNT : Fld := ⟨R.CHURN_CNT_PLAN, 31, 0⟩
abbrev CHURN_CNT_RESERVE_COUNT : Fld := ⟨R.CHURN_CNT_RESERVE, 31, 0⟩
abbrev CHURN_CNT_MARGIN_COUNT : Fld := ⟨R.CHURN_CNT_MARGIN, 31, 0⟩
abbrev CHURN_CNT_OVERRUN_COUNT : Fld := ⟨R.CHURN_CNT_OVERRUN, 31, 0⟩
abbrev CHURN_CNT_RECOMPUTE_COUNT : Fld := ⟨R.CHURN_CNT_RECOMPUTE, 31, 0⟩
abbrev CHURN_CNT_RESTART_COUNT : Fld := ⟨R.CHURN_CNT_RESTART, 31, 0⟩
abbrev CHURN_CNT_SWAP_COUNT : Fld := ⟨R.CHURN_CNT_SWAP, 31, 0⟩
abbrev CHURN_CNT_LATE_EPOCH_COUNT : Fld := ⟨R.CHURN_CNT_LATE_EPOCH, 31, 0⟩
abbrev CHURN_CNT_REFUSED_ARM_COUNT : Fld := ⟨R.CHURN_CNT_REFUSED_ARM, 31, 0⟩
abbrev CHURN_CNT_DEGRADE_COUNT : Fld := ⟨R.CHURN_CNT_DEGRADE, 31, 0⟩
abbrev SW_CNT_TALLY_DROP_COUNT : Fld := ⟨R.SW_CNT_TALLY_DROP, 31, 0⟩
abbrev SW_CNT_TALLY_OVR_COUNT : Fld := ⟨R.SW_CNT_TALLY_OVR, 31, 0⟩
abbrev SW_CNT_DUP_EVICT_COUNT : Fld := ⟨R.SW_CNT_DUP_EVICT, 31, 0⟩
abbrev SW_CNT_CELL_DISCARD_COUNT : Fld := ⟨R.SW_CNT_CELL_DISCARD, 31, 0⟩
abbrev SW_PORT_CNT_RX_FRAMES_COUNT (i : Nat) : Fld := ⟨R.SW_PORT_CNT_RX_FRAMES i, 31, 0⟩
abbrev SW_PORT_CNT_RX_OCT_LO_COUNT (i : Nat) : Fld := ⟨R.SW_PORT_CNT_RX_OCT_LO i, 31, 0⟩
abbrev SW_PORT_CNT_RX_OCT_HI_COUNT (i : Nat) : Fld := ⟨R.SW_PORT_CNT_RX_OCT_HI i, 31, 0⟩
abbrev SW_PORT_CNT_RX_FCS_COUNT (i : Nat) : Fld := ⟨R.SW_PORT_CNT_RX_FCS i, 31, 0⟩
abbrev SW_PORT_CNT_RX_RUNT_COUNT (i : Nat) : Fld := ⟨R.SW_PORT_CNT_RX_RUNT i, 31, 0⟩
abbrev SW_PORT_CNT_RX_OVERSIZE_COUNT (i : Nat) : Fld := ⟨R.SW_PORT_CNT_RX_OVERSIZE i, 31, 0⟩
abbrev SW_PORT_CNT_RX_NOPAIL_COUNT (i : Nat) : Fld := ⟨R.SW_PORT_CNT_RX_NOPAIL i, 31, 0⟩
abbrev SW_PORT_CNT_RX_PAUSE_COUNT (i : Nat) : Fld := ⟨R.SW_PORT_CNT_RX_PAUSE i, 31, 0⟩
abbrev SW_PORT_CNT_RX_INQ_COUNT (i : Nat) : Fld := ⟨R.SW_PORT_CNT_RX_INQ i, 31, 0⟩
abbrev SW_PORT_CNT_TX_FRAMES_COUNT (i : Nat) : Fld := ⟨R.SW_PORT_CNT_TX_FRAMES i, 31, 0⟩
abbrev SW_PORT_CNT_TX_OCT_LO_COUNT (i : Nat) : Fld := ⟨R.SW_PORT_CNT_TX_OCT_LO i, 31, 0⟩
abbrev SW_PORT_CNT_TX_OCT_HI_COUNT (i : Nat) : Fld := ⟨R.SW_PORT_CNT_TX_OCT_HI i, 31, 0⟩
abbrev SW_PORT_CNT_TX_ABORT_COUNT (i : Nat) : Fld := ⟨R.SW_PORT_CNT_TX_ABORT i, 31, 0⟩
abbrev SW_PORT_CNT_TX_FLUSH_COUNT (i : Nat) : Fld := ⟨R.SW_PORT_CNT_TX_FLUSH i, 31, 0⟩
abbrev SW_PORT_CNT_TX_NOPAIL_COUNT (i : Nat) : Fld := ⟨R.SW_PORT_CNT_TX_NOPAIL i, 31, 0⟩
abbrev SW_PORT_CNT_LINK_DOWN_COUNT (i : Nat) : Fld := ⟨R.SW_PORT_CNT_LINK_DOWN i, 31, 0⟩
abbrev SW_PORT_CNT_DUP_DROP_COUNT (i : Nat) : Fld := ⟨R.SW_PORT_CNT_DUP_DROP i, 31, 0⟩
abbrev SW_PORT_CNT_RCT_ERR_COUNT (i : Nat) : Fld := ⟨R.SW_PORT_CNT_RCT_ERR i, 31, 0⟩
abbrev SW_PORT_CNT_CAL_DOWN_COUNT (i : Nat) : Fld := ⟨R.SW_PORT_CNT_CAL_DOWN i, 31, 0⟩
abbrev SW_PORT_CNT_CAL_LATE_COUNT (i : Nat) : Fld := ⟨R.SW_PORT_CNT_CAL_LATE i, 31, 0⟩
abbrev SW_PORT_CNT_TX_QDROP_COUNT (i : Nat) (j : Nat) : Fld := ⟨R.SW_PORT_CNT_TX_QDROP i j, 31, 0⟩
abbrev SKIM_CNT_LOOKUP_COUNT : Fld := ⟨R.SKIM_CNT_LOOKUP, 31, 0⟩
abbrev SKIM_CNT_DEFAULT_COUNT : Fld := ⟨R.SKIM_CNT_DEFAULT, 31, 0⟩
abbrev SKIM_CNT_PARSE_ERR_COUNT : Fld := ⟨R.SKIM_CNT_PARSE_ERR, 31, 0⟩
abbrev SKIM_CNT_ACT_DROP_COUNT : Fld := ⟨R.SKIM_CNT_ACT_DROP, 31, 0⟩
abbrev SKIM_CNT_FRAG_FIRST_COUNT : Fld := ⟨R.SKIM_CNT_FRAG_FIRST, 31, 0⟩
abbrev SKIM_CNT_FRAG_HIT_COUNT : Fld := ⟨R.SKIM_CNT_FRAG_HIT, 31, 0⟩
abbrev SKIM_CNT_FRAG_MISS_COUNT : Fld := ⟨R.SKIM_CNT_FRAG_MISS, 31, 0⟩
abbrev SKIM_CNT_FRAG_FULL_COUNT : Fld := ⟨R.SKIM_CNT_FRAG_FULL, 31, 0⟩
abbrev SKIM_CNT_FRAG_TIMEOUT_COUNT : Fld := ⟨R.SKIM_CNT_FRAG_TIMEOUT, 31, 0⟩
abbrev SKIM_CNT_FRAG_REPLACE_COUNT : Fld := ⟨R.SKIM_CNT_FRAG_REPLACE, 31, 0⟩
abbrev EMU_CNT_LOOKUP_COUNT : Fld := ⟨R.EMU_CNT_LOOKUP, 31, 0⟩
abbrev EMU_CNT_MISS_COUNT : Fld := ⟨R.EMU_CNT_MISS, 31, 0⟩
abbrev EMU_CNT_STREAM_MISS_COUNT : Fld := ⟨R.EMU_CNT_STREAM_MISS, 31, 0⟩
abbrev EMU_CNT_AUTH_NOKEY_COUNT : Fld := ⟨R.EMU_CNT_AUTH_NOKEY, 31, 0⟩
abbrev EMU_CNT_FWD_FILTER_COUNT : Fld := ⟨R.EMU_CNT_FWD_FILTER, 31, 0⟩
abbrev EMU_CNT_INSERT_FULL_COUNT : Fld := ⟨R.EMU_CNT_INSERT_FULL, 31, 0⟩
abbrev EMU_CNT_AGED_COUNT : Fld := ⟨R.EMU_CNT_AGED, 31, 0⟩
abbrev EMU_CNT_SUPERSEDED_COUNT : Fld := ⟨R.EMU_CNT_SUPERSEDED, 31, 0⟩
abbrev EMU_CNT_LEARN_COUNT : Fld := ⟨R.EMU_CNT_LEARN, 31, 0⟩
abbrev EMU_CNT_LEARN_MOVE_COUNT : Fld := ⟨R.EMU_CNT_LEARN_MOVE, 31, 0⟩
abbrev EMU_CNT_LEARN_CONFLICT_COUNT : Fld := ⟨R.EMU_CNT_LEARN_CONFLICT, 31, 0⟩
abbrev EMU_CNT_LEARN_LIMIT_COUNT : Fld := ⟨R.EMU_CNT_LEARN_LIMIT, 31, 0⟩
abbrev EMU_CNT_LEARN_RATE_COUNT : Fld := ⟨R.EMU_CNT_LEARN_RATE, 31, 0⟩
abbrev EMU_CNT_LEARN_FULL_COUNT : Fld := ⟨R.EMU_CNT_LEARN_FULL, 31, 0⟩
abbrev EMU_CNT_NOTE_DROP_COUNT : Fld := ⟨R.EMU_CNT_NOTE_DROP, 31, 0⟩
abbrev PRESS_CNT_SAMPLE_COUNT : Fld := ⟨R.PRESS_CNT_SAMPLE, 31, 0⟩
abbrev PRESS_CNT_TWIN_COUNT : Fld := ⟨R.PRESS_CNT_TWIN, 31, 0⟩
abbrev PRESS_CNT_REPEAT_COUNT : Fld := ⟨R.PRESS_CNT_REPEAT, 31, 0⟩
abbrev PRESS_CNT_LATE_COUNT : Fld := ⟨R.PRESS_CNT_LATE, 31, 0⟩
abbrev PRESS_CNT_EARLY_COUNT : Fld := ⟨R.PRESS_CNT_EARLY, 31, 0⟩
abbrev PRESS_CNT_BAD_CNT_COUNT : Fld := ⟨R.PRESS_CNT_BAD_CNT, 31, 0⟩
abbrev PRESS_CNT_LAYOUT_COUNT : Fld := ⟨R.PRESS_CNT_LAYOUT, 31, 0⟩
abbrev PRESS_CNT_CONFREV_COUNT : Fld := ⟨R.PRESS_CNT_CONFREV, 31, 0⟩
abbrev PRESS_CNT_NOTSYNC_COUNT : Fld := ⟨R.PRESS_CNT_NOTSYNC, 31, 0⟩
abbrev PRESS_CNT_SUBST_COUNT : Fld := ⟨R.PRESS_CNT_SUBST, 31, 0⟩
abbrev PRESS_CNT_INVALID_COUNT : Fld := ⟨R.PRESS_CNT_INVALID, 31, 0⟩
abbrev PRESS_CNT_PARITY_FIX_COUNT : Fld := ⟨R.PRESS_CNT_PARITY_FIX, 31, 0⟩
abbrev PRESS_CNT_PARITY_LOST_COUNT : Fld := ⟨R.PRESS_CNT_PARITY_LOST, 31, 0⟩
abbrev PRESS_CNT_SEAL_COUNT : Fld := ⟨R.PRESS_CNT_SEAL, 31, 0⟩
abbrev PRESS_CNT_EXP_SKIP_COUNT : Fld := ⟨R.PRESS_CNT_EXP_SKIP, 31, 0⟩
abbrev PRESS_CNT_PORT_REFUSED_COUNT : Fld := ⟨R.PRESS_CNT_PORT_REFUSED, 31, 0⟩
abbrev ROTA_CNT_DISPATCH_COUNT : Fld := ⟨R.ROTA_CNT_DISPATCH, 31, 0⟩
abbrev ROTA_CNT_INGRESS_COUNT : Fld := ⟨R.ROTA_CNT_INGRESS, 31, 0⟩
abbrev ROTA_CNT_POST_COUNT : Fld := ⟨R.ROTA_CNT_POST, 31, 0⟩
abbrev ROTA_CNT_PLACE_AFFINE_COUNT : Fld := ⟨R.ROTA_CNT_PLACE_AFFINE, 31, 0⟩
abbrev ROTA_CNT_PLACE_CLUSTER_COUNT : Fld := ⟨R.ROTA_CNT_PLACE_CLUSTER, 31, 0⟩
abbrev ROTA_CNT_PLACE_BYRE_COUNT : Fld := ⟨R.ROTA_CNT_PLACE_BYRE, 31, 0⟩
abbrev ROTA_CNT_DONE_OK_COUNT : Fld := ⟨R.ROTA_CNT_DONE_OK, 31, 0⟩
abbrev ROTA_CNT_DONE_FAIL_COUNT : Fld := ⟨R.ROTA_CNT_DONE_FAIL, 31, 0⟩
abbrev ROTA_CNT_BUDGET_COUNT : Fld := ⟨R.ROTA_CNT_BUDGET, 31, 0⟩
abbrev ROTA_CNT_WITHDRAWN_COUNT : Fld := ⟨R.ROTA_CNT_WITHDRAWN, 31, 0⟩
abbrev ROTA_CNT_TERMINATED_COUNT : Fld := ⟨R.ROTA_CNT_TERMINATED, 31, 0⟩
abbrev ROTA_CNT_FULL_STALL_COUNT : Fld := ⟨R.ROTA_CNT_FULL_STALL, 31, 0⟩
abbrev ROTA_CNT_ING_HOLD_COUNT : Fld := ⟨R.ROTA_CNT_ING_HOLD, 31, 0⟩
abbrev ROTA_CNT_ING_BADOP_COUNT : Fld := ⟨R.ROTA_CNT_ING_BADOP, 31, 0⟩
abbrev ROTA_CNT_POST_DROP_COUNT : Fld := ⟨R.ROTA_CNT_POST_DROP, 31, 0⟩
abbrev ROTA_CNT_PRED_MISSING_COUNT : Fld := ⟨R.ROTA_CNT_PRED_MISSING, 31, 0⟩
abbrev ROTA_CNT_REL_TICK_COUNT : Fld := ⟨R.ROTA_CNT_REL_TICK, 31, 0⟩
abbrev ROTA_CNT_REL_REPEAT_COUNT : Fld := ⟨R.ROTA_CNT_REL_REPEAT, 31, 0⟩
abbrev ROTA_CNT_RECOMPUTE_COUNT : Fld := ⟨R.ROTA_CNT_RECOMPUTE, 31, 0⟩
abbrev ROTA_ENG_CNT_ISSUE_COUNT (i : Nat) : Fld := ⟨R.ROTA_ENG_CNT_ISSUE i, 31, 0⟩
abbrev ROTA_ENG_CNT_BUBBLE_COUNT (i : Nat) : Fld := ⟨R.ROTA_ENG_CNT_BUBBLE i, 31, 0⟩
abbrev ROTA_ENG_CNT_OPS_COUNT (i : Nat) : Fld := ⟨R.ROTA_ENG_CNT_OPS i, 31, 0⟩
abbrev ROTA_ENG_CNT_TRAP_COUNT (i : Nat) : Fld := ⟨R.ROTA_ENG_CNT_TRAP i, 31, 0⟩
abbrev ROTA_CNT_AUTH_PASS_COUNT : Fld := ⟨R.ROTA_CNT_AUTH_PASS, 31, 0⟩
abbrev ROTA_CNT_AUTH_NOEXT_COUNT : Fld := ⟨R.ROTA_CNT_AUTH_NOEXT, 31, 0⟩
abbrev ROTA_CNT_AUTH_KEYID_COUNT : Fld := ⟨R.ROTA_CNT_AUTH_KEYID, 31, 0⟩
abbrev ROTA_CNT_AUTH_ALG_COUNT : Fld := ⟨R.ROTA_CNT_AUTH_ALG, 31, 0⟩
abbrev ROTA_CNT_AUTH_TAG_COUNT : Fld := ⟨R.ROTA_CNT_AUTH_TAG, 31, 0⟩
abbrev ROTA_CNT_AUTH_SLOT_COUNT : Fld := ⟨R.ROTA_CNT_AUTH_SLOT, 31, 0⟩
abbrev ROTA_CNT_AUTH_QFULL_COUNT : Fld := ⟨R.ROTA_CNT_AUTH_QFULL, 31, 0⟩
abbrev ROTA_CNT_AUTH_UNAVAIL_COUNT : Fld := ⟨R.ROTA_CNT_AUTH_UNAVAIL, 31, 0⟩
abbrev ROTA_CNT_KEY_PARITY_FIX_COUNT : Fld := ⟨R.ROTA_CNT_KEY_PARITY_FIX, 31, 0⟩
abbrev ROTA_CNT_KEY_PARITY_LOST_COUNT : Fld := ⟨R.ROTA_CNT_KEY_PARITY_LOST, 31, 0⟩
abbrev ROTA_CNT_CP_POISON_COUNT : Fld := ⟨R.ROTA_CNT_CP_POISON, 31, 0⟩
abbrev PAIL_CNT_FALLBACK_COUNT : Fld := ⟨R.PAIL_CNT_FALLBACK, 31, 0⟩
abbrev PAIL_CNT_EMPTY_COUNT : Fld := ⟨R.PAIL_CNT_EMPTY, 31, 0⟩
abbrev PAIL_CNT_QUOTA_COUNT : Fld := ⟨R.PAIL_CNT_QUOTA, 31, 0⟩
abbrev PAIL_CNT_DOUBLE_FREE_COUNT : Fld := ⟨R.PAIL_CNT_DOUBLE_FREE, 31, 0⟩
abbrev PAIL_CNT_BAD_FREE_COUNT : Fld := ⟨R.PAIL_CNT_BAD_FREE, 31, 0⟩
abbrev PAIL_CNT_LINK_PARITY_COUNT : Fld := ⟨R.PAIL_CNT_LINK_PARITY, 31, 0⟩
abbrev PAIL_CNT_REBUILD_COUNT : Fld := ⟨R.PAIL_CNT_REBUILD, 31, 0⟩
abbrev PAIL_CNT_DATA_PARITY_COUNT : Fld := ⟨R.PAIL_CNT_DATA_PARITY, 31, 0⟩
abbrev PAIL_CNT_TX_PARITY_COUNT : Fld := ⟨R.PAIL_CNT_TX_PARITY, 31, 0⟩
abbrev VAT_CNT_HANDOVER_COUNT : Fld := ⟨R.VAT_CNT_HANDOVER, 31, 0⟩
abbrev VAT_CNT_HANDOVER_REPLACE_COUNT : Fld := ⟨R.VAT_CNT_HANDOVER_REPLACE, 31, 0⟩
abbrev VAT_CNT_HANDOVER_REFUSED_COUNT : Fld := ⟨R.VAT_CNT_HANDOVER_REFUSED, 31, 0⟩
abbrev VAT_CNT_COLL_COUNT : Fld := ⟨R.VAT_CNT_COLL, 31, 0⟩
abbrev TNK_CNT_DONE_COUNT (i : Nat) : Fld := ⟨R.TNK_CNT_DONE i, 31, 0⟩
abbrev TNK_CNT_ERR_COUNT (i : Nat) : Fld := ⟨R.TNK_CNT_ERR i, 31, 0⟩
abbrev TNK_CNT_ABORT_COUNT (i : Nat) : Fld := ⟨R.TNK_CNT_ABORT i, 31, 0⟩
abbrev TNK_CNT_SKIP_COUNT (i : Nat) : Fld := ⟨R.TNK_CNT_SKIP i, 31, 0⟩
abbrev TNK_CNT_ABANDON_COUNT (i : Nat) : Fld := ⟨R.TNK_CNT_ABANDON i, 31, 0⟩
abbrev TNK_CNT_ARM_REFUSED_COUNT (i : Nat) : Fld := ⟨R.TNK_CNT_ARM_REFUSED i, 31, 0⟩
abbrev TNK_CNT_REREAD_COUNT (i : Nat) : Fld := ⟨R.TNK_CNT_REREAD i, 31, 0⟩
abbrev LOCK_CNT_DENIED_COUNT : Fld := ⟨R.LOCK_CNT_DENIED, 31, 0⟩
abbrev LOCK_CNT_SPOOF_COUNT : Fld := ⟨R.LOCK_CNT_SPOOF, 31, 0⟩
abbrev LOCK_CNT_BAD_RELEASE_COUNT : Fld := ⟨R.LOCK_CNT_BAD_RELEASE, 31, 0⟩
abbrev LOCK_CNT_ORPHAN_COUNT : Fld := ⟨R.LOCK_CNT_ORPHAN, 31, 0⟩
abbrev CAL_CNT_RES_CONFLICT_COUNT : Fld := ⟨R.CAL_CNT_RES_CONFLICT, 31, 0⟩
abbrev CAL_CNT_RES_DISCARD_COUNT : Fld := ⟨R.CAL_CNT_RES_DISCARD, 31, 0⟩
abbrev CAL_CNT_CAL_FULL_COUNT : Fld := ⟨R.CAL_CNT_CAL_FULL, 31, 0⟩
abbrev CAL_CNT_CAL_EMPTY_COUNT : Fld := ⟨R.CAL_CNT_CAL_EMPTY, 31, 0⟩
abbrev CAL_CNT_CAL_MISMATCH_COUNT : Fld := ⟨R.CAL_CNT_CAL_MISMATCH, 31, 0⟩
abbrev CAL_CNT_CAL_REPLACE_COUNT : Fld := ⟨R.CAL_CNT_CAL_REPLACE, 31, 0⟩
abbrev CAL_CNT_PIN_LATE_COUNT : Fld := ⟨R.CAL_CNT_PIN_LATE, 31, 0⟩
abbrev CAL_CNT_CAP_DROP_COUNT : Fld := ⟨R.CAL_CNT_CAP_DROP, 31, 0⟩
abbrev CAL_CNT_PUB_STATE_COUNT : Fld := ⟨R.CAL_CNT_PUB_STATE, 31, 0⟩
abbrev CAL_CNT_PUB_SAME_COUNT : Fld := ⟨R.CAL_CNT_PUB_SAME, 31, 0⟩
abbrev CAL_CNT_PUB_RETX_COUNT : Fld := ⟨R.CAL_CNT_PUB_RETX, 31, 0⟩
abbrev CAL_CNT_PUB_RETX_SKIP_COUNT : Fld := ⟨R.CAL_CNT_PUB_RETX_SKIP, 31, 0⟩
abbrev CAL_CNT_PUB_BAD_COUNT : Fld := ⟨R.CAL_CNT_PUB_BAD, 31, 0⟩
abbrev CAL_CNT_SUB_EXPIRED_COUNT : Fld := ⟨R.CAL_CNT_SUB_EXPIRED, 31, 0⟩
abbrev CAL_CNT_SUB_RECOVER_COUNT : Fld := ⟨R.CAL_CNT_SUB_RECOVER, 31, 0⟩
abbrev CAL_CNT_SUB_STALE_COUNT : Fld := ⟨R.CAL_CNT_SUB_STALE, 31, 0⟩
abbrev CAL_CNT_SUB_CONFREV_COUNT : Fld := ⟨R.CAL_CNT_SUB_CONFREV, 31, 0⟩
abbrev CAL_CNT_SUB_PARSE_COUNT : Fld := ⟨R.CAL_CNT_SUB_PARSE, 31, 0⟩
abbrev TUG_CNT_ROUTE_DROP_COUNT : Fld := ⟨R.TUG_CNT_ROUTE_DROP, 31, 0⟩
abbrev TUG_CNT_HOP_DROP_COUNT : Fld := ⟨R.TUG_CNT_HOP_DROP, 31, 0⟩
abbrev TUG_CNT_HERD_DROP_COUNT : Fld := ⟨R.TUG_CNT_HERD_DROP, 31, 0⟩
abbrev TUG_CNT_BAD_CAN_COUNT : Fld := ⟨R.TUG_CNT_BAD_CAN, 31, 0⟩
abbrev TUG_CNT_CTL_DROP_COUNT : Fld := ⟨R.TUG_CNT_CTL_DROP, 31, 0⟩
abbrev TUG_CNT_SHARE_UNKNOWN_COUNT : Fld := ⟨R.TUG_CNT_SHARE_UNKNOWN, 31, 0⟩
abbrev TUG_CNT_SHARE_BAD_COUNT : Fld := ⟨R.TUG_CNT_SHARE_BAD, 31, 0⟩
abbrev TUG_CNT_SHARE_REPEAT_COUNT : Fld := ⟨R.TUG_CNT_SHARE_REPEAT, 31, 0⟩
abbrev TUG_CNT_SHARE_LATE_COUNT : Fld := ⟨R.TUG_CNT_SHARE_LATE, 31, 0⟩
abbrev TUG_CNT_SHARE_EARLY_COUNT : Fld := ⟨R.TUG_CNT_SHARE_EARLY, 31, 0⟩
abbrev TUG_CNT_RX_NOPAIL_COUNT : Fld := ⟨R.TUG_CNT_RX_NOPAIL, 31, 0⟩
abbrev TUG_CNT_TUN_QFULL_COUNT : Fld := ⟨R.TUG_CNT_TUN_QFULL, 31, 0⟩
abbrev TUG_CNT_TUN_TAG_COUNT : Fld := ⟨R.TUG_CNT_TUN_TAG, 31, 0⟩
abbrev TUG_CNT_TUN_REPLAY_COUNT : Fld := ⟨R.TUG_CNT_TUN_REPLAY, 31, 0⟩
abbrev TUG_CNT_TUN_FORMAT_COUNT : Fld := ⟨R.TUG_CNT_TUN_FORMAT, 31, 0⟩
abbrev TUG_CNT_TUN_TIME_COUNT : Fld := ⟨R.TUG_CNT_TUN_TIME, 31, 0⟩
abbrev TUG_LINK_CNT_TX_CANS_COUNT (i : Nat) : Fld := ⟨R.TUG_LINK_CNT_TX_CANS i, 31, 0⟩
abbrev TUG_LINK_CNT_RX_CANS_COUNT (i : Nat) : Fld := ⟨R.TUG_LINK_CNT_RX_CANS i, 31, 0⟩
abbrev TUG_LINK_CNT_CRC_ERR_COUNT (i : Nat) : Fld := ⟨R.TUG_LINK_CNT_CRC_ERR i, 31, 0⟩
abbrev TUG_LINK_CNT_SEQ_DISCARD_COUNT (i : Nat) : Fld := ⟨R.TUG_LINK_CNT_SEQ_DISCARD i, 31, 0⟩
abbrev TUG_LINK_CNT_RETRY_COUNT (i : Nat) : Fld := ⟨R.TUG_LINK_CNT_RETRY i, 31, 0⟩
abbrev TUG_LINK_CNT_CAN_LOST_COUNT (i : Nat) : Fld := ⟨R.TUG_LINK_CNT_CAN_LOST i, 31, 0⟩
abbrev TUG_LINK_CNT_DOWN_LOST_COUNT (i : Nat) : Fld := ⟨R.TUG_LINK_CNT_DOWN_LOST i, 31, 0⟩
abbrev TUG_LINK_CNT_CREDIT_VIOL_COUNT (i : Nat) : Fld := ⟨R.TUG_LINK_CNT_CREDIT_VIOL i, 31, 0⟩
abbrev TUG_LINK_CNT_TIME_MISMATCH_COUNT (i : Nat) : Fld := ⟨R.TUG_LINK_CNT_TIME_MISMATCH i, 31, 0⟩
abbrev TUG_LINK_CNT_ECHO_COUNT (i : Nat) : Fld := ⟨R.TUG_LINK_CNT_ECHO i, 31, 0⟩
abbrev TUG_LINK_CNT_DLY_BAD_COUNT (i : Nat) : Fld := ⟨R.TUG_LINK_CNT_DLY_BAD i, 31, 0⟩
abbrev DRAM_CNT_CHECK_FAIL_COUNT : Fld := ⟨R.DRAM_CNT_CHECK_FAIL, 31, 0⟩
abbrev DRAM_CNT_RMW_POISON_COUNT : Fld := ⟨R.DRAM_CNT_RMW_POISON, 31, 0⟩
abbrev DRAM_CNT_NBR_COUNT : Fld := ⟨R.DRAM_CNT_NBR, 31, 0⟩
abbrev DRAM_CNT_TRAIN_COUNT : Fld := ⟨R.DRAM_CNT_TRAIN, 31, 0⟩
abbrev DRAM_CNT_PANIC_COUNT : Fld := ⟨R.DRAM_CNT_PANIC, 31, 0⟩
abbrev DRAM_CNT_REC_OVF_COUNT : Fld := ⟨R.DRAM_CNT_REC_OVF, 31, 0⟩
abbrev DRAM_CNT_REC_TRUNC_COUNT : Fld := ⟨R.DRAM_CNT_REC_TRUNC, 31, 0⟩
abbrev DRAM_CNT_REC_SKIP_COUNT : Fld := ⟨R.DRAM_CNT_REC_SKIP, 31, 0⟩
abbrev DRAM_CNT_LATE_DROP_COUNT : Fld := ⟨R.DRAM_CNT_LATE_DROP, 31, 0⟩
abbrev DRAM_CNT_TRIG_EXTEND_COUNT : Fld := ⟨R.DRAM_CNT_TRIG_EXTEND, 31, 0⟩
abbrev DRAM_CNT_TRIG_LOST_COUNT : Fld := ⟨R.DRAM_CNT_TRIG_LOST, 31, 0⟩
abbrev CHURN_CNT_TRANSIENT_COUNT : Fld := ⟨R.CHURN_CNT_TRANSIENT, 31, 0⟩
abbrev CHURN_CNT_LASTING_COUNT : Fld := ⟨R.CHURN_CNT_LASTING, 31, 0⟩
abbrev CHURN_CNT_CONSERVE_COUNT : Fld := ⟨R.CHURN_CNT_CONSERVE, 31, 0⟩
abbrev CHURN_CNT_DATA_PARITY_COUNT : Fld := ⟨R.CHURN_CNT_DATA_PARITY, 31, 0⟩
abbrev CHURN_CNT_BAD_WITHDRAW_COUNT : Fld := ⟨R.CHURN_CNT_BAD_WITHDRAW, 31, 0⟩
abbrev AON_CNT_CRM_RESET_COUNT : Fld := ⟨R.AON_CNT_CRM_RESET, 31, 0⟩
abbrev AON_CNT_PFAIL_COUNT : Fld := ⟨R.AON_CNT_PFAIL, 31, 0⟩
abbrev AON_CNT_PWR_REFUSED_COUNT : Fld := ⟨R.AON_CNT_PWR_REFUSED, 31, 0⟩
abbrev AON_CNT_VREQ_TIMEOUT_COUNT : Fld := ⟨R.AON_CNT_VREQ_TIMEOUT, 31, 0⟩
abbrev AON_CNT_BYRE_RST_COUNT (i : Nat) : Fld := ⟨R.AON_CNT_BYRE_RST i, 31, 0⟩
abbrev CRM_MB_DOORBELL_ABORT (i : Nat) : Fld := ⟨R.CRM_MB_DOORBELL i, 2, 2⟩
abbrev CRM_MB_DOORBELL_ACK (i : Nat) : Fld := ⟨R.CRM_MB_DOORBELL i, 1, 1⟩
abbrev CRM_MB_DOORBELL_RING (i : Nat) : Fld := ⟨R.CRM_MB_DOORBELL i, 0, 0⟩
abbrev CRM_MB_STATUS_SEQ_LAST (i : Nat) : Fld := ⟨R.CRM_MB_STATUS i, 31, 16⟩
abbrev CRM_MB_STATUS_ABORT_LATE (i : Nat) : Fld := ⟨R.CRM_MB_STATUS i, 9, 9⟩
abbrev CRM_MB_STATUS_RING_LOST (i : Nat) : Fld := ⟨R.CRM_MB_STATUS i, 8, 8⟩
abbrev CRM_MB_STATUS_STATE (i : Nat) : Fld := ⟨R.CRM_MB_STATUS i, 1, 0⟩
abbrev CRM_MB_CFG_IRQ_EN (i : Nat) : Fld := ⟨R.CRM_MB_CFG i, 0, 0⟩
abbrev CRM_EVQ_WR_WR : Fld := ⟨R.CRM_EVQ_WR, 7, 0⟩
abbrev CRM_EVQ_RD_RD : Fld := ⟨R.CRM_EVQ_RD, 7, 0⟩
abbrev CRM_EVQ_CFG_IRQ_EN : Fld := ⟨R.CRM_EVQ_CFG, 0, 0⟩
abbrev CRM_EVQ_CNT_DROP_COUNT : Fld := ⟨R.CRM_EVQ_CNT_DROP, 31, 0⟩
abbrev CRM_EXP_CFG_EN (i : Nat) : Fld := ⟨R.CRM_EXP_CFG i, 31, 31⟩
abbrev CRM_EXP_CFG_ERR (i : Nat) : Fld := ⟨R.CRM_EXP_CFG i, 30, 30⟩
abbrev CRM_EXP_CFG_BYRE (i : Nat) : Fld := ⟨R.CRM_EXP_CFG i, 18, 16⟩
abbrev CRM_EXP_CFG_STREAM (i : Nat) : Fld := ⟨R.CRM_EXP_CFG i, 15, 8⟩
abbrev CRM_EXP_CFG_SIZE_LOG2 (i : Nat) : Fld := ⟨R.CRM_EXP_CFG i, 3, 0⟩
abbrev CRM_EXP_BASE_LO_BASE (i : Nat) : Fld := ⟨R.CRM_EXP_BASE_LO i, 31, 0⟩
abbrev CRM_EXP_BASE_HI_BASE (i : Nat) : Fld := ⟨R.CRM_EXP_BASE_HI i, 31, 0⟩
abbrev CRM_EXP_TAIL_TAIL (i : Nat) : Fld := ⟨R.CRM_EXP_TAIL i, 11, 0⟩
abbrev CRM_EXP_HEAD_HEAD (i : Nat) : Fld := ⟨R.CRM_EXP_HEAD i, 11, 0⟩
abbrev CRM_EXP_COAL_COAL_N (i : Nat) : Fld := ⟨R.CRM_EXP_COAL i, 31, 16⟩
abbrev CRM_EXP_COAL_COAL_US (i : Nat) : Fld := ⟨R.CRM_EXP_COAL i, 15, 0⟩
abbrev CRM_EXP_CNT_UNBOUND_COUNT : Fld := ⟨R.CRM_EXP_CNT_UNBOUND, 31, 0⟩
abbrev CRM_EXP_CNT_DONE_COUNT (i : Nat) : Fld := ⟨R.CRM_EXP_CNT_DONE i, 31, 0⟩
abbrev CRM_EXP_CNT_TRUNC_COUNT (i : Nat) : Fld := ⟨R.CRM_EXP_CNT_TRUNC i, 31, 0⟩
abbrev CRM_EXP_CNT_SKIP_COUNT (i : Nat) : Fld := ⟨R.CRM_EXP_CNT_SKIP i, 31, 0⟩
abbrev CRM_EXP_CNT_NODESC_COUNT (i : Nat) : Fld := ⟨R.CRM_EXP_CNT_NODESC i, 31, 0⟩
abbrev ROTA_RSV_FLAG_RSV_WR : Fld := ⟨R.ROTA_RSV_FLAG, 0, 0⟩
abbrev ROTA_RSV_ADDR_ADDR : Fld := ⟨R.ROTA_RSV_ADDR, 31, 0⟩
abbrev SKIM_RSV_FLAG_RSV_WR : Fld := ⟨R.SKIM_RSV_FLAG, 0, 0⟩
abbrev SKIM_RSV_ADDR_ADDR : Fld := ⟨R.SKIM_RSV_ADDR, 31, 0⟩
abbrev EMU_RSV_FLAG_RSV_WR : Fld := ⟨R.EMU_RSV_FLAG, 0, 0⟩
abbrev EMU_RSV_ADDR_ADDR : Fld := ⟨R.EMU_RSV_ADDR, 31, 0⟩
abbrev PRESS_RSV_FLAG_RSV_WR : Fld := ⟨R.PRESS_RSV_FLAG, 0, 0⟩
abbrev PRESS_RSV_ADDR_ADDR : Fld := ⟨R.PRESS_RSV_ADDR, 31, 0⟩
abbrev PAIL_RSV_FLAG_RSV_WR : Fld := ⟨R.PAIL_RSV_FLAG, 0, 0⟩
abbrev PAIL_RSV_ADDR_ADDR : Fld := ⟨R.PAIL_RSV_ADDR, 31, 0⟩
abbrev VAT_RSV_FLAG_RSV_WR : Fld := ⟨R.VAT_RSV_FLAG, 0, 0⟩
abbrev VAT_RSV_ADDR_ADDR : Fld := ⟨R.VAT_RSV_ADDR, 31, 0⟩
abbrev TNK_RSV_FLAG_RSV_WR : Fld := ⟨R.TNK_RSV_FLAG, 0, 0⟩
abbrev TNK_RSV_ADDR_ADDR : Fld := ⟨R.TNK_RSV_ADDR, 31, 0⟩
abbrev LOCK_RSV_FLAG_RSV_WR : Fld := ⟨R.LOCK_RSV_FLAG, 0, 0⟩
abbrev LOCK_RSV_ADDR_ADDR : Fld := ⟨R.LOCK_RSV_ADDR, 31, 0⟩
abbrev CAL_RSV_FLAG_RSV_WR : Fld := ⟨R.CAL_RSV_FLAG, 0, 0⟩
abbrev CAL_RSV_ADDR_ADDR : Fld := ⟨R.CAL_RSV_ADDR, 31, 0⟩
abbrev DRAM_RSV_FLAG_RSV_WR : Fld := ⟨R.DRAM_RSV_FLAG, 0, 0⟩
abbrev DRAM_RSV_ADDR_ADDR : Fld := ⟨R.DRAM_RSV_ADDR, 31, 0⟩
abbrev TUG_RSV_FLAG_RSV_WR : Fld := ⟨R.TUG_RSV_FLAG, 0, 0⟩
abbrev TUG_RSV_ADDR_ADDR : Fld := ⟨R.TUG_RSV_ADDR, 31, 0⟩
abbrev AON_RSV_FLAG_RSV_WR : Fld := ⟨R.AON_RSV_FLAG, 0, 0⟩
abbrev AON_RSV_ADDR_ADDR : Fld := ⟨R.AON_RSV_ADDR, 31, 0⟩
abbrev AON_PWR_STATE_CRM_DOM1 : Fld := ⟨R.AON_PWR_STATE_CRM, 3, 2⟩
abbrev AON_PWR_STATE_CRM_DOM0 : Fld := ⟨R.AON_PWR_STATE_CRM, 1, 0⟩
abbrev SW_CREDIT_LINK_FREE (i : Nat) : Fld := ⟨R.SW_CREDIT_LINK i, 26, 16⟩
abbrev SW_CREDIT_LINK_TOTAL (i : Nat) : Fld := ⟨R.SW_CREDIT_LINK i, 10, 0⟩
abbrev CRM_TNK_SH_DATA (i : Nat) (j : Nat) : Fld := ⟨R.CRM_TNK_SH i j, 31, 0⟩
abbrev CRM_TNK_LIVE_DATA (i : Nat) (j : Nat) : Fld := ⟨R.CRM_TNK_LIVE i j, 31, 0⟩
abbrev CRM_TNK_CTRL_DISABLE (i : Nat) : Fld := ⟨R.CRM_TNK_CTRL i, 31, 31⟩
abbrev CRM_TNK_CTRL_ABORT (i : Nat) : Fld := ⟨R.CRM_TNK_CTRL i, 2, 2⟩
abbrev CRM_TNK_CTRL_DOORBELL (i : Nat) : Fld := ⟨R.CRM_TNK_CTRL i, 1, 1⟩
abbrev CRM_TNK_CTRL_ARM (i : Nat) : Fld := ⟨R.CRM_TNK_CTRL i, 0, 0⟩
abbrev CRM_TNK_STATUS_ERR_CODE (i : Nat) : Fld := ⟨R.CRM_TNK_STATUS i, 15, 12⟩
abbrev CRM_TNK_STATUS_SH_BUSY (i : Nat) : Fld := ⟨R.CRM_TNK_STATUS i, 10, 10⟩
abbrev CRM_TNK_STATUS_DONE (i : Nat) : Fld := ⟨R.CRM_TNK_STATUS i, 9, 9⟩
abbrev CRM_TNK_STATUS_LATE (i : Nat) : Fld := ⟨R.CRM_TNK_STATUS i, 8, 8⟩
abbrev CRM_TNK_STATUS_HELD (i : Nat) : Fld := ⟨R.CRM_TNK_STATUS i, 6, 5⟩
abbrev CRM_TNK_STATUS_SH_ARMED (i : Nat) : Fld := ⟨R.CRM_TNK_STATUS i, 4, 4⟩
abbrev CRM_TNK_STATUS_STATE (i : Nat) : Fld := ⟨R.CRM_TNK_STATUS i, 2, 0⟩
abbrev CRM_TNK_LATCH_OFFSET (i : Nat) : Fld := ⟨R.CRM_TNK_LATCH i, 23, 0⟩
abbrev CRM_TNK_TAKEN_COUNT (i : Nat) : Fld := ⟨R.CRM_TNK_TAKEN i, 31, 0⟩
abbrev CRM_TNK_RETURNED_COUNT (i : Nat) : Fld := ⟨R.CRM_TNK_RETURNED i, 31, 0⟩
abbrev CRM_TNK_CNT_DONE_COUNT (i : Nat) : Fld := ⟨R.CRM_TNK_CNT_DONE i, 31, 0⟩
abbrev CRM_TNK_CNT_ERR_COUNT (i : Nat) : Fld := ⟨R.CRM_TNK_CNT_ERR i, 31, 0⟩
abbrev CRM_TNK_CNT_ABORT_COUNT (i : Nat) : Fld := ⟨R.CRM_TNK_CNT_ABORT i, 31, 0⟩
abbrev CRM_TNK_CNT_SKIP_COUNT (i : Nat) : Fld := ⟨R.CRM_TNK_CNT_SKIP i, 31, 0⟩
abbrev CRM_TNK_CNT_ABANDON_COUNT (i : Nat) : Fld := ⟨R.CRM_TNK_CNT_ABANDON i, 31, 0⟩
abbrev CRM_TNK_CNT_ARM_REFUSED_COUNT (i : Nat) : Fld := ⟨R.CRM_TNK_CNT_ARM_REFUSED i, 31, 0⟩
abbrev CRM_TNK_CNT_REREAD_COUNT (i : Nat) : Fld := ⟨R.CRM_TNK_CNT_REREAD i, 31, 0⟩
abbrev CRM_LOCK_ACQ_DENIED (i : Nat) : Fld := ⟨R.CRM_LOCK_ACQ i, 31, 31⟩
abbrev CRM_LOCK_ACQ_ORPHAN (i : Nat) : Fld := ⟨R.CRM_LOCK_ACQ i, 17, 17⟩
abbrev CRM_LOCK_ACQ_HELD (i : Nat) : Fld := ⟨R.CRM_LOCK_ACQ i, 16, 16⟩
abbrev CRM_LOCK_ACQ_OWNER (i : Nat) : Fld := ⟨R.CRM_LOCK_ACQ i, 8, 0⟩
abbrev CRM_LOCK_REL_RELEASE (i : Nat) : Fld := ⟨R.CRM_LOCK_REL i, 31, 0⟩
abbrev CRM_LOCK_GRP_RIGHTS_MASTERS (i : Nat) : Fld := ⟨R.CRM_LOCK_GRP_RIGHTS i, 2, 0⟩
end F

/-- The registers of the BYx_CHURN_ block, part 1. -/
def byreRegsCHURN_0 : List RegD := [
  ⟨0xC00000, [], [⟨0, 0, .rw, 0, fun _ => true⟩]⟩,
  ⟨0xC00004, [], [⟨12, 12, .ro, 0, fun _ => true⟩, ⟨11, 10, .ro, 0, fun _ => true⟩, ⟨9, 7, .ro, 0, fun _ => true⟩, ⟨6, 6, .ro, 0, fun _ => true⟩, ⟨5, 5, .ro, 0, fun _ => true⟩, ⟨4, 4, .ro, 0, fun _ => true⟩, ⟨3, 3, .ro, 0, fun _ => true⟩, ⟨2, 0, .ro, 0, fun _ => true⟩]⟩,
  ⟨0xC00008, [], [⟨0, 0, .w1s, 0, fun _ => true⟩]⟩,
  ⟨0xC0000C, [], [⟨31, 16, .ro, 0, fun _ => true⟩, ⟨13, 0, .ro, 0, fun _ => true⟩]⟩,
  ⟨0xC00010, [], [⟨23, 16, .ro, 0, fun _ => true⟩, ⟨11, 0, .ro, 0, fun _ => true⟩]⟩,
  ⟨0xC00014, [], [⟨31, 0, .rw, 0, fun _ => true⟩]⟩,
  ⟨0xC00018, [], [⟨13, 0, .rw, 0, fun _ => true⟩]⟩,
  ⟨0xC0001C, [], [⟨1, 1, .wo, 0, fun _ => true⟩, ⟨0, 0, .wo, 0, fun _ => true⟩]⟩,
  ⟨0xC00020, [], [⟨31, 16, .ro, 0, fun _ => true⟩, ⟨7, 4, .ro, 0, fun _ => true⟩, ⟨3, 3, .w1c, 0, fun _ => true⟩, ⟨2, 2, .w1c, 0, fun _ => true⟩, ⟨1, 1, .w1c, 0, fun _ => true⟩]⟩,
  ⟨0xC00024, [], [⟨31, 16, .ro, 0, fun _ => true⟩, ⟨15, 0, .ro, 0, fun _ => true⟩]⟩,
  ⟨0xC00028, [], [⟨31, 0, .ro, 0, fun _ => true⟩]⟩,
  ⟨0xC0002C, [], [⟨13, 0, .ro, 0, fun _ => true⟩]⟩,
  ⟨0xC00030, [], [⟨31, 0, .ro, 0, fun _ => true⟩]⟩,
  ⟨0xC00034, [], [⟨31, 0, .ro, 0, fun _ => true⟩]⟩,
  ⟨0xC00038, [], [⟨31, 0, .rc, 0, fun _ => true⟩]⟩,
  ⟨0xC0003C, [], [⟨31, 31, .ro, 0, fun _ => true⟩, ⟨3, 0, .ro, 0, fun _ => true⟩]⟩,
  ⟨0xC00040, [], [⟨31, 0, .ro, 0, fun _ => true⟩]⟩,
  ⟨0xC00044, [], [⟨31, 0, .ro, 0, fun _ => true⟩]⟩,
  ⟨0xC00070, [], [⟨0, 0, .w1c, 0, fun _ => true⟩]⟩,
  ⟨0xC00074, [], [⟨31, 0, .ro, 0, fun _ => true⟩]⟩,
  ⟨0xC00400, [(256, 0x4)], [⟨31, 31, .rw, 0, fun _ => true⟩, ⟨11, 0, .rw, 0, fun _ => true⟩]⟩,
  ⟨0xC00048, [], [⟨31, 31, .ro, 0, fun _ => true⟩, ⟨30, 30, .ro, 0, fun _ => true⟩, ⟨29, 29, .ro, 0, fun _ => true⟩, ⟨19, 16, .ro, 0, fun _ => true⟩, ⟨7, 4, .ro, 0, fun _ => true⟩, ⟨3, 0, .ro, 1, fun _ => true⟩]⟩,
  ⟨0xC0004C, [], [⟨31, 0, .ro, 0, fun _ => true⟩]⟩,
  ⟨0xC00050, [], [⟨15, 0, .ro, 0, fun _ => true⟩]⟩]

/-- The registers of the BYx_CHURN_ block, part 2. -/
def byreRegsCHURN_1 : List RegD := [
  ⟨0xC00054, [], [⟨31, 31, .w1c, 0, fun _ => true⟩, ⟨30, 28, .ro, 0, fun _ => true⟩, ⟨21, 16, .ro, 0, fun _ => true⟩, ⟨15, 0, .ro, 0, fun _ => true⟩]⟩,
  ⟨0xC00058, [], [⟨31, 0, .ro, 0, fun _ => true⟩]⟩,
  ⟨0xC0005C, [], [⟨31, 31, .w1c, 0, fun _ => true⟩, ⟨27, 24, .ro, 0, fun _ => true⟩, ⟨23, 0, .ro, 0, fun _ => true⟩]⟩,
  ⟨0xC00060, [], [⟨31, 0, .ro, 0, fun _ => true⟩]⟩,
  ⟨0xC00080, [], [⟨31, 0, .ro, 0, fun _ => true⟩]⟩,
  ⟨0xC00084, [], [⟨31, 0, .ro, 0, fun _ => true⟩]⟩,
  ⟨0xC00088, [], [⟨31, 0, .ro, 0, fun _ => true⟩]⟩,
  ⟨0xC0008C, [], [⟨31, 0, .ro, 0, fun _ => true⟩]⟩,
  ⟨0xC00090, [], [⟨31, 0, .ro, 0, fun _ => true⟩]⟩,
  ⟨0xC00094, [], [⟨31, 0, .ro, 0, fun _ => true⟩]⟩,
  ⟨0xC00098, [], [⟨31, 0, .ro, 0, fun _ => true⟩]⟩,
  ⟨0xC0009C, [], [⟨31, 0, .ro, 0, fun _ => true⟩]⟩,
  ⟨0xC000A0, [], [⟨31, 0, .ro, 0, fun _ => true⟩]⟩,
  ⟨0xC000A4, [], [⟨31, 0, .ro, 0, fun _ => true⟩]⟩,
  ⟨0xC000A8, [], [⟨31, 0, .ro, 0, fun _ => true⟩]⟩,
  ⟨0xC000AC, [], [⟨31, 0, .ro, 0, fun _ => true⟩]⟩,
  ⟨0xC000B0, [], [⟨31, 0, .ro, 0, fun _ => true⟩]⟩,
  ⟨0xC000B4, [], [⟨31, 0, .ro, 0, fun _ => true⟩]⟩,
  ⟨0xC000B8, [], [⟨31, 0, .ro, 0, fun _ => true⟩]⟩]

/-- The registers of the BYx_CHURN_ block. -/
def byreRegsCHURN_ : List RegD := byreRegsCHURN_0 ++ byreRegsCHURN_1

/-- The registers of the BYx_ROTA_ block, part 1. -/
def byreRegsROTA_0 : List RegD := [
  ⟨0xC10000, [], [⟨11, 0, .rw, 0x400, fun v => v ≤ 4080⟩]⟩,
  ⟨0xC10004, [], [⟨31, 31, .ro, 0, fun _ => true⟩, ⟨30, 30, .ro, 0, fun _ => true⟩, ⟨29, 29, .ro, 0, fun _ => true⟩, ⟨28, 16, .ro, 0, fun _ => true⟩, ⟨12, 0, .ro, 0, fun _ => true⟩]⟩,
  ⟨0xC10008, [], [⟨28, 16, .ro, 0, fun _ => true⟩, ⟨12, 0, .ro, 0x1000, fun _ => true⟩]⟩,
  ⟨0xC10010, [], [⟨31, 31, .wo, 0, fun _ => true⟩, ⟨30, 30, .rw, 0, fun _ => true⟩, ⟨29, 29, .rw, 0, fun _ => true⟩, ⟨9, 0, .rw, 0, fun _ => true⟩]⟩,
  ⟨0xC10014, [], [⟨31, 31, .ro, 0, fun _ => true⟩, ⟨3, 0, .ro, 0, fun _ => true⟩]⟩,
  ⟨0xC10020, [(4, 0x4)], [⟨31, 0, .rw, 0, fun _ => true⟩]⟩,
  ⟨0xC10040, [], [⟨28, 24, .rw, 0, fun _ => true⟩, ⟨16, 2, .rw, 0, fun _ => true⟩]⟩,
  ⟨0xC10044, [], [⟨31, 0, .rw, 0, fun _ => true⟩]⟩,
  ⟨0xC10048, [], [⟨0, 0, .w1c, 0, fun _ => true⟩]⟩,
  ⟨0xC11000, [(32, 0x100)], [⟨31, 31, .wo, 0, fun _ => true⟩, ⟨30, 30, .wo, 0, fun _ => true⟩]⟩,
  ⟨0xC11004, [(32, 0x100)], [⟨15, 0, .rw, 0, fun _ => true⟩]⟩,
  ⟨0xC11008, [(32, 0x100)], [⟨31, 29, .ro, 0, fun _ => true⟩, ⟨28, 28, .ro, 0, fun _ => true⟩, ⟨23, 16, .ro, 0, fun _ => true⟩, ⟨15, 8, .ro, 0, fun _ => true⟩, ⟨7, 0, .ro, 0, fun _ => true⟩]⟩,
  ⟨0xC1100C, [(32, 0x100)], [⟨3, 3, .rw, 0, fun _ => true⟩, ⟨7, 7, .rw, 0, fun _ => true⟩, ⟨11, 11, .rw, 0, fun _ => true⟩, ⟨15, 15, .rw, 0, fun _ => true⟩, ⟨19, 19, .rw, 0, fun _ => true⟩, ⟨23, 23, .rw, 0, fun _ => true⟩, ⟨27, 27, .rw, 0, fun _ => true⟩, ⟨31, 31, .rw, 0, fun _ => true⟩, ⟨2, 0, .rw, 0, fun _ => true⟩, ⟨6, 4, .rw, 1, fun _ => true⟩, ⟨10, 8, .rw, 2, fun _ => true⟩, ⟨14, 12, .rw, 3, fun _ => true⟩, ⟨18, 16, .rw, 4, fun _ => true⟩, ⟨22, 20, .rw, 5, fun _ => true⟩, ⟨26, 24, .rw, 6, fun _ => true⟩, ⟨30, 28, .rw, 7, fun _ => true⟩]⟩,
  ⟨0xC11010, [(32, 0x100)], [⟨3, 3, .rw, 0, fun _ => true⟩, ⟨7, 7, .rw, 0, fun _ => true⟩, ⟨11, 11, .rw, 0, fun _ => true⟩, ⟨15, 15, .rw, 0, fun _ => true⟩, ⟨19, 19, .rw, 0, fun _ => true⟩, ⟨23, 23, .rw, 0, fun _ => true⟩, ⟨27, 27, .rw, 0, fun _ => true⟩, ⟨31, 31, .rw, 0, fun _ => true⟩, ⟨2, 0, .rw, 0, fun _ => true⟩, ⟨6, 4, .rw, 1, fun _ => true⟩, ⟨10, 8, .rw, 2, fun _ => true⟩, ⟨14, 12, .rw, 3, fun _ => true⟩, ⟨18, 16, .rw, 4, fun _ => true⟩, ⟨22, 20, .rw, 5, fun _ => true⟩, ⟨26, 24, .rw, 6, fun _ => true⟩, ⟨30, 28, .rw, 7, fun _ => true⟩]⟩,
  ⟨0xC11014, [(32, 0x100)], [⟨3, 3, .rw, 0, fun _ => true⟩, ⟨2, 0, .rw, 0, fun _ => true⟩]⟩,
  ⟨0xC11018, [(32, 0x100)], [⟨31, 31, .w1c, 0, fun _ => true⟩, ⟨10, 8, .ro, 0, fun _ => true⟩, ⟨7, 0, .ro, 0, fun _ => true⟩]⟩,
  ⟨0xC11020, [(32, 0x100), (8, 0x4)], [⟨31, 16, .ro, 0xFFFF, fun _ => true⟩, ⟨3, 0, .ro, 0, fun _ => true⟩]⟩,
  ⟨0xC11040, [(32, 0x100), (8, 0x4)], [⟨31, 0, .ro, 0, fun _ => true⟩]⟩,
  ⟨0xC14000, [], [⟨31, 0, .rw, 0xFFFFFFFF, fun _ => true⟩]⟩,
  ⟨0xC14004, [], [⟨3, 0, .rw, 0xF, fun _ => true⟩]⟩,
  ⟨0xC14010, [], [⟨31, 31, .wo, 0, fun _ => true⟩, ⟨30, 29, .rw, 0, fun _ => true⟩, ⟨28, 28, .rw, 0, fun _ => true⟩, ⟨27, 27, .rw, 0, fun _ => true⟩, ⟨7, 0, .rw, 0, fun v => v < 255⟩]⟩,
  ⟨0xC14014, [], [⟨31, 31, .ro, 0, fun _ => true⟩, ⟨3, 0, .ro, 0, fun _ => true⟩]⟩,
  ⟨0xC14018, [], [⟨31, 0, .rw, 0, fun _ => true⟩]⟩,
  ⟨0xC1401C, [], [⟨31, 0, .rw, 0, fun _ => true⟩]⟩]

/-- The registers of the BYx_ROTA_ block, part 2. -/
def byreRegsROTA_1 : List RegD := [
  ⟨0xC14020, [], [⟨31, 0, .rw, 0, fun _ => true⟩]⟩,
  ⟨0xC14024, [], [⟨23, 0, .ro, 0, fun _ => true⟩]⟩,
  ⟨0xC14028, [], [⟨23, 0, .ro, 0, fun _ => true⟩]⟩,
  ⟨0xC14030, [], [⟨19, 16, .ro, 0, fun _ => true⟩, ⟨14, 8, .ro, 0, fun _ => true⟩, ⟨0, 0, .ro, 0, fun _ => true⟩]⟩,
  ⟨0xC14034, [], [⟨31, 31, .w1c, 0, fun _ => true⟩, ⟨27, 24, .ro, 0, fun _ => true⟩, ⟨23, 23, .ro, 0, fun _ => true⟩, ⟨22, 22, .ro, 0, fun _ => true⟩, ⟨20, 16, .ro, 0, fun _ => true⟩, ⟨11, 0, .ro, 0, fun _ => true⟩]⟩,
  ⟨0xC14040, [(8, 0x4)], [⟨31, 0, .wo, 0, fun _ => true⟩]⟩,
  ⟨0xC10080, [], [⟨31, 0, .ro, 0, fun _ => true⟩]⟩,
  ⟨0xC10084, [], [⟨31, 0, .ro, 0, fun _ => true⟩]⟩,
  ⟨0xC10088, [], [⟨31, 0, .ro, 0, fun _ => true⟩]⟩,
  ⟨0xC1008C, [], [⟨31, 0, .ro, 0, fun _ => true⟩]⟩,
  ⟨0xC10090, [], [⟨31, 0, .ro, 0, fun _ => true⟩]⟩,
  ⟨0xC10094, [], [⟨31, 0, .ro, 0, fun _ => true⟩]⟩,
  ⟨0xC10098, [], [⟨31, 0, .ro, 0, fun _ => true⟩]⟩,
  ⟨0xC1009C, [], [⟨31, 0, .ro, 0, fun _ => true⟩]⟩,
  ⟨0xC100A0, [], [⟨31, 0, .ro, 0, fun _ => true⟩]⟩,
  ⟨0xC100A4, [], [⟨31, 0, .ro, 0, fun _ => true⟩]⟩,
  ⟨0xC100A8, [], [⟨31, 0, .ro, 0, fun _ => true⟩]⟩,
  ⟨0xC100AC, [], [⟨31, 0, .ro, 0, fun _ => true⟩]⟩,
  ⟨0xC100B0, [], [⟨31, 0, .ro, 0, fun _ => true⟩]⟩,
  ⟨0xC100B4, [], [⟨31, 0, .ro, 0, fun _ => true⟩]⟩,
  ⟨0xC100B8, [], [⟨31, 0, .ro, 0, fun _ => true⟩]⟩,
  ⟨0xC100BC, [], [⟨31, 0, .ro, 0, fun _ => true⟩]⟩,
  ⟨0xC100C0, [], [⟨31, 0, .ro, 0, fun _ => true⟩]⟩,
  ⟨0xC100C4, [], [⟨31, 0, .ro, 0, fun _ => true⟩]⟩]

/-- The registers of the BYx_ROTA_ block, part 3. -/
def byreRegsROTA_2 : List RegD := [
  ⟨0xC100C8, [], [⟨31, 0, .ro, 0, fun _ => true⟩]⟩,
  ⟨0xC11080, [(32, 0x100)], [⟨31, 0, .ro, 0, fun _ => true⟩]⟩,
  ⟨0xC11084, [(32, 0x100)], [⟨31, 0, .ro, 0, fun _ => true⟩]⟩,
  ⟨0xC11088, [(32, 0x100)], [⟨31, 0, .ro, 0, fun _ => true⟩]⟩,
  ⟨0xC1108C, [(32, 0x100)], [⟨31, 0, .ro, 0, fun _ => true⟩]⟩,
  ⟨0xC14080, [], [⟨31, 0, .ro, 0, fun _ => true⟩]⟩,
  ⟨0xC14084, [], [⟨31, 0, .ro, 0, fun _ => true⟩]⟩,
  ⟨0xC14088, [], [⟨31, 0, .ro, 0, fun _ => true⟩]⟩,
  ⟨0xC1408C, [], [⟨31, 0, .ro, 0, fun _ => true⟩]⟩,
  ⟨0xC14090, [], [⟨31, 0, .ro, 0, fun _ => true⟩]⟩,
  ⟨0xC14094, [], [⟨31, 0, .ro, 0, fun _ => true⟩]⟩,
  ⟨0xC14098, [], [⟨31, 0, .ro, 0, fun _ => true⟩]⟩,
  ⟨0xC1409C, [], [⟨31, 0, .ro, 0, fun _ => true⟩]⟩,
  ⟨0xC140A0, [], [⟨31, 0, .ro, 0, fun _ => true⟩]⟩,
  ⟨0xC140A4, [], [⟨31, 0, .ro, 0, fun _ => true⟩]⟩,
  ⟨0xC140A8, [], [⟨31, 0, .ro, 0, fun _ => true⟩]⟩,
  ⟨0xC10070, [], [⟨0, 0, .w1c, 0, fun _ => true⟩]⟩,
  ⟨0xC10074, [], [⟨31, 0, .ro, 0, fun _ => true⟩]⟩]

/-- The registers of the BYx_ROTA_ block. -/
def byreRegsROTA_ : List RegD := byreRegsROTA_0 ++ byreRegsROTA_1 ++ byreRegsROTA_2

/-- The registers of the BYx_SW_ block, part 1. -/
def byreRegsSW_0 : List RegD := [
  ⟨0xC20000, [], [⟨31, 16, .rw, 0xA, fun v => v != 0⟩, ⟨15, 0, .rw, 0xA, fun v => v != 0⟩]⟩,
  ⟨0xC20004, [], [⟨15, 0, .rw, 0x190, fun v => v != 0⟩]⟩,
  ⟨0xC20008, [], [⟨31, 31, .rw, 0, fun _ => true⟩, ⟨30, 30, .rw, 0, fun _ => true⟩, ⟨29, 29, .rw, 0, fun _ => true⟩, ⟨28, 28, .rw, 0, fun _ => true⟩, ⟨27, 24, .rw, 0xF, fun _ => true⟩, ⟨20, 16, .rw, 4, fun _ => true⟩]⟩,
  ⟨0xC2000C, [], [⟨31, 0, .rw, 0, fun _ => true⟩]⟩,
  ⟨0xC20010, [], [⟨23, 0, .ro, 0, fun _ => true⟩]⟩,
  ⟨0xC20014, [], [⟨23, 0, .ro, 0, fun _ => true⟩]⟩,
  ⟨0xC20070, [], [⟨0, 0, .w1c, 0, fun _ => true⟩]⟩,
  ⟨0xC20074, [], [⟨31, 0, .ro, 0, fun _ => true⟩]⟩,
  ⟨0xC20100, [(28, 0x4)], [⟨26, 16, .ro, 0x100, fun _ => true⟩, ⟨10, 0, .rw, 0x100, fun _ => true⟩]⟩,
  ⟨0xC20180, [(11, 0x4)], [⟨31, 30, .rw, 0, fun v => v != 3⟩, ⟨29, 28, .rw, 0, fun v => v != 3⟩, ⟨27, 24, .rw, 0, fun v => v < 11⟩, ⟨20, 16, .rw, 0, fun v => v < 22⟩, ⟨12, 8, .rw, 0, fun v => v < 22⟩, ⟨4, 0, .rw, 0, fun v => v < 22⟩]⟩,
  ⟨0xC21000, [(24, 0x100)], [⟨31, 31, .rw, 0, fun _ => true⟩, ⟨30, 30, .rw, 1, fun _ => true⟩, ⟨29, 27, .rw, 0, fun _ => true⟩, ⟨26, 26, .rw, 0, fun _ => true⟩, ⟨25, 24, .rw, 2, fun v => v != 3⟩, ⟨23, 12, .rw, 0x5F2, fun v => 64 ≤ v && v ≤ 2048⟩, ⟨7, 0, .rw, 0x40, fun v => v != 0⟩]⟩,
  ⟨0xC21004, [(24, 0x100)], [⟨7, 7, .w1c, 0, fun _ => true⟩, ⟨6, 6, .ro, 0, fun _ => true⟩, ⟨5, 5, .ro, 0, fun _ => true⟩, ⟨4, 4, .ro, 0, fun _ => true⟩, ⟨3, 2, .ro, 0, fun _ => true⟩, ⟨1, 1, .ro, 0, fun _ => true⟩, ⟨0, 0, .ro, 0, fun _ => true⟩]⟩,
  ⟨0xC21008, [(24, 0x100)], [⟨23, 0, .rw, 0x3030, fun _ => true⟩]⟩,
  ⟨0xC2100C, [(24, 0x100)], [⟨31, 24, .rw, 0x20, fun v => v != 0⟩, ⟨23, 16, .rw, 0x20, fun v => v != 0⟩, ⟨15, 8, .rw, 0x20, fun v => v != 0⟩, ⟨7, 0, .rw, 0x20, fun v => v != 0⟩]⟩,
  ⟨0xC21010, [(24, 0x100)], [⟨31, 24, .rw, 0x20, fun v => v != 0⟩, ⟨23, 16, .rw, 0x20, fun v => v != 0⟩, ⟨15, 8, .rw, 0x20, fun v => v != 0⟩, ⟨7, 0, .rw, 0x20, fun v => v != 0⟩]⟩,
  ⟨0xC21014, [(24, 0x100)], [⟨31, 16, .rw, 0, fun _ => true⟩, ⟨15, 0, .rw, 0, fun _ => true⟩]⟩,
  ⟨0xC20080, [], [⟨31, 0, .ro, 0, fun _ => true⟩]⟩,
  ⟨0xC20084, [], [⟨31, 0, .ro, 0, fun _ => true⟩]⟩,
  ⟨0xC20088, [], [⟨31, 0, .ro, 0, fun _ => true⟩]⟩,
  ⟨0xC2008C, [], [⟨31, 0, .ro, 0, fun _ => true⟩]⟩,
  ⟨0xC21040, [(24, 0x100)], [⟨31, 0, .ro, 0, fun _ => true⟩]⟩,
  ⟨0xC21044, [(24, 0x100)], [⟨31, 0, .ro, 0, fun _ => true⟩]⟩,
  ⟨0xC21048, [(24, 0x100)], [⟨31, 0, .ro, 0, fun _ => true⟩]⟩,
  ⟨0xC2104C, [(24, 0x100)], [⟨31, 0, .ro, 0, fun _ => true⟩]⟩]

/-- The registers of the BYx_SW_ block, part 2. -/
def byreRegsSW_1 : List RegD := [
  ⟨0xC21050, [(24, 0x100)], [⟨31, 0, .ro, 0, fun _ => true⟩]⟩,
  ⟨0xC21054, [(24, 0x100)], [⟨31, 0, .ro, 0, fun _ => true⟩]⟩,
  ⟨0xC21058, [(24, 0x100)], [⟨31, 0, .ro, 0, fun _ => true⟩]⟩,
  ⟨0xC2105C, [(24, 0x100)], [⟨31, 0, .ro, 0, fun _ => true⟩]⟩,
  ⟨0xC21060, [(24, 0x100)], [⟨31, 0, .ro, 0, fun _ => true⟩]⟩,
  ⟨0xC21064, [(24, 0x100)], [⟨31, 0, .ro, 0, fun _ => true⟩]⟩,
  ⟨0xC21068, [(24, 0x100)], [⟨31, 0, .ro, 0, fun _ => true⟩]⟩,
  ⟨0xC2106C, [(24, 0x100)], [⟨31, 0, .ro, 0, fun _ => true⟩]⟩,
  ⟨0xC21070, [(24, 0x100)], [⟨31, 0, .ro, 0, fun _ => true⟩]⟩,
  ⟨0xC21074, [(24, 0x100)], [⟨31, 0, .ro, 0, fun _ => true⟩]⟩,
  ⟨0xC21078, [(24, 0x100)], [⟨31, 0, .ro, 0, fun _ => true⟩]⟩,
  ⟨0xC2107C, [(24, 0x100)], [⟨31, 0, .ro, 0, fun _ => true⟩]⟩,
  ⟨0xC21080, [(24, 0x100)], [⟨31, 0, .ro, 0, fun _ => true⟩]⟩,
  ⟨0xC21084, [(24, 0x100)], [⟨31, 0, .ro, 0, fun _ => true⟩]⟩,
  ⟨0xC21088, [(24, 0x100)], [⟨31, 0, .ro, 0, fun _ => true⟩]⟩,
  ⟨0xC2108C, [(24, 0x100)], [⟨31, 0, .ro, 0, fun _ => true⟩]⟩,
  ⟨0xC210C0, [(24, 0x100), (8, 0x4)], [⟨31, 0, .ro, 0, fun _ => true⟩]⟩,
  ⟨0xC20170, [(4, 0x4)], [⟨26, 16, .ro, 0, fun _ => true⟩, ⟨10, 0, .rw, 0, fun _ => true⟩]⟩]

/-- The registers of the BYx_SW_ block. -/
def byreRegsSW_ : List RegD := byreRegsSW_0 ++ byreRegsSW_1

/-- The registers of the BYx_SKIM_ block, part 1. -/
def byreRegsSKIM_0 : List RegD := [
  ⟨0xC30000, [], [⟨1, 1, .rw, 1, fun _ => true⟩, ⟨0, 0, .ro, 0, fun _ => true⟩]⟩,
  ⟨0xC30004, [], [⟨7, 0, .rw, 0x32, fun v => v != 0⟩]⟩,
  ⟨0xC30008, [], [⟨27, 0, .rw, 0, fun _ => true⟩]⟩,
  ⟨0xC30010, [], [⟨31, 31, .wo, 0, fun _ => true⟩, ⟨30, 29, .rw, 0, fun v => v != 3⟩, ⟨28, 28, .rw, 0, fun _ => true⟩, ⟨11, 0, .rw, 0, fun _ => true⟩]⟩,
  ⟨0xC30100, [(10, 0x4)], [⟨31, 0, .rw, 0, fun _ => true⟩]⟩,
  ⟨0xC30140, [(10, 0x4)], [⟨31, 0, .rw, 0, fun _ => true⟩]⟩,
  ⟨0xC30180, [(3, 0x4)], [⟨31, 0, .rw, 0, fun _ => true⟩]⟩,
  ⟨0xC30190, [(2, 0x10), (3, 0x4)], [⟨31, 0, .rw, 0, fun _ => true⟩]⟩,
  ⟨0xC30080, [], [⟨31, 0, .ro, 0, fun _ => true⟩]⟩,
  ⟨0xC30084, [], [⟨31, 0, .ro, 0, fun _ => true⟩]⟩,
  ⟨0xC30088, [], [⟨31, 0, .ro, 0, fun _ => true⟩]⟩,
  ⟨0xC3008C, [], [⟨31, 0, .ro, 0, fun _ => true⟩]⟩,
  ⟨0xC30090, [], [⟨31, 0, .ro, 0, fun _ => true⟩]⟩,
  ⟨0xC30094, [], [⟨31, 0, .ro, 0, fun _ => true⟩]⟩,
  ⟨0xC30098, [], [⟨31, 0, .ro, 0, fun _ => true⟩]⟩,
  ⟨0xC3009C, [], [⟨31, 0, .ro, 0, fun _ => true⟩]⟩,
  ⟨0xC300A0, [], [⟨31, 0, .ro, 0, fun _ => true⟩]⟩,
  ⟨0xC300A4, [], [⟨31, 0, .ro, 0, fun _ => true⟩]⟩,
  ⟨0xC30070, [], [⟨0, 0, .w1c, 0, fun _ => true⟩]⟩,
  ⟨0xC30074, [], [⟨31, 0, .ro, 0, fun _ => true⟩]⟩]

/-- The registers of the BYx_SKIM_ block. -/
def byreRegsSKIM_ : List RegD := byreRegsSKIM_0

/-- The registers of the BYx_EMU_ block, part 1. -/
def byreRegsEMU_0 : List RegD := [
  ⟨0xC40000, [], [⟨31, 31, .rw, 0, fun _ => true⟩, ⟨14, 0, .rw, 0x4B00, fun v => v != 0⟩]⟩,
  ⟨0xC40004, [], [⟨13, 0, .rw, 0, fun _ => true⟩]⟩,
  ⟨0xC40008, [], [⟨31, 31, .wo, 0, fun _ => true⟩, ⟨30, 28, .rw, 0, fun v => v < 5⟩, ⟨16, 0, .rw, 0, fun v => v < 66560⟩]⟩,
  ⟨0xC4000C, [], [⟨31, 31, .ro, 0, fun _ => true⟩, ⟨24, 8, .ro, 0, fun _ => true⟩, ⟨3, 0, .ro, 0, fun _ => true⟩]⟩,
  ⟨0xC40010, [], [⟨10, 0, .ro, 0, fun _ => true⟩]⟩,
  ⟨0xC40020, [(8, 0x4)], [⟨31, 0, .rw, 0, fun _ => true⟩]⟩,
  ⟨0xC40040, [], [⟨31, 0, .ro, 0, fun _ => true⟩]⟩,
  ⟨0xC40044, [], [⟨15, 0, .ro, 0, fun _ => true⟩, ⟨27, 16, .ro, 0, fun _ => true⟩]⟩,
  ⟨0xC40048, [], [⟨4, 0, .ro, 0, fun _ => true⟩, ⟨6, 5, .ro, 0, fun _ => true⟩, ⟨31, 31, .w1c, 0, fun _ => true⟩]⟩,
  ⟨0xC40200, [(22, 0x8)], [⟨31, 31, .rw, 0, fun _ => true⟩, ⟨26, 16, .rw, 0x40, fun v => v != 0⟩, ⟨12, 0, .rw, 0x400, fun _ => true⟩]⟩,
  ⟨0xC40204, [(22, 0x8)], [⟨12, 0, .ro, 0, fun _ => true⟩]⟩,
  ⟨0xC40080, [], [⟨31, 0, .ro, 0, fun _ => true⟩]⟩,
  ⟨0xC40084, [], [⟨31, 0, .ro, 0, fun _ => true⟩]⟩,
  ⟨0xC40088, [], [⟨31, 0, .ro, 0, fun _ => true⟩]⟩,
  ⟨0xC4008C, [], [⟨31, 0, .ro, 0, fun _ => true⟩]⟩,
  ⟨0xC40090, [], [⟨31, 0, .ro, 0, fun _ => true⟩]⟩,
  ⟨0xC40094, [], [⟨31, 0, .ro, 0, fun _ => true⟩]⟩,
  ⟨0xC40098, [], [⟨31, 0, .ro, 0, fun _ => true⟩]⟩,
  ⟨0xC4009C, [], [⟨31, 0, .ro, 0, fun _ => true⟩]⟩,
  ⟨0xC400A0, [], [⟨31, 0, .ro, 0, fun _ => true⟩]⟩,
  ⟨0xC400A4, [], [⟨31, 0, .ro, 0, fun _ => true⟩]⟩,
  ⟨0xC400A8, [], [⟨31, 0, .ro, 0, fun _ => true⟩]⟩,
  ⟨0xC400AC, [], [⟨31, 0, .ro, 0, fun _ => true⟩]⟩,
  ⟨0xC400B0, [], [⟨31, 0, .ro, 0, fun _ => true⟩]⟩]

/-- The registers of the BYx_EMU_ block, part 2. -/
def byreRegsEMU_1 : List RegD := [
  ⟨0xC400B4, [], [⟨31, 0, .ro, 0, fun _ => true⟩]⟩,
  ⟨0xC400B8, [], [⟨31, 0, .ro, 0, fun _ => true⟩]⟩,
  ⟨0xC40070, [], [⟨0, 0, .w1c, 0, fun _ => true⟩]⟩,
  ⟨0xC40074, [], [⟨31, 0, .ro, 0, fun _ => true⟩]⟩]

/-- The registers of the BYx_EMU_ block. -/
def byreRegsEMU_ : List RegD := byreRegsEMU_0 ++ byreRegsEMU_1

/-- The registers of the BYx_PRESS_ block, part 1. -/
def byreRegsPRESS_0 : List RegD := [
  ⟨0xC50000, [], [⟨1, 1, .rw, 1, fun _ => true⟩, ⟨0, 0, .ro, 0, fun _ => true⟩]⟩,
  ⟨0xC50004, [], [⟨15, 12, .ro, 0, fun _ => true⟩, ⟨7, 7, .ro, 0, fun _ => true⟩, ⟨6, 4, .ro, 0, fun _ => true⟩]⟩,
  ⟨0xC50010, [], [⟨31, 31, .wo, 0, fun _ => true⟩, ⟨30, 30, .rw, 0, fun _ => true⟩, ⟨29, 29, .rw, 0, fun _ => true⟩, ⟨28, 27, .rw, 0, fun v => v != 3⟩, ⟨11, 0, .rw, 0, fun _ => true⟩]⟩,
  ⟨0xC50014, [], [⟨31, 31, .ro, 0, fun _ => true⟩, ⟨3, 0, .ro, 0, fun _ => true⟩]⟩,
  ⟨0xC50020, [(8, 0x4)], [⟨31, 0, .rw, 0, fun _ => true⟩]⟩,
  ⟨0xC50200, [(8, 0x10)], [⟨31, 0, .ro, 0, fun _ => true⟩]⟩,
  ⟨0xC50204, [(8, 0x10)], [⟨31, 31, .ro, 0, fun _ => true⟩, ⟨13, 0, .ro, 0, fun _ => true⟩]⟩,
  ⟨0xC50208, [(8, 0x10)], [⟨31, 16, .ro, 0, fun _ => true⟩, ⟨15, 0, .ro, 0, fun _ => true⟩]⟩,
  ⟨0xC5020C, [(8, 0x10)], [⟨31, 16, .ro, 0, fun _ => true⟩, ⟨1, 1, .ro, 0, fun _ => true⟩, ⟨0, 0, .ro, 0, fun _ => true⟩]⟩,
  ⟨0xC50080, [], [⟨31, 0, .ro, 0, fun _ => true⟩]⟩,
  ⟨0xC50084, [], [⟨31, 0, .ro, 0, fun _ => true⟩]⟩,
  ⟨0xC50088, [], [⟨31, 0, .ro, 0, fun _ => true⟩]⟩,
  ⟨0xC5008C, [], [⟨31, 0, .ro, 0, fun _ => true⟩]⟩,
  ⟨0xC50090, [], [⟨31, 0, .ro, 0, fun _ => true⟩]⟩,
  ⟨0xC50094, [], [⟨31, 0, .ro, 0, fun _ => true⟩]⟩,
  ⟨0xC50098, [], [⟨31, 0, .ro, 0, fun _ => true⟩]⟩,
  ⟨0xC5009C, [], [⟨31, 0, .ro, 0, fun _ => true⟩]⟩,
  ⟨0xC500A0, [], [⟨31, 0, .ro, 0, fun _ => true⟩]⟩,
  ⟨0xC500A4, [], [⟨31, 0, .ro, 0, fun _ => true⟩]⟩,
  ⟨0xC500A8, [], [⟨31, 0, .ro, 0, fun _ => true⟩]⟩,
  ⟨0xC500AC, [], [⟨31, 0, .ro, 0, fun _ => true⟩]⟩,
  ⟨0xC500B0, [], [⟨31, 0, .ro, 0, fun _ => true⟩]⟩,
  ⟨0xC500B4, [], [⟨31, 0, .ro, 0, fun _ => true⟩]⟩,
  ⟨0xC500B8, [], [⟨31, 0, .ro, 0, fun _ => true⟩]⟩]

/-- The registers of the BYx_PRESS_ block, part 2. -/
def byreRegsPRESS_1 : List RegD := [
  ⟨0xC500BC, [], [⟨31, 0, .ro, 0, fun _ => true⟩]⟩,
  ⟨0xC50070, [], [⟨0, 0, .w1c, 0, fun _ => true⟩]⟩,
  ⟨0xC50074, [], [⟨31, 0, .ro, 0, fun _ => true⟩]⟩]

/-- The registers of the BYx_PRESS_ block. -/
def byreRegsPRESS_ : List RegD := byreRegsPRESS_0 ++ byreRegsPRESS_1

/-- The registers of the BYx_PAIL_ block, part 1. -/
def byreRegsPAIL_0 : List RegD := [
  ⟨0xC60000, [(4, 0x10)], [⟨31, 31, .rw, 0, fun _ => true⟩, ⟨13, 8, .rw, 0, fun _ => true⟩, ⟨5, 0, .rw, 0, fun _ => true⟩]⟩,
  ⟨0xC60004, [(4, 0x10)], [⟨31, 31, .ro, 0, fun _ => true⟩, ⟨30, 30, .ro, 0, fun _ => true⟩, ⟨16, 0, .ro, 0, fun _ => true⟩]⟩,
  ⟨0xC60008, [(4, 0x10)], [⟨16, 0, .ro, 0, fun _ => true⟩]⟩,
  ⟨0xC60200, [(36, 0x8)], [⟨16, 0, .rw, 0x18000, fun _ => true⟩]⟩,
  ⟨0xC60204, [(36, 0x8)], [⟨16, 0, .ro, 0, fun _ => true⟩]⟩,
  ⟨0xC60040, [], [⟨31, 31, .w1c, 0, fun _ => true⟩, ⟨30, 30, .ro, 0, fun _ => true⟩, ⟨5, 0, .ro, 0, fun _ => true⟩]⟩,
  ⟨0xC60044, [], [⟨31, 0, .ro, 0, fun _ => true⟩]⟩,
  ⟨0xC60080, [], [⟨31, 0, .ro, 0, fun _ => true⟩]⟩,
  ⟨0xC60084, [], [⟨31, 0, .ro, 0, fun _ => true⟩]⟩,
  ⟨0xC60088, [], [⟨31, 0, .ro, 0, fun _ => true⟩]⟩,
  ⟨0xC6008C, [], [⟨31, 0, .ro, 0, fun _ => true⟩]⟩,
  ⟨0xC60090, [], [⟨31, 0, .ro, 0, fun _ => true⟩]⟩,
  ⟨0xC60094, [], [⟨31, 0, .ro, 0, fun _ => true⟩]⟩,
  ⟨0xC60098, [], [⟨31, 0, .ro, 0, fun _ => true⟩]⟩,
  ⟨0xC6009C, [], [⟨31, 0, .ro, 0, fun _ => true⟩]⟩,
  ⟨0xC600A0, [], [⟨31, 0, .ro, 0, fun _ => true⟩]⟩,
  ⟨0xC60070, [], [⟨0, 0, .w1c, 0, fun _ => true⟩]⟩,
  ⟨0xC60074, [], [⟨31, 0, .ro, 0, fun _ => true⟩]⟩]

/-- The registers of the BYx_PAIL_ block. -/
def byreRegsPAIL_ : List RegD := byreRegsPAIL_0

/-- The registers of the BYx_VAT_ block, part 1. -/
def byreRegsVAT_0 : List RegD := [
  ⟨0xC70000, [], [⟨5, 0, .ro, 0, fun _ => true⟩]⟩,
  ⟨0xC70008, [], [⟨31, 31, .w1c, 0, fun _ => true⟩, ⟨27, 27, .ro, 0, fun _ => true⟩, ⟨26, 22, .ro, 0, fun _ => true⟩, ⟨21, 16, .ro, 0, fun _ => true⟩, ⟨15, 8, .ro, 0, fun _ => true⟩, ⟨7, 0, .ro, 0, fun _ => true⟩]⟩,
  ⟨0xC70100, [(48, 0x4)], [⟨31, 31, .rw, 0, fun _ => true⟩, ⟨30, 30, .ro, 0, fun _ => true⟩, ⟨29, 29, .ro, 0, fun _ => true⟩, ⟨16, 16, .ro, 0, fun _ => true⟩, ⟨15, 8, .ro, 0, fun _ => true⟩, ⟨7, 0, .rw, 0x20, fun _ => true⟩]⟩,
  ⟨0xC70080, [], [⟨31, 0, .ro, 0, fun _ => true⟩]⟩,
  ⟨0xC70084, [], [⟨31, 0, .ro, 0, fun _ => true⟩]⟩,
  ⟨0xC70088, [], [⟨31, 0, .ro, 0, fun _ => true⟩]⟩,
  ⟨0xC7008C, [], [⟨31, 0, .ro, 0, fun _ => true⟩]⟩,
  ⟨0xC70070, [], [⟨0, 0, .w1c, 0, fun _ => true⟩]⟩,
  ⟨0xC70074, [], [⟨31, 0, .ro, 0, fun _ => true⟩]⟩]

/-- The registers of the BYx_VAT_ block. -/
def byreRegsVAT_ : List RegD := byreRegsVAT_0

/-- The registers of the BYx_TNK_ block, part 1. -/
def byreRegsTNK_0 : List RegD := [
  ⟨0xC81000, [(16, 0x100), (8, 0x4)], [⟨31, 0, .rw, 0, fun _ => true⟩]⟩,
  ⟨0xC81020, [(16, 0x100), (8, 0x4)], [⟨31, 0, .ro, 0, fun _ => true⟩]⟩,
  ⟨0xC81040, [(16, 0x100)], [⟨31, 31, .rw, 1, fun _ => true⟩, ⟨2, 2, .wo, 0, fun _ => true⟩, ⟨1, 1, .wo, 0, fun _ => true⟩, ⟨0, 0, .wo, 0, fun _ => true⟩]⟩,
  ⟨0xC81044, [(16, 0x100)], [⟨15, 12, .ro, 0, fun _ => true⟩, ⟨10, 10, .w1c, 0, fun _ => true⟩, ⟨9, 9, .w1c, 0, fun _ => true⟩, ⟨8, 8, .w1c, 0, fun _ => true⟩, ⟨6, 5, .ro, 0, fun _ => true⟩, ⟨4, 4, .ro, 0, fun _ => true⟩, ⟨2, 0, .ro, 4, fun _ => true⟩]⟩,
  ⟨0xC81048, [(16, 0x100)], [⟨23, 0, .ro, 0, fun _ => true⟩]⟩,
  ⟨0xC8104C, [(16, 0x100)], [⟨31, 0, .ro, 0, fun _ => true⟩]⟩,
  ⟨0xC81050, [(16, 0x100)], [⟨31, 0, .ro, 0, fun _ => true⟩]⟩,
  ⟨0xC81080, [(16, 0x100)], [⟨31, 0, .ro, 0, fun _ => true⟩]⟩,
  ⟨0xC81084, [(16, 0x100)], [⟨31, 0, .ro, 0, fun _ => true⟩]⟩,
  ⟨0xC81088, [(16, 0x100)], [⟨31, 0, .ro, 0, fun _ => true⟩]⟩,
  ⟨0xC8108C, [(16, 0x100)], [⟨31, 0, .ro, 0, fun _ => true⟩]⟩,
  ⟨0xC81090, [(16, 0x100)], [⟨31, 0, .ro, 0, fun _ => true⟩]⟩,
  ⟨0xC81094, [(16, 0x100)], [⟨31, 0, .ro, 0, fun _ => true⟩]⟩,
  ⟨0xC81098, [(16, 0x100)], [⟨31, 0, .ro, 0, fun _ => true⟩]⟩,
  ⟨0xC80070, [], [⟨0, 0, .w1c, 0, fun _ => true⟩]⟩,
  ⟨0xC80074, [], [⟨31, 0, .ro, 0, fun _ => true⟩]⟩]

/-- The registers of the BYx_TNK_ block. -/
def byreRegsTNK_ : List RegD := byreRegsTNK_0

/-- The registers of the BYx_LOCK_ block, part 1. -/
def byreRegsLOCK_0 : List RegD := [
  ⟨0xC90000, [(16, 0x4)], [⟨5, 0, .rw, 0x3F, fun _ => true⟩]⟩,
  ⟨0xC90040, [], [⟨31, 31, .w1c, 0, fun _ => true⟩, ⟨16, 9, .ro, 0, fun _ => true⟩, ⟨8, 0, .ro, 0, fun _ => true⟩]⟩,
  ⟨0xC90400, [(256, 0x4)], [⟨31, 31, .ro, 0, fun _ => true⟩, ⟨17, 17, .ro, 0, fun _ => true⟩, ⟨16, 16, .ro, 0, fun _ => true⟩, ⟨8, 0, .rw, 0, fun _ => true⟩]⟩,
  ⟨0xC90800, [(256, 0x4)], [⟨31, 0, .wo, 0, fun _ => true⟩]⟩,
  ⟨0xC90080, [], [⟨31, 0, .ro, 0, fun _ => true⟩]⟩,
  ⟨0xC90084, [], [⟨31, 0, .ro, 0, fun _ => true⟩]⟩,
  ⟨0xC90088, [], [⟨31, 0, .ro, 0, fun _ => true⟩]⟩,
  ⟨0xC9008C, [], [⟨31, 0, .ro, 0, fun _ => true⟩]⟩,
  ⟨0xC90070, [], [⟨0, 0, .w1c, 0, fun _ => true⟩]⟩,
  ⟨0xC90074, [], [⟨31, 0, .ro, 0, fun _ => true⟩]⟩]

/-- The registers of the BYx_LOCK_ block. -/
def byreRegsLOCK_ : List RegD := byreRegsLOCK_0

/-- The registers of the BYx_TIME_ block, part 1. -/
def byreRegsTIME_0 : List RegD := [
  ⟨0xCA0000, [], [⟨23, 16, .rw, 0, fun _ => true⟩, ⟨9, 9, .rw, 0, fun _ => true⟩, ⟨8, 8, .rw, 0, fun _ => true⟩, ⟨7, 7, .rw, 0, fun _ => true⟩, ⟨6, 5, .rw, 0, fun v => v != 3⟩, ⟨4, 0, .rw, 0, fun v => v < 22⟩]⟩,
  ⟨0xCA0004, [], [⟨9, 9, .ro, 0, fun _ => true⟩, ⟨8, 8, .ro, 0, fun _ => true⟩, ⟨7, 7, .w1c, 0, fun _ => true⟩, ⟨6, 6, .ro, 0, fun _ => true⟩, ⟨5, 5, .ro, 0, fun _ => true⟩, ⟨4, 4, .ro, 0, fun _ => true⟩, ⟨3, 3, .ro, 0, fun _ => true⟩, ⟨2, 2, .ro, 0, fun _ => true⟩, ⟨1, 0, .ro, 0, fun _ => true⟩]⟩,
  ⟨0xCA0008, [], [⟨31, 0, .ro, 0, fun _ => true⟩]⟩,
  ⟨0xCA000C, [], [⟨31, 16, .ro, 0, fun _ => true⟩, ⟨15, 0, .ro, 0, fun _ => true⟩]⟩,
  ⟨0xCA0010, [], [⟨31, 0, .ro, 0, fun _ => true⟩]⟩,
  ⟨0xCA0014, [], [⟨31, 0, .rw, 0, fun v => sgn32 v ≤ 2048000000 && -2048000000 ≤ sgn32 v⟩]⟩,
  ⟨0xCA0018, [], [⟨31, 0, .rw, 0, fun _ => true⟩]⟩,
  ⟨0xCA001C, [], [⟨31, 0, .rw, 0, fun v => sgn32 v ≤ 999999999 && -999999999 ≤ sgn32 v⟩]⟩,
  ⟨0xCA0020, [], [⟨31, 28, .rw, 8, fun v => v != 0⟩, ⟨27, 16, .rw, 0x64, fun _ => true⟩, ⟨15, 8, .rw, 0xA, fun v => v != 0⟩, ⟨7, 0, .rw, 0xA, fun v => v != 0⟩]⟩,
  ⟨0xCA0024, [], [⟨31, 30, .rw, 0, fun v => v != 3⟩, ⟨29, 29, .wo, 0, fun _ => true⟩, ⟨23, 0, .rw, 0, fun _ => true⟩]⟩,
  ⟨0xCA0028, [], [⟨15, 0, .rw, 0x64, fun v => v != 0⟩]⟩,
  ⟨0xCA002C, [], [⟨31, 0, .ro, 0xFFFFFFFF, fun _ => true⟩]⟩,
  ⟨0xCA0030, [], [⟨9, 8, .ro, 1, fun _ => true⟩, ⟨7, 0, .ro, 0x7F, fun _ => true⟩]⟩,
  ⟨0xCA0034, [], [⟨18, 18, .rw, 0, fun _ => true⟩, ⟨17, 17, .rw, 0, fun _ => true⟩, ⟨16, 16, .rw, 0, fun _ => true⟩, ⟨15, 0, .rw, 0, fun _ => true⟩]⟩,
  ⟨0xCA0038, [], [⟨13, 0, .ro, 0, fun _ => true⟩]⟩,
  ⟨0xCA003C, [], [⟨31, 0, .ro, 0, fun _ => true⟩]⟩,
  ⟨0xCA0040, [], [⟨13, 0, .ro, 0, fun _ => true⟩]⟩,
  ⟨0xCA0044, [], [⟨31, 31, .rw, 0, fun _ => true⟩, ⟨30, 30, .rw, 0, fun _ => true⟩, ⟨29, 29, .rw, 0, fun _ => true⟩, ⟨18, 0, .rw, 0x186A0, fun v => 1 ≤ v && v ≤ 500000⟩]⟩,
  ⟨0xCA0048, [], [⟨31, 0, .rw, 0, fun v => sgn32 v ≤ 1000000 && -1000000 ≤ sgn32 v⟩]⟩,
  ⟨0xCA004C, [], [⟨31, 31, .rw, 0, fun _ => true⟩, ⟨30, 30, .rw, 0, fun _ => true⟩, ⟨23, 0, .rw, 0x3E8, fun _ => true⟩]⟩,
  ⟨0xCA0050, [], [⟨31, 0, .ro, 0, fun _ => true⟩]⟩,
  ⟨0xCA0054, [], [⟨31, 0, .ro, 0, fun _ => true⟩]⟩,
  ⟨0xCA0058, [], [⟨31, 31, .ro, 0, fun _ => true⟩, ⟨30, 0, .ro, 0, fun _ => true⟩]⟩,
  ⟨0xCA005C, [], [⟨31, 0, .ro, 0, fun _ => true⟩]⟩]

/-- The registers of the BYx_TIME_ block, part 2. -/
def byreRegsTIME_1 : List RegD := [
  ⟨0xCA0060, [], [⟨31, 31, .ro, 0, fun _ => true⟩, ⟨30, 0, .ro, 0, fun _ => true⟩]⟩,
  ⟨0xCA0064, [], [⟨19, 0, .rw, 0, fun _ => true⟩]⟩,
  ⟨0xCA0068, [], [⟨19, 0, .rw, 0, fun _ => true⟩]⟩,
  ⟨0xCA006C, [], [⟨7, 3, .ro, 0, fun _ => true⟩, ⟨2, 0, .ro, 7, fun _ => true⟩]⟩,
  ⟨0xCA0070, [], [⟨0, 0, .w1c, 0, fun _ => true⟩]⟩,
  ⟨0xCA0074, [], [⟨31, 0, .ro, 0, fun _ => true⟩]⟩,
  ⟨0xCA0100, [(24, 0x8)], [⟨15, 0, .rw, 0, fun _ => true⟩]⟩,
  ⟨0xCA0104, [(24, 0x8)], [⟨15, 0, .rw, 0, fun _ => true⟩]⟩,
  ⟨0xCA0080, [], [⟨31, 0, .ro, 0, fun _ => true⟩]⟩,
  ⟨0xCA0084, [], [⟨31, 0, .ro, 0, fun _ => true⟩]⟩,
  ⟨0xCA0088, [], [⟨31, 0, .ro, 0, fun _ => true⟩]⟩,
  ⟨0xCA008C, [], [⟨31, 0, .ro, 0, fun _ => true⟩]⟩,
  ⟨0xCA0090, [], [⟨31, 0, .ro, 0, fun _ => true⟩]⟩,
  ⟨0xCA0094, [], [⟨31, 0, .ro, 0, fun _ => true⟩]⟩,
  ⟨0xCA0098, [], [⟨31, 0, .ro, 0, fun _ => true⟩]⟩,
  ⟨0xCA009C, [], [⟨31, 0, .ro, 0, fun _ => true⟩]⟩,
  ⟨0xCA00A0, [], [⟨31, 0, .ro, 0, fun _ => true⟩]⟩,
  ⟨0xCA00A4, [], [⟨31, 0, .ro, 0, fun _ => true⟩]⟩]

/-- The registers of the BYx_TIME_ block. -/
def byreRegsTIME_ : List RegD := byreRegsTIME_0 ++ byreRegsTIME_1

/-- The registers of the BYx_CAL_ block, part 1. -/
def byreRegsCAL_0 : List RegD := [
  ⟨0xCB0010, [], [⟨31, 31, .wo, 0, fun _ => true⟩, ⟨30, 29, .rw, 0, fun v => v != 3⟩, ⟨28, 28, .rw, 0, fun _ => true⟩, ⟨10, 0, .rw, 0, fun v => v < 256⟩]⟩,
  ⟨0xCB0018, [], [⟨31, 31, .wo, 0, fun _ => true⟩, ⟨30, 29, .rw, 0, fun v => v != 3⟩, ⟨28, 28, .rw, 0, fun _ => true⟩, ⟨10, 0, .rw, 0, fun _ => true⟩]⟩,
  ⟨0xCB0014, [], [⟨31, 31, .ro, 0, fun _ => true⟩, ⟨3, 0, .ro, 0, fun _ => true⟩]⟩,
  ⟨0xCB001C, [], [⟨31, 31, .ro, 0, fun _ => true⟩, ⟨3, 0, .ro, 0, fun _ => true⟩]⟩,
  ⟨0xCB0100, [(64, 0x4)], [⟨31, 0, .rw, 0, fun _ => true⟩]⟩,
  ⟨0xCB0040, [(4, 0x4)], [⟨31, 0, .rw, 0, fun _ => true⟩]⟩,
  ⟨0xCB0050, [], [⟨31, 31, .w1c, 0, fun _ => true⟩, ⟨5, 0, .ro, 0, fun _ => true⟩]⟩,
  ⟨0xCB0054, [], [⟨31, 0, .ro, 0, fun _ => true⟩]⟩,
  ⟨0xCB0058, [], [⟨31, 31, .ro, 0, fun _ => true⟩, ⟨20, 20, .ro, 0, fun _ => true⟩, ⟨19, 16, .ro, 0, fun _ => true⟩]⟩,
  ⟨0xCB005C, [], [⟨31, 0, .ro, 0, fun _ => true⟩]⟩,
  ⟨0xCB0060, [], [⟨31, 0, .ro, 0, fun _ => true⟩]⟩,
  ⟨0xCB0300, [(40, 0x4)], [⟨8, 0, .ro, 0, fun _ => true⟩]⟩,
  ⟨0xCB0400, [(16, 0x10)], [⟨31, 30, .rw, 0, fun v => v != 3⟩, ⟨29, 29, .rw, 0, fun _ => true⟩, ⟨28, 28, .rw, 0, fun _ => true⟩, ⟨27, 27, .rw, 0, fun _ => true⟩, ⟨26, 26, .rw, 0, fun _ => true⟩, ⟨25, 25, .rw, 0, fun _ => true⟩, ⟨19, 0, .rw, 0, fun _ => true⟩]⟩,
  ⟨0xCB0404, [(16, 0x10)], [⟨15, 0, .rw, 0, fun _ => true⟩]⟩,
  ⟨0xCB0408, [(16, 0x10)], [⟨15, 0, .rw, 0, fun _ => true⟩]⟩,
  ⟨0xCB040C, [(16, 0x10)], [⟨2, 2, .ro, 0, fun _ => true⟩, ⟨1, 1, .ro, 0, fun _ => true⟩, ⟨0, 0, .ro, 0, fun _ => true⟩]⟩,
  ⟨0xCB0080, [], [⟨31, 0, .ro, 0, fun _ => true⟩]⟩,
  ⟨0xCB0084, [], [⟨31, 0, .ro, 0, fun _ => true⟩]⟩,
  ⟨0xCB0088, [], [⟨31, 0, .ro, 0, fun _ => true⟩]⟩,
  ⟨0xCB008C, [], [⟨31, 0, .ro, 0, fun _ => true⟩]⟩,
  ⟨0xCB0090, [], [⟨31, 0, .ro, 0, fun _ => true⟩]⟩,
  ⟨0xCB0094, [], [⟨31, 0, .ro, 0, fun _ => true⟩]⟩,
  ⟨0xCB0098, [], [⟨31, 0, .ro, 0, fun _ => true⟩]⟩,
  ⟨0xCB009C, [], [⟨31, 0, .ro, 0, fun _ => true⟩]⟩]

/-- The registers of the BYx_CAL_ block, part 2. -/
def byreRegsCAL_1 : List RegD := [
  ⟨0xCB00A0, [], [⟨31, 0, .ro, 0, fun _ => true⟩]⟩,
  ⟨0xCB00A4, [], [⟨31, 0, .ro, 0, fun _ => true⟩]⟩,
  ⟨0xCB00A8, [], [⟨31, 0, .ro, 0, fun _ => true⟩]⟩,
  ⟨0xCB00AC, [], [⟨31, 0, .ro, 0, fun _ => true⟩]⟩,
  ⟨0xCB00B0, [], [⟨31, 0, .ro, 0, fun _ => true⟩]⟩,
  ⟨0xCB00B4, [], [⟨31, 0, .ro, 0, fun _ => true⟩]⟩,
  ⟨0xCB00B8, [], [⟨31, 0, .ro, 0, fun _ => true⟩]⟩,
  ⟨0xCB00BC, [], [⟨31, 0, .ro, 0, fun _ => true⟩]⟩,
  ⟨0xCB00C0, [], [⟨31, 0, .ro, 0, fun _ => true⟩]⟩,
  ⟨0xCB00C4, [], [⟨31, 0, .ro, 0, fun _ => true⟩]⟩,
  ⟨0xCB0070, [], [⟨0, 0, .w1c, 0, fun _ => true⟩]⟩,
  ⟨0xCB0074, [], [⟨31, 0, .ro, 0, fun _ => true⟩]⟩]

/-- The registers of the BYx_CAL_ block. -/
def byreRegsCAL_ : List RegD := byreRegsCAL_0 ++ byreRegsCAL_1

/-- The registers of the BYx_DRAM_ block, part 1. -/
def byreRegsDRAM_0 : List RegD := [
  ⟨0xCC0000, [], [⟨20, 16, .rw, 0xC, fun v => 8 ≤ v && v ≤ 16⟩, ⟨12, 8, .rw, 0xC, fun v => 8 ≤ v && v ≤ 16⟩]⟩,
  ⟨0xCC0004, [], [⟨31, 31, .wo, 0, fun _ => true⟩, ⟨30, 30, .wo, 0, fun _ => true⟩, ⟨29, 29, .wo, 0, fun _ => true⟩, ⟨1, 0, .rw, 0, fun v => v != 3⟩]⟩,
  ⟨0xCC0008, [], [⟨31, 29, .ro, 0, fun _ => true⟩, ⟨28, 28, .ro, 0, fun _ => true⟩, ⟨27, 26, .ro, 0, fun _ => true⟩, ⟨25, 24, .ro, 0, fun _ => true⟩, ⟨23, 23, .w1c, 0, fun _ => true⟩, ⟨22, 20, .ro, 0, fun _ => true⟩, ⟨19, 18, .ro, 0, fun _ => true⟩]⟩,
  ⟨0xCC000C, [], [⟨15, 0, .ro, 0, fun _ => true⟩]⟩,
  ⟨0xCC0010, [], [⟨31, 31, .w1c, 0, fun _ => true⟩, ⟨30, 30, .ro, 0, fun _ => true⟩, ⟨26, 0, .ro, 0, fun _ => true⟩]⟩,
  ⟨0xCC0014, [], [⟨9, 8, .rw, 0, fun v => v != 3⟩, ⟨7, 7, .rw, 0, fun _ => true⟩, ⟨5, 0, .rw, 0, fun _ => true⟩]⟩,
  ⟨0xCC0018, [], [⟨31, 0, .rw, 0, fun _ => true⟩]⟩,
  ⟨0xCC0020, [], [⟨31, 31, .rw, 0, fun _ => true⟩, ⟨3, 0, .rw, 0, fun _ => true⟩]⟩,
  ⟨0xCC0024, [], [⟨26, 0, .rw, 0, fun _ => true⟩]⟩,
  ⟨0xCC0028, [], [⟨26, 0, .rw, 0, fun _ => true⟩]⟩,
  ⟨0xCC002C, [], [⟨31, 16, .rw, 0x12C0, fun _ => true⟩, ⟨15, 0, .rw, 0x12C0, fun _ => true⟩]⟩,
  ⟨0xCC0030, [], [⟨15, 8, .rw, 0x40, fun _ => true⟩, ⟨7, 0, .rw, 0x20, fun _ => true⟩]⟩,
  ⟨0xCC0034, [], [⟨31, 30, .ro, 0, fun _ => true⟩, ⟨29, 29, .ro, 0, fun _ => true⟩, ⟨28, 28, .ro, 0, fun _ => true⟩, ⟨27, 27, .ro, 0, fun _ => true⟩, ⟨26, 26, .ro, 0, fun _ => true⟩, ⟨11, 0, .ro, 0, fun _ => true⟩]⟩,
  ⟨0xCC0038, [], [⟨31, 31, .wo, 0, fun _ => true⟩, ⟨30, 30, .wo, 0, fun _ => true⟩, ⟨15, 0, .rw, 0, fun _ => true⟩]⟩,
  ⟨0xCC003C, [], [⟨26, 0, .ro, 0, fun _ => true⟩]⟩,
  ⟨0xCC0040, [], [⟨26, 0, .ro, 0, fun _ => true⟩]⟩,
  ⟨0xCC0044, [], [⟨26, 0, .ro, 0, fun _ => true⟩]⟩,
  ⟨0xCC0048, [], [⟨26, 0, .ro, 0, fun _ => true⟩]⟩,
  ⟨0xCC004C, [], [⟨31, 0, .ro, 0, fun _ => true⟩]⟩,
  ⟨0xCC0050, [], [⟨13, 0, .ro, 0, fun _ => true⟩]⟩,
  ⟨0xCC0080, [], [⟨31, 0, .ro, 0, fun _ => true⟩]⟩,
  ⟨0xCC0084, [], [⟨31, 0, .ro, 0, fun _ => true⟩]⟩,
  ⟨0xCC0088, [], [⟨31, 0, .ro, 0, fun _ => true⟩]⟩,
  ⟨0xCC008C, [], [⟨31, 0, .ro, 0, fun _ => true⟩]⟩]

/-- The registers of the BYx_DRAM_ block, part 2. -/
def byreRegsDRAM_1 : List RegD := [
  ⟨0xCC0090, [], [⟨31, 0, .ro, 0, fun _ => true⟩]⟩,
  ⟨0xCC0094, [], [⟨31, 0, .ro, 0, fun _ => true⟩]⟩,
  ⟨0xCC0098, [], [⟨31, 0, .ro, 0, fun _ => true⟩]⟩,
  ⟨0xCC009C, [], [⟨31, 0, .ro, 0, fun _ => true⟩]⟩,
  ⟨0xCC00A0, [], [⟨31, 0, .ro, 0, fun _ => true⟩]⟩,
  ⟨0xCC00A4, [], [⟨31, 0, .ro, 0, fun _ => true⟩]⟩,
  ⟨0xCC00A8, [], [⟨31, 0, .ro, 0, fun _ => true⟩]⟩,
  ⟨0xCC0070, [], [⟨0, 0, .w1c, 0, fun _ => true⟩]⟩,
  ⟨0xCC0074, [], [⟨31, 0, .ro, 0, fun _ => true⟩]⟩]

/-- The registers of the BYx_DRAM_ block. -/
def byreRegsDRAM_ : List RegD := byreRegsDRAM_0 ++ byreRegsDRAM_1

/-- The registers of the BYx_TUG_ block, part 1. -/
def byreRegsTUG_0 : List RegD := [
  ⟨0xCD0000, [], [⟨31, 31, .rw, 0, fun _ => true⟩, ⟨25, 24, .rw, 0, fun _ => true⟩, ⟨21, 16, .rw, 0, fun _ => true⟩, ⟨13, 0, .rw, 0, fun _ => true⟩]⟩,
  ⟨0xCD0004, [], [⟨16, 0, .rw, 0, fun _ => true⟩]⟩,
  ⟨0xCD0008, [], [⟨16, 0, .rw, 0, fun _ => true⟩]⟩,
  ⟨0xCD000C, [], [⟨31, 31, .rw, 0, fun _ => true⟩, ⟨30, 30, .rw, 0, fun _ => true⟩, ⟨27, 16, .rw, 0x64, fun v => v != 0⟩, ⟨15, 0, .rw, 0x3E8, fun v => 100 ≤ v && v ≤ 10000⟩]⟩,
  ⟨0xCD0010, [], [⟨15, 0, .rw, 0x3E8, fun v => 200 ≤ v && v ≤ 60000⟩]⟩,
  ⟨0xCD0014, [], [⟨31, 31, .rw, 0, fun _ => true⟩, ⟨23, 16, .rw, 0xFF, fun _ => true⟩, ⟨15, 0, .rw, 0x88B5, fun _ => true⟩]⟩,
  ⟨0xCD0018, [], [⟨31, 16, .rw, 0x1388, fun _ => true⟩, ⟨7, 0, .rw, 0, fun _ => true⟩]⟩,
  ⟨0xCD001C, [], [⟨15, 0, .rw, 0xFFFF, fun _ => true⟩]⟩,
  ⟨0xCD0020, [], [⟨31, 31, .wo, 0, fun _ => true⟩, ⟨30, 30, .rw, 0, fun _ => true⟩, ⟨29, 29, .rw, 0, fun _ => true⟩, ⟨7, 0, .rw, 0, fun _ => true⟩]⟩,
  ⟨0xCD0024, [], [⟨31, 31, .ro, 0, fun _ => true⟩, ⟨3, 0, .ro, 0, fun _ => true⟩]⟩,
  ⟨0xCD0028, [(3, 0x4)], [⟨31, 0, .rw, 0, fun _ => true⟩]⟩,
  ⟨0xCD0034, [], [⟨31, 31, .wo, 0, fun _ => true⟩]⟩,
  ⟨0xCD0038, [], [⟨3, 0, .ro, 0, fun _ => true⟩]⟩,
  ⟨0xCD003C, [], [⟨31, 31, .w1c, 0, fun _ => true⟩, ⟨6, 0, .ro, 0, fun _ => true⟩]⟩,
  ⟨0xCD0040, [], [⟨31, 31, .w1c, 0, fun _ => true⟩, ⟨30, 30, .ro, 0, fun _ => true⟩, ⟨16, 0, .ro, 0, fun _ => true⟩]⟩,
  ⟨0xCD0044, [], [⟨31, 0, .ro, 0, fun _ => true⟩]⟩,
  ⟨0xCD0200, [(60, 0x4)], [⟨31, 0, .rw, 0, fun _ => true⟩]⟩,
  ⟨0xCD0300, [(60, 0x4)], [⟨31, 0, .ro, 0, fun _ => true⟩]⟩,
  ⟨0xCD0800, [(8, 0x4)], [⟨1, 0, .rw, 0, fun _ => true⟩, ⟨3, 2, .rw, 0, fun _ => true⟩, ⟨5, 4, .rw, 0, fun _ => true⟩, ⟨7, 6, .rw, 0, fun _ => true⟩, ⟨9, 8, .rw, 0, fun _ => true⟩, ⟨11, 10, .rw, 0, fun _ => true⟩, ⟨13, 12, .rw, 0, fun _ => true⟩, ⟨15, 14, .rw, 0, fun _ => true⟩, ⟨17, 16, .rw, 0, fun _ => true⟩, ⟨19, 18, .rw, 0, fun _ => true⟩, ⟨21, 20, .rw, 0, fun _ => true⟩, ⟨23, 22, .rw, 0, fun _ => true⟩, ⟨25, 24, .rw, 0, fun _ => true⟩, ⟨27, 26, .rw, 0, fun _ => true⟩, ⟨29, 28, .rw, 0, fun _ => true⟩, ⟨31, 30, .rw, 0, fun _ => true⟩]⟩,
  ⟨0xCD0820, [(8, 0x4)], [⟨1, 0, .rw, 0, fun _ => true⟩, ⟨3, 2, .rw, 0, fun _ => true⟩, ⟨5, 4, .rw, 0, fun _ => true⟩, ⟨7, 6, .rw, 0, fun _ => true⟩, ⟨9, 8, .rw, 0, fun _ => true⟩, ⟨11, 10, .rw, 0, fun _ => true⟩, ⟨13, 12, .rw, 0, fun _ => true⟩, ⟨15, 14, .rw, 0, fun _ => true⟩, ⟨17, 16, .rw, 0, fun _ => true⟩, ⟨19, 18, .rw, 0, fun _ => true⟩, ⟨21, 20, .rw, 0, fun _ => true⟩, ⟨23, 22, .rw, 0, fun _ => true⟩, ⟨25, 24, .rw, 0, fun _ => true⟩, ⟨27, 26, .rw, 0, fun _ => true⟩, ⟨29, 28, .rw, 0, fun _ => true⟩, ⟨31, 30, .rw, 0, fun _ => true⟩]⟩,
  ⟨0xCD1000, [(2, 0x100)], [⟨7, 7, .w1c, 0, fun _ => true⟩, ⟨6, 6, .ro, 0, fun _ => true⟩, ⟨5, 5, .ro, 0, fun _ => true⟩, ⟨4, 4, .ro, 0, fun _ => true⟩, ⟨1, 0, .ro, 0, fun _ => true⟩]⟩,
  ⟨0xCD1004, [(2, 0x100)], [⟨22, 17, .ro, 0, fun _ => true⟩, ⟨16, 0, .ro, 0, fun _ => true⟩]⟩,
  ⟨0xCD1008, [(2, 0x100)], [⟨31, 0, .ro, 0, fun _ => true⟩]⟩,
  ⟨0xCD100C, [(2, 0x100)], [⟨31, 0, .ro, 0, fun _ => true⟩]⟩]

/-- The registers of the BYx_TUG_ block, part 2. -/
def byreRegsTUG_1 : List RegD := [
  ⟨0xCD1010, [(2, 0x100), (4, 0x4)], [⟨30, 24, .ro, 0, fun _ => true⟩, ⟨22, 16, .ro, 0, fun _ => true⟩, ⟨6, 0, .rw, 0x10, fun v => 1 ≤ v && v ≤ 64⟩]⟩,
  ⟨0xCD1020, [(2, 0x100), (4, 0x4)], [⟨30, 24, .ro, 0, fun _ => true⟩, ⟨22, 16, .ro, 0, fun _ => true⟩, ⟨6, 0, .ro, 0, fun _ => true⟩]⟩,
  ⟨0xCD0080, [], [⟨31, 0, .ro, 0, fun _ => true⟩]⟩,
  ⟨0xCD0084, [], [⟨31, 0, .ro, 0, fun _ => true⟩]⟩,
  ⟨0xCD0088, [], [⟨31, 0, .ro, 0, fun _ => true⟩]⟩,
  ⟨0xCD008C, [], [⟨31, 0, .ro, 0, fun _ => true⟩]⟩,
  ⟨0xCD0090, [], [⟨31, 0, .ro, 0, fun _ => true⟩]⟩,
  ⟨0xCD0094, [], [⟨31, 0, .ro, 0, fun _ => true⟩]⟩,
  ⟨0xCD0098, [], [⟨31, 0, .ro, 0, fun _ => true⟩]⟩,
  ⟨0xCD009C, [], [⟨31, 0, .ro, 0, fun _ => true⟩]⟩,
  ⟨0xCD00A0, [], [⟨31, 0, .ro, 0, fun _ => true⟩]⟩,
  ⟨0xCD00A4, [], [⟨31, 0, .ro, 0, fun _ => true⟩]⟩,
  ⟨0xCD00A8, [], [⟨31, 0, .ro, 0, fun _ => true⟩]⟩,
  ⟨0xCD00AC, [], [⟨31, 0, .ro, 0, fun _ => true⟩]⟩,
  ⟨0xCD00B0, [], [⟨31, 0, .ro, 0, fun _ => true⟩]⟩,
  ⟨0xCD00B4, [], [⟨31, 0, .ro, 0, fun _ => true⟩]⟩,
  ⟨0xCD00B8, [], [⟨31, 0, .ro, 0, fun _ => true⟩]⟩,
  ⟨0xCD00BC, [], [⟨31, 0, .ro, 0, fun _ => true⟩]⟩,
  ⟨0xCD1080, [(2, 0x100)], [⟨31, 0, .ro, 0, fun _ => true⟩]⟩,
  ⟨0xCD1084, [(2, 0x100)], [⟨31, 0, .ro, 0, fun _ => true⟩]⟩,
  ⟨0xCD1088, [(2, 0x100)], [⟨31, 0, .ro, 0, fun _ => true⟩]⟩,
  ⟨0xCD108C, [(2, 0x100)], [⟨31, 0, .ro, 0, fun _ => true⟩]⟩,
  ⟨0xCD1090, [(2, 0x100)], [⟨31, 0, .ro, 0, fun _ => true⟩]⟩,
  ⟨0xCD1094, [(2, 0x100)], [⟨31, 0, .ro, 0, fun _ => true⟩]⟩]

/-- The registers of the BYx_TUG_ block, part 3. -/
def byreRegsTUG_2 : List RegD := [
  ⟨0xCD1098, [(2, 0x100)], [⟨31, 0, .ro, 0, fun _ => true⟩]⟩,
  ⟨0xCD109C, [(2, 0x100)], [⟨31, 0, .ro, 0, fun _ => true⟩]⟩,
  ⟨0xCD10A0, [(2, 0x100)], [⟨31, 0, .ro, 0, fun _ => true⟩]⟩,
  ⟨0xCD10A4, [(2, 0x100)], [⟨31, 0, .ro, 0, fun _ => true⟩]⟩,
  ⟨0xCD10A8, [(2, 0x100)], [⟨31, 0, .ro, 0, fun _ => true⟩]⟩,
  ⟨0xCD0070, [], [⟨0, 0, .w1c, 0, fun _ => true⟩]⟩,
  ⟨0xCD0074, [], [⟨31, 0, .ro, 0, fun _ => true⟩]⟩]

/-- The registers of the BYx_TUG_ block. -/
def byreRegsTUG_ : List RegD := byreRegsTUG_0 ++ byreRegsTUG_1 ++ byreRegsTUG_2

/-- The registers of the BYx_PWR_ block, part 1. -/
def byreRegsPWR_0 : List RegD := [
  ⟨0xCE0000, [], [⟨16, 16, .ro, 0, fun _ => true⟩, ⟨15, 0, .ro, 0, fun _ => true⟩]⟩]

/-- The registers of the BYx_PWR_ block. -/
def byreRegsPWR_ : List RegD := byreRegsPWR_0

/-- The register table of block `n` (R26). -/
def blockRegs : Nat → List RegD
  | 0 => byreRegsCHURN_
  | 1 => byreRegsROTA_
  | 2 => byreRegsSW_
  | 3 => byreRegsSKIM_
  | 4 => byreRegsEMU_
  | 5 => byreRegsPRESS_
  | 6 => byreRegsPAIL_
  | 7 => byreRegsVAT_
  | 8 => byreRegsTNK_
  | 9 => byreRegsLOCK_
  | 10 => byreRegsTIME_
  | 11 => byreRegsCAL_
  | 12 => byreRegsDRAM_
  | 13 => byreRegsTUG_
  | 14 => byreRegsPWR_
  | _ => []

/-- The CRM_ registers, part 1. -/
def crmRegs0 : List RegD := [
  ⟨0x2000040, [], [⟨6, 6, .w1c, 0, fun _ => true⟩, ⟨5, 5, .w1c, 0, fun _ => true⟩, ⟨4, 4, .w1c, 0, fun _ => true⟩, ⟨3, 3, .w1c, 0, fun _ => true⟩, ⟨2, 2, .w1c, 0, fun _ => true⟩, ⟨1, 1, .w1c, 0, fun _ => true⟩, ⟨0, 0, .w1c, 0, fun _ => true⟩]⟩,
  ⟨0x2000044, [], [⟨31, 0, .ro, 0, fun _ => true⟩]⟩,
  ⟨0x2000048, [], [⟨8, 8, .ro, 0, fun _ => true⟩, ⟨2, 0, .ro, 0, fun _ => true⟩]⟩,
  ⟨0x200004C, [], [⟨31, 0, .rc, 0, fun _ => true⟩]⟩,
  ⟨0x2000000, [], [⟨31, 16, .ro, 0x192, fun _ => true⟩, ⟨15, 8, .ro, 0xB1, fun _ => true⟩]⟩,
  ⟨0x2040000, [(256, 0x4)], [⟨31, 31, .ro, 0, fun _ => true⟩, ⟨10, 8, .ro, 0, fun _ => true⟩, ⟨5, 0, .ro, 0, fun _ => true⟩]⟩,
  ⟨0x2020000, [(8, 0x10)], [⟨2, 2, .wo, 0, fun _ => true⟩, ⟨1, 1, .wo, 0, fun _ => true⟩, ⟨0, 0, .wo, 0, fun _ => true⟩]⟩,
  ⟨0x2020004, [(8, 0x10)], [⟨31, 16, .ro, 0, fun _ => true⟩, ⟨9, 9, .w1c, 0, fun _ => true⟩, ⟨8, 8, .w1c, 0, fun _ => true⟩, ⟨1, 0, .ro, 0, fun _ => true⟩]⟩,
  ⟨0x2020008, [(8, 0x10)], [⟨0, 0, .rw, 0, fun _ => true⟩]⟩,
  ⟨0x2021000, [], [⟨7, 0, .ro, 0, fun _ => true⟩]⟩,
  ⟨0x2021004, [], [⟨7, 0, .rw, 0, fun _ => true⟩]⟩,
  ⟨0x2021008, [], [⟨0, 0, .rw, 0, fun _ => true⟩]⟩,
  ⟨0x202100C, [], [⟨31, 0, .ro, 0, fun _ => true⟩]⟩,
  ⟨0x2030000, [(32, 0x40)], [⟨31, 31, .ro, 0, fun _ => true⟩, ⟨30, 30, .ro, 0, fun _ => true⟩, ⟨18, 16, .ro, 0, fun _ => true⟩, ⟨15, 8, .ro, 0, fun _ => true⟩, ⟨3, 0, .ro, 0, fun _ => true⟩]⟩,
  ⟨0x2030004, [(32, 0x40)], [⟨31, 0, .ro, 0, fun _ => true⟩]⟩,
  ⟨0x2030008, [(32, 0x40)], [⟨31, 0, .ro, 0, fun _ => true⟩]⟩,
  ⟨0x203000C, [(32, 0x40)], [⟨11, 0, .rw, 0, fun _ => true⟩]⟩,
  ⟨0x2030010, [(32, 0x40)], [⟨11, 0, .ro, 0, fun _ => true⟩]⟩,
  ⟨0x2030014, [(32, 0x40)], [⟨31, 16, .ro, 0, fun _ => true⟩, ⟨15, 0, .ro, 0, fun _ => true⟩]⟩,
  ⟨0x2031000, [], [⟨31, 0, .ro, 0, fun _ => true⟩]⟩,
  ⟨0x2030020, [(32, 0x40)], [⟨31, 0, .ro, 0, fun _ => true⟩]⟩,
  ⟨0x2030024, [(32, 0x40)], [⟨31, 0, .ro, 0, fun _ => true⟩]⟩,
  ⟨0x2030028, [(32, 0x40)], [⟨31, 0, .ro, 0, fun _ => true⟩]⟩,
  ⟨0x203002C, [(32, 0x40)], [⟨31, 0, .ro, 0, fun _ => true⟩]⟩]

/-- The CRM_ registers, part 2. -/
def crmRegs1 : List RegD := [
  ⟨0x2050000, [(8, 0x100), (8, 0x4)], [⟨31, 0, .rw, 0, fun _ => true⟩]⟩,
  ⟨0x2050020, [(8, 0x100), (8, 0x4)], [⟨31, 0, .ro, 0, fun _ => true⟩]⟩,
  ⟨0x2050040, [(8, 0x100)], [⟨31, 31, .rw, 1, fun _ => true⟩, ⟨2, 2, .wo, 0, fun _ => true⟩, ⟨1, 1, .wo, 0, fun _ => true⟩, ⟨0, 0, .wo, 0, fun _ => true⟩]⟩,
  ⟨0x2050044, [(8, 0x100)], [⟨15, 12, .ro, 0, fun _ => true⟩, ⟨10, 10, .w1c, 0, fun _ => true⟩, ⟨9, 9, .w1c, 0, fun _ => true⟩, ⟨8, 8, .w1c, 0, fun _ => true⟩, ⟨6, 5, .ro, 0, fun _ => true⟩, ⟨4, 4, .ro, 0, fun _ => true⟩, ⟨2, 0, .ro, 4, fun _ => true⟩]⟩,
  ⟨0x2050048, [(8, 0x100)], [⟨23, 0, .ro, 0, fun _ => true⟩]⟩,
  ⟨0x205004C, [(8, 0x100)], [⟨31, 0, .ro, 0, fun _ => true⟩]⟩,
  ⟨0x2050050, [(8, 0x100)], [⟨31, 0, .ro, 0, fun _ => true⟩]⟩,
  ⟨0x2050080, [(8, 0x100)], [⟨31, 0, .ro, 0, fun _ => true⟩]⟩,
  ⟨0x2050084, [(8, 0x100)], [⟨31, 0, .ro, 0, fun _ => true⟩]⟩,
  ⟨0x2050088, [(8, 0x100)], [⟨31, 0, .ro, 0, fun _ => true⟩]⟩,
  ⟨0x205008C, [(8, 0x100)], [⟨31, 0, .ro, 0, fun _ => true⟩]⟩,
  ⟨0x2050090, [(8, 0x100)], [⟨31, 0, .ro, 0, fun _ => true⟩]⟩,
  ⟨0x2050094, [(8, 0x100)], [⟨31, 0, .ro, 0, fun _ => true⟩]⟩,
  ⟨0x2050098, [(8, 0x100)], [⟨31, 0, .ro, 0, fun _ => true⟩]⟩,
  ⟨0x2060000, [(64, 0x4)], [⟨31, 31, .ro, 0, fun _ => true⟩, ⟨17, 17, .ro, 0, fun _ => true⟩, ⟨16, 16, .ro, 0, fun _ => true⟩, ⟨8, 0, .rw, 0, fun _ => true⟩]⟩,
  ⟨0x2060400, [(64, 0x4)], [⟨31, 0, .wo, 0, fun _ => true⟩]⟩,
  ⟨0x2060800, [(4, 0x4)], [⟨2, 0, .rw, 7, fun _ => true⟩]⟩]

/-- The CRM_ registers. -/
def crmRegs : List RegD := crmRegs0 ++ crmRegs1

/-- The AON_ registers, part 1. -/
def aonRegs0 : List RegD := [
  ⟨0xD000000, [], [⟨31, 31, .wo, 0, fun _ => true⟩, ⟨19, 16, .rw, 0, fun v => !(10 ≤ v && v ≤ 13)⟩, ⟨11, 8, .rw, 0, fun v => v < 6 || v == 12⟩, ⟨1, 0, .rw, 2, fun v => v != 3⟩]⟩,
  ⟨0xD000004, [], [⟨31, 31, .ro, 0, fun _ => true⟩, ⟨30, 30, .w1c, 0, fun _ => true⟩, ⟨19, 16, .ro, 0, fun _ => true⟩, ⟨15, 8, .ro, 0, fun _ => true⟩, ⟨3, 0, .ro, 0, fun _ => true⟩]⟩,
  ⟨0xD000010, [(6, 0x4)], [⟨1, 0, .ro, 0, fun _ => true⟩, ⟨3, 2, .ro, 0, fun _ => true⟩, ⟨5, 4, .ro, 0, fun _ => true⟩, ⟨7, 6, .ro, 0, fun _ => true⟩, ⟨9, 8, .ro, 0, fun _ => true⟩, ⟨11, 10, .ro, 0, fun _ => true⟩, ⟨13, 12, .ro, 0, fun _ => true⟩, ⟨15, 14, .ro, 0, fun _ => true⟩, ⟨17, 16, .ro, 0, fun _ => true⟩, ⟨19, 18, .ro, 0, fun _ => true⟩]⟩,
  ⟨0xD000030, [(6, 0x4)], [⟨25, 16, .rw, 0, fun _ => true⟩, ⟨11, 8, .rw, 0, fun _ => true⟩, ⟨7, 4, .rw, 0, fun _ => true⟩, ⟨3, 0, .rw, 0, fun _ => true⟩]⟩,
  ⟨0xD000050, [(6, 0x4)], [⟨3, 0, .w1c, 0, fun _ => true⟩]⟩,
  ⟨0xD000080, [(6, 0x8)], [⟨31, 31, .wo, 0, fun _ => true⟩, ⟨30, 30, .rw, 0, fun _ => true⟩, ⟨10, 0, .rw, 0, fun _ => true⟩]⟩,
  ⟨0xD000084, [(6, 0x8)], [⟨31, 31, .ro, 0, fun _ => true⟩, ⟨30, 30, .ro, 0, fun _ => true⟩, ⟨29, 28, .ro, 0, fun _ => true⟩, ⟨26, 16, .ro, 0, fun _ => true⟩, ⟨10, 0, .ro, 0, fun _ => true⟩]⟩,
  ⟨0xD000100, [], [⟨15, 0, .ro, 0, fun _ => true⟩]⟩,
  ⟨0xD000104, [], [⟨31, 31, .rw, 0, fun _ => true⟩, ⟨15, 0, .rw, 0x2328, fun v => 4500 ≤ v && v ≤ 27000⟩]⟩,
  ⟨0xD000108, [], [⟨1, 1, .w1c, 0, fun _ => true⟩, ⟨0, 0, .ro, 0, fun _ => true⟩]⟩,
  ⟨0xD00010C, [], [⟨10, 10, .ro, 0, fun _ => true⟩, ⟨9, 9, .ro, 0, fun _ => true⟩, ⟨8, 8, .ro, 0, fun _ => true⟩, ⟨5, 0, .ro, 0, fun _ => true⟩]⟩,
  ⟨0xD000110, [], [⟨7, 0, .w1c, 1, fun _ => true⟩]⟩,
  ⟨0xD000120, [(6, 0x4)], [⟨3, 0, .ro, 1, fun _ => true⟩]⟩,
  ⟨0xD000180, [], [⟨31, 0, .ro, 0, fun _ => true⟩]⟩,
  ⟨0xD000184, [], [⟨31, 0, .ro, 0, fun _ => true⟩]⟩,
  ⟨0xD000188, [], [⟨31, 0, .ro, 0, fun _ => true⟩]⟩,
  ⟨0xD00018C, [], [⟨31, 0, .ro, 0, fun _ => true⟩]⟩,
  ⟨0xD0001A0, [(6, 0x4)], [⟨31, 0, .ro, 0, fun _ => true⟩]⟩,
  ⟨0xD000070, [], [⟨0, 0, .w1c, 0, fun _ => true⟩]⟩,
  ⟨0xD000074, [], [⟨31, 0, .ro, 0, fun _ => true⟩]⟩,
  ⟨0xD000028, [], [⟨3, 2, .ro, 2, fun _ => true⟩, ⟨1, 0, .ro, 2, fun _ => true⟩]⟩]

/-- The AON_ registers. -/
def aonRegs : List RegD := aonRegs0

/-- The table entry of a byre register by its byre-view offset. -/
def byreReg (off : Nat) : Option RegD := (blockRegs ((off - 0xC00000) / 0x10000)).find? (·.has off)

/-- The table entry of a creamery or AON register by its management address. -/
def crmReg (a : Nat) : Option RegD := (crmRegs ++ aonRegs).find? (·.has a)

/-- A byre register's value after reset (R7; a "—" of the tables stands at 0, see the assumption log). -/
def byreRst (off : Nat) : Word := BitVec.ofNat 32 ((byreReg off).elim 0 RegD.resetWord)

/-- A creamery or AON register's value after reset. -/
def crmRst (a : Nat) : Word := BitVec.ofNat 32 ((crmReg a).elim 0 RegD.resetWord)

end Sys2Proof.Machine
end

