-- ==== Sys2Proof/Machine/SMap.lean ====
section
/-!
DEFINITION. Sparse stores as plain data: a list of (key, value) pairs in one canonical form (keys strictly rising, no
entry equal to what an unlisted key reads as).  Memories, register files and tables of the machine are all held so.
-/

namespace Sys2Proof.Machine

/-- A sparse store: (key, value) pairs, keys strictly rising. -/
abbrev SMap (α : Type) := List (Nat × α)

namespace SMap

/-- The value at key `k`; `d` says what an unlisted key reads as. -/
def get {α : Type} (d : Nat → α) : SMap α → Nat → α
  | [], k => d k
  | (k', v) :: m, k => if k = k' then v else get d m k

/-- List the value `v` at key `k`, in its place. -/
def ins {α : Type} : SMap α → Nat → α → SMap α
  | [], k, v => [(k, v)]
  | (k', v') :: m, k, v =>
    if k = k' then (k, v) :: m
    else if k < k' then (k, v) :: (k', v') :: m
    else (k', v') :: ins m k v

/-- Write at key `k`, keeping the canonical form: the value an unlisted key reads as removes the entry. -/
def set {α : Type} [DecidableEq α] (d : Nat → α) (m : SMap α) (k : Nat) (v : α) : SMap α :=
  if v = d k then m.filter fun e => e.1 != k else ins m k v

/-- Remove every entry whose key does not satisfy `p` (those keys read as unlisted again). -/
def keep {α : Type} (p : Nat → Bool) (m : SMap α) : SMap α := m.filter fun e => p e.1

/-- The canonical form: keys strictly rising from `lo`, no entry at its default. -/
def wfFrom {α : Type} [DecidableEq α] (d : Nat → α) : Nat → SMap α → Bool
  | _, [] => true
  | lo, (k, v) :: m => decide (lo ≤ k) && decide (v ≠ d k) && wfFrom d (k + 1) m

/-- Keys strictly rising from `lo`: the canonical form of a store whose unlisted keys have no known value. -/
def risingFrom {α : Type} : Nat → SMap α → Bool
  | _, [] => true
  | lo, (k, _) :: m => decide (lo ≤ k) && risingFrom (k + 1) m

/-- Keys strictly rising. -/
def rising {α : Type} (m : SMap α) : Bool := risingFrom 0 m

/-- The canonical form of a whole store. -/
def wf {α : Type} [DecidableEq α] (d : Nat → α) (m : SMap α) : Bool := wfFrom d 0 m

end SMap

/-- A byte memory: what an unlisted byte reads as is 0 (DESIGN CHOICE, assumption log entry 3). -/
abbrev Mem := SMap Byte

/-- What a byte that nothing has written reads as. -/
abbrev memDflt : Nat → Byte := fun _ => 0#8

namespace Mem

/-- One byte. -/
def ldb (m : Mem) (a : Nat) : Byte := SMap.get memDflt m a

/-- Store one byte. -/
def stb (m : Mem) (a : Nat) (v : Byte) : Mem := SMap.set memDflt m a v

/-- The canonical form. -/
def wf (m : Mem) : Bool := SMap.wf memDflt m

/-- `n` bytes from address `a`. -/
def read (m : Mem) (a : Nat) : Nat → List Byte
  | 0 => []
  | n + 1 => ldb m a :: read m (a + 1) n

/-- Store the bytes `bs` from address `a` up. -/
def write (m : Mem) (a : Nat) : List Byte → Mem
  | [] => m
  | b :: bs => write (stb m a b) (a + 1) bs

/-- Record the bytes `bs` from address `a` up in a memory whose unlisted bytes are unknown: every byte is listed. -/
def put (m : Mem) (a : Nat) : List Byte → Mem
  | [] => m
  | b :: bs => put (SMap.ins m a b) (a + 1) bs

end Mem

/-- The little-endian value of a byte list (R5). -/
def leNat : List Byte → Nat
  | [] => 0
  | b :: bs => b.toNat + 256 * leNat bs

/-- The big-endian (network order) value of a byte list. -/
def beNat (bs : List Byte) : Nat := bs.foldl (fun a b => a * 256 + b.toNat) 0

/-- `n` little-endian bytes of a value. -/
def leBytes : Nat → Nat → List Byte
  | 0, _ => []
  | n + 1, v => BitVec.ofNat 8 v :: leBytes n (v / 256)

/-- `n` big-endian bytes of a value. -/
def beBytes (n v : Nat) : List Byte := (leBytes n v).reverse

namespace Mem

/-- The 32-bit little-endian word at `a`. -/
def ldw (m : Mem) (a : Nat) : Word := BitVec.ofNat 32 (leNat (read m a 4))

/-- Store a 32-bit word at `a`, little-endian. -/
def stw (m : Mem) (a : Nat) (v : Word) : Mem := write m a (leBytes 4 v.toNat)

end Mem

/-- Bits hi:lo of a number. -/
def bits (v hi lo : Nat) : Nat := v / 2 ^ lo % 2 ^ (hi + 1 - lo)

/-- One bit of a number. -/
def bit (v i : Nat) : Bool := v / 2 ^ i % 2 == 1

/-- A number as 0 or 1. -/
def b2n (b : Bool) : Nat := if b then 1 else 0

/-- An `n`-bit pattern read as two's complement. -/
def sgn (n v : Nat) : Int := if v % 2 ^ n < 2 ^ (n - 1) then ((v % 2 ^ n : Nat) : Int) else ((v % 2 ^ n : Nat) : Int) - (2 ^ n : Nat)

/-- The `n`-bit two's-complement pattern of an integer. -/
def pat (n : Nat) (i : Int) : Nat := (i % ((2 ^ n : Nat) : Int)).toNat

/-- The first `n` elements kept at most: an append to a bounded queue, and whether it was lost. -/
def pushQ {α : Type} (depth : Nat) (q : List α) (x : α) : List α × Bool :=
  if q.length < depth then (q ++ [x], false) else (q, true)

end Sys2Proof.Machine
end

