-- ==== Sys2Proof/Machine/State.lean ====
section
/-!
DEFINITION. The machine's state as plain data: six byres, the creamery with its AON domain, and the queue of waiting
commands.  Every register of the spec's tables lives in the `regs` of its byre, of the creamery or of AON
(Machine/RegMap.lean gives the addresses, fields and reset values); the structures below hold what the spec gives the
machine beside its registers.
-/

namespace Sys2Proof.Machine

/-- Why the machine stops.  No command of this block ends in a fault: the spec gives every command an effect or
records its refusal in State, so nothing raises this (safe). -/
inductive Fault where
  /-- kept for the host's interface; no meaning answers with it -/
  | none
  deriving DecidableEq, Repr

/-- Why the machine gives a command no meaning. -/
inductive Refusal where
  /-- raised by an arm of `exec` whose command has no meaning yet (safe: the machine stops) -/
  | notModelled (mnemonic : String)
  deriving DecidableEq, Repr

/-- A mailbox event (R418): code, source, tick identity and the 16 data bytes. -/
structure Event where
  code : Nat
  src : Nat
  sec : Nat
  k : Nat
  data : List Byte
  deriving DecidableEq, Repr

/-- A tick identity s:k (R46). -/
structure Tick where
  s : Nat
  k : Nat
  deriving DecidableEq, Repr

/-- The time unit of a byre (chapter 2), beside its registers. -/
structure TimeUnit where
  /-- the TAI counter of R30 -/
  sec : Nat
  ns : Nat
  frac : Nat
  /-- the read-port latch of R32 -/
  latSec : Nat
  latNs : Nat
  latFrac : Nat
  /-- the monotonic count of R55 and the latch of its high word -/
  mono : Nat
  monoLat : Nat
  /-- all time that has passed in this model, ns: the base of every duration below -/
  clk : Nat
  /-- the counter is stopped (REFCLK lost, or the TIME domain is not on) -/
  stopped : Bool
  /-- CLK_FAIL was set by a REFCLK loss (R39) -/
  refFail : Bool
  /-- the servo watchdog of R36: its expiry instant on `clk` while it runs -/
  watchdog : Option Nat
  /-- a LOCKED state since the counter was last loaded (R36) -/
  lockedSince : Bool
  /-- the bound base of R37 and the `clk` of the write that set it -/
  boundBase : Nat
  boundAt : Nat
  /-- the tick generator of R46: the boundary it issues next and its remainder -/
  genS : Nat
  genK : Nat
  genNs : Nat
  genRem : Nat
  /-- the rate the generator runs at (0: no tick runs) -/
  rate : Nat
  /-- the current tick, and whether any boundary has been issued since the tick last started -/
  cur : Tick
  issued : Bool
  /-- a debug freeze has been latched for the next boundary (R56) -/
  freezePend : Bool
  /-- the boundary at which a freeze took effect: first boundary not issued -/
  frozenAt : Option Tick
  /-- PPS output: a pulse runs, the end of the pulse on `clk`, the instant of the last edge -/
  ppsOut : Bool
  ppsEnd : Nat
  ppsEdge : Option Nat
  /-- the last second boundary that a forward step has passed over (R44) -/
  ppsPassed : Option Nat
  /-- the `clk` of the last PPS input edge (R45) -/
  ppsInAt : Nat
  /-- writes of the board delay registers: register offset, `clk`, and the word before, newest first (R61) -/
  dlyLog : List (Nat × Nat × Nat)
  deriving DecidableEq, Repr

/-- One level of a schedule LOOP (R69): first word of the body, its last word, runs left after this one, and the
number of the present iteration. -/
structure LoopLvl where
  first : Nat
  last : Nat
  left : Nat
  iter : Nat
  deriving DecidableEq, Repr

/-- What a plan in progress waits for. -/
inductive PlanWait where
  /-- nothing: the next word is fetched -/
  | none
  /-- WAIT_OFS, until this TAI instant -/
  | ofs (t : Nat)
  /-- COMMIT -/
  | commit
  /-- a DISPATCH word waits for a free ready-list entry (R208) -/
  | dispatch
  deriving DecidableEq, Repr

/-- A plan that runs or waits to run (R73, R74). -/
structure Plan where
  tick : Tick
  /-- TAI instant and monotonic count of the boundary that issued it, and the instant of the next issued boundary -/
  bt : Nat
  btMono : Nat
  nb : Option Nat
  /-- flip due at its start: 0 none, 1 epoch swap, 2 binding flip -/
  flip : Nat
  /-- the rate that numbers its tick -/
  rate : Nat
  pc : Nat
  loops : List LoopLvl
  wait : PlanWait
  committed : Bool
  /-- on the overrun path: only ALWAYS words execute (R78) -/
  overran : Bool
  /-- the overrun path came from a conservation fault (R479), so R79 does not count it -/
  conserve : Bool
  deriving DecidableEq, Repr

/-- A queued seal (R169): group, tick, restart seal; the configuration of the sealing bank and the rate. -/
structure SealReq where
  g : Nat
  t : Tick
  restart : Bool
  bank : Nat
  rate : Nat
  /-- tick of the plan, or of the boundary of a restart -/
  plan : Tick
  /-- earliest `clk` at which its pass starts (R170) -/
  at_ : Nat
  deriving DecidableEq, Repr

/-- A snapshot sealed for a plan (R180 to R183): group, vat offset of its slot, whether its seal area was written, the bank
whose group entry sealed it, and the tick of the plan. -/
structure Snap where
  g : Nat
  slot : Nat
  area : Bool
  bank : Nat
  plan : Tick
  deriving DecidableEq, Repr

/-- The churn of a byre (chapter 3), beside its registers and stores. -/
structure Churn where
  /-- the plan in progress -/
  plan : Option Plan
  /-- plans whose boundary has been issued and that have not started (R74), oldest first -/
  pend : List Plan
  /-- the churn starts no further plan (third overrun of R79, or a machine check) -/
  halted : Bool
  /-- the pending arm: its full second and k (R84) -/
  arm : Option Tick
  /-- an arm has been consumed at its boundary since the last arm (R85); an arm waits for the swap that its cancel could not stop -/
  armGone : Bool
  armDefer : Bool
  /-- the binding a scheduled flip selects (R87) -/
  flipTo : Nat
  /-- byre_start, byre_stop and FAULTED transitions that wait for the next issued boundary (R466, R467) -/
  startPend : Bool
  stopPend : Bool
  /-- FAULTED at the next boundary with this reason -/
  faultPend : Option Nat
  /-- the byre has become FAULTED and BYRE_FAULT_ENTRY (R468) is due -/
  entryDue : Bool
  /-- a plan has committed since the byre entered RUNNING (R470) -/
  committedOnce : Bool
  /-- plans started since reset, and the plan number of the last conservation fault (R480) -/
  planNo : Nat
  lastConserve : Option Nat
  /-- plans that have overrun, the latest four (R78) -/
  overs : List Tick
  /-- group ticks sealed by the running plan: (group, tick), oldest first (R78, R180) -/
  sealed : List (Nat × Tick)
  /-- the snapshots whose headers the last commit marked, as `fresh` of the byre (R479) -/
  marked : List Snap
  /-- the state held when the FAB domain entered retention (R466) -/
  retained : Nat
  /-- detections of R474 within the last second: (block, index, clk) (R475) -/
  detect : List (Nat × Nat × Nat)
  deriving DecidableEq, Repr

/-- An operation of the rota (R201): a plan operation, a re-run of one (R80), or an ingress operation. -/
structure OpEnt where
  /-- number that tells this run from every other (the model's own name for it) -/
  seq : Nat
  /-- 0 re-run, 1 plan operation, 2 ingress operation: the order of R206 -/
  cls : Nat
  /-- OP_ID with the iteration number added, or 0xF000 + ingress index -/
  id : Nat
  /-- D1 at placement: iteration number, or pail offset of an ingress operation -/
  d1 : Nat
  entry : Nat
  home : Nat
  spill : Nat
  budget : Nat
  /-- GROUP_MASK and the four predecessor OP_IDs of the DISPATCH word, 0xFFFF for none -/
  groups : Nat
  preds : List Nat
  /-- tick of the plan -/
  tick : Tick
  /-- D2 of an ingress operation -/
  info : Nat
  /-- when it became ready, in the order of R206 -/
  ready : Option Nat
  deriving DecidableEq, Repr

/-- The operation that a thread runs. -/
structure OpRun where
  ent : OpEnt
  /-- budget instructions left (R202) -/
  left : Nat
  /-- times released by tick (R200) -/
  rel : Nat
  /-- a thread trap of cause 0x08 fell on this re-run: the verdict is lasting and its outputs are invalid (R476) -/
  bad : Bool
  deriving DecidableEq, Repr

/-- What a separator operation that has not committed yet will write (R254): window registers and sums. -/
structure SepPend where
  regs : List (Nat × Word)
  sums : List (Nat × BitVec 80 × BitVec 80)
  deriving DecidableEq, Repr

/-- A separator window (R258): registers 0x00 to 0x1F by number, the staged table words and the sums. -/
structure Sep where
  w : SMap Word
  taddr : Nat
  tcos : Word
  sums : SMap (BitVec 80 × BitVec 80)
  pend : List SepPend
  deriving DecidableEq, Repr

/-- A strainer operation that has not committed yet (R254), with what it read at issue. -/
structure StrPend where
  /-- OP of R272; 0 for an MTCP refused with NOT_OWNER -/
  op : Nat
  thr : Nat
  len : Nat
  block : List Byte
  iv : List Byte
  ctl : Nat
  deriving DecidableEq, Repr

/-- A strainer window (R271 to R277). -/
structure Str where
  /-- B0-B15, TAG0-TAG7, IV0-IV2 and CTL by register number -/
  w : SMap Word
  owner : Nat
  active : Bool
  done : Bool
  err : Nat
  count : Nat
  /-- running MAC state (inner hash state or GHASH accumulator), bytes absorbed, bytes short of a block, swap count -/
  mac : Nat
  mlen : Nat
  tail : List Byte
  swaps : Nat
  /-- header of the slot, key material and initialisation vector taken at BEGIN; the reporting address of a key that could not be
  read, and that of a word of the MAC state that failed after retirement (R255) -/
  hdr : Nat
  key : List Byte
  iv : List Byte
  keyBad : Option Nat
  stBad : Option Nat
  /-- poisoned registers with the reporting address (R255) -/
  poison : List (Nat × Nat)
  pend : List StrPend
  deriving DecidableEq, Repr

/-- The register state of one thread (R216), and what else the spec keeps per thread. -/
structure Thr where
  d : Vector Word 16
  a : Vector Word 16
  ac : Vector (BitVec 72) 4
  ls : Vector (BitVec 16) 3
  le : Vector (BitVec 16) 3
  lc : Vector Word 3
  sgBase : Vector Word 8
  sgLimit : Vector Word 8
  sgPerm : Vector (BitVec 3) 8
  /-- STATUS bits 5:0 -/
  status : BitVec 6
  tvec : BitVec 16
  opret : BitVec 16
  cpen : BitVec 10
  tpc : BitVec 16
  tstat : BitVec 9
  tcause : BitVec 16
  tval : Word
  tbtgt : BitVec 16
  tscr0 : Word
  tscr1 : Word
  pc : BitVec 16
  /-- the instruction at `pc` is a delay slot: the word taken after it (R229) -/
  slot : Option (BitVec 16)
  /-- released since engine start (R237) -/
  released : Bool
  /-- waiting in WFE with this event mask, and the data register the status word goes to (R198) -/
  wait : Option (BitVec 5)
  waitD : Fin 16
  /-- latched events of R198 -/
  ev : BitVec 5
  /-- halted by debug (R249, R481), and terminated while halted: trap 0x07 detail 1 is due on resume -/
  halted : Bool
  termDue : Bool
  op : Option OpRun
  /-- post queue (R212): (pail, HEAD_INFO) -/
  post : List (Nat × Nat)
  /-- control page of the pail window (R295): SEND_LEN and COLL -/
  sendLen : Nat
  coll : Bool
  /-- staging words (R318) and the latched subscription (R341) -/
  resSlot : Word
  resW0 : Word
  resStat : Word
  subState : Word
  subSt : Word
  subSq : Word
  /-- press-port window (R191): request words by offset, and STATUS -/
  pp : SMap Word
  ppStat : Word
  sep : Sep
  /-- the first cycle in which it is ready again after a trap or a return (R248), and whether its last instruction was a load,
  whose result may still be outstanding (R188) -/
  after : Nat
  load : Bool
  deriving DecidableEq, Repr

/-- One engine, beside its registers and threads (R189, R192, R260). -/
structure Eng where
  /-- started by ENG_CTRL START and not stopped since (R195, R196) -/
  on : Bool
  shr : Vector Word 16
  /-- the separator's coefficient table: (COS, SIN) -/
  coef : SMap (Word × Word)
  str : Str
  deriving DecidableEq, Repr

/-- The rota (R205 to R213), beside its registers. -/
structure Rota where
  /-- the ready list, oldest first -/
  ents : List OpEnt
  /-- next run number, next readiness number -/
  seq : Nat
  rseq : Nat
  /-- affinity table: index to (OP_ID + 1, engine) -/
  aff : SMap (Nat × Nat)
  /-- operations ended, and operations dispatched, with the tick of their plan -/
  ended : List (Tick × Nat × Nat)
  disp : List (Tick × Nat)
  /-- seals reported to the rota: (plan tick, group) -/
  seals : List (Tick × Nat)
  /-- recompute requests that wait for the churn (R80, R204), oldest first, and whether the first has been counted as
  a stall (R208) -/
  recq : List OpEnt
  stalled : Bool
  /-- ingress table, key bank × 4096 + index × 4 + word (R211, R213) -/
  ing : SMap Word
  deriving DecidableEq, Repr

/-- A committed result (R319, R321). -/
structure Res where
  kind : Nat
  level : Bool
  pub : Nat
  len : Nat
  pail : Nat
  deriving DecidableEq, Repr

/-- A staged result (R318, R320): the run that staged it, its OP_ID and plan, and the status once it has ended. -/
structure Staged where
  slot : Nat
  res : Res
  run : Nat
  id : Nat
  tick : Tick
  st : Option Nat
  deriving DecidableEq, Repr

/-- A frame in a pail on its way through skimmer and switch core (R95, R127, R131, R143). -/
structure Frame where
  pail : Nat
  /-- where the frame starts in its pail: 0, or the place of a publication's frame (R337) -/
  off : Nat
  /-- length without FCS -/
  len : Nat
  input : Nat
  /-- ingress stamp, TAI ns; and its arrival on `clk` -/
  stamp : Nat
  arr : Nat
  /-- number and LAN identifier of the PRP trailer or HSR tag (R114) -/
  rct : Option (Nat × Nat)
  hsr : Bool
  /-- 0 waits for the skimmer, 1 under authentication, 2 waits for its turn behind its input (R270), 3 in the core; its place in the
  order of entry to the in-line queue (R269) -/
  stage : Nat
  ord : Nat
  /-- action words 0 to 2 as they apply to the frame -/
  act0 : Nat
  act1 : Nat
  act2 : Nat
  /-- the exact-match entry hit: KT, INDEX, KEY_SLOT and ALG; ROTA_OP and verdict -/
  hit : Nat
  index : Nat
  slot : Nat
  alg : Nat
  rotaOp : Nat
  verdict : Nat
  /-- dropped by action, subscription or authentication: only ring forwarding remains (R118) -/
  dead : Bool
  /-- flooded because it could not be learned (R148) -/
  excess : Bool
  /-- ring ports, INTERLINK and PEER ports of R118 as an output mask: with the tag kept, and without -/
  ringKeep : Nat
  ringBare : Nat
  /-- the pail is not the switch's to return (R337) -/
  keep : Bool
  deriving DecidableEq, Repr

/-- A copy of a frame for one output (R103, R104, R108). -/
structure Copy where
  /-- number that tells this copy from every other (the model's own name for it) -/
  id : Nat
  fr : Frame
  out : Nat
  /-- 0 as received, 1 trailer and tag removed, 2 a number of pair `pair` added (R117) -/
  mode : Nat
  pair : Nat
  num : Nat
  /-- requester charged with the ingress pail (R108) -/
  req : Nat
  /-- cells, cells that have entered the core, and cells that have left the output's resequencer -/
  cells : Nat
  sent : Nat
  got : Nat
  /-- 0 nothing lost; 1 cells discarded at a port that is down (R100); 2 a cell failed parity (R474); 3 cells discarded at an
  output of a FAULTED byre -/
  lost : Nat
  /-- the frame's bytes in the cells that have entered, and the offsets of bytes whose parity failed in the pail (R294) -/
  data : List Byte
  bad : List Nat
  deriving DecidableEq, Repr

/-- A cell in the switch core (R103, R106): its copy, input, output and sequence number for that pair; its middle queue, none
once the output's resequencer holds it.  Its priority queue is that of the copy's frame. -/
structure Cell where
  copy : Nat
  inp : Nat
  out : Nat
  seq : Nat
  mid : Option Nat
  deriving DecidableEq, Repr

/-- A frame to transmit: its pail and place in it, and what its tally record says. -/
structure Tx where
  pail : Nat
  off : Nat
  /-- switch input it came from -/
  input : Nat
  len : Nat
  stamp : Nat
  cls : Nat
  queue : Nat
  mirror : Bool
  seq : Option Nat
  lanB : Bool
  sched : Bool
  deriving DecidableEq, Repr

/-- The line of a port: the frame on it, its timestamp point without board delay, when it ends, and when the gap after it ends
(TAI ns); the `clk` of its start-of-frame delimiter, and its bytes from the destination address to the padding. -/
structure Line where
  tx : Option Tx
  start : Nat
  fin : Nat
  free : Nat
  sfd : Nat
  bytes : List Byte
  deriving DecidableEq, Repr

/-- What a port put on its line last: the instant of its timestamp point, the bytes from the preamble to the FCS, and whether
the frame ended without a coding error (the model's own record of an output). -/
structure Sent where
  time : Nat
  bytes : List Byte
  good : Bool
  deriving DecidableEq, Repr

/-- An entry of the duplicate filter (R116). -/
structure DupEnt where
  pair : Nat
  sa : Nat
  seq : Nat
  time : Nat
  deriving DecidableEq, Repr

/-- A fragment table entry (R135): key, action and the start of its timer. -/
structure FragEnt where
  key : Nat
  act0 : Nat
  act1 : Nat
  act2 : Nat
  time : Nat
  deriving DecidableEq, Repr

/-- A skimmer entry (R130). -/
structure SkimEnt where
  value : Nat
  mask : Nat
  act0 : Nat
  act1 : Nat
  act2 : Nat
  deriving DecidableEq, Repr

/-- An exact-match entry, by words (R138). -/
structure EmuEnt where
  w0 : Nat
  w1 : Nat
  w2 : Nat
  w3 : Nat
  w4 : Nat
  w5 : Nat
  w6 : Nat
  w7 : Nat
  deriving DecidableEq, Repr

/-- What the press keeps of a membership, key group × 4096 + stream (R172, R173): d, whether a sample was delivered
since the group started, whether the last was late, and the bases as (value, quality) lists. -/
structure Memb where
  d : Nat
  seen : Bool
  late : Bool
  v1 : Option (List (Nat × Nat))
  v2 : Option (List (Nat × Nat))
  deriving DecidableEq, Repr

/-- A record written in a slot and not sealed yet (R163, R165): where it came from, and the held copies with the offset
of the sample in them. -/
structure PRec where
  g : Nat
  t : Tick
  i : Nat
  smpCnt : Nat
  synch : Nat
  arrival : Nat
  rct : Option Nat
  port : Nat
  notSync : Bool
  again : Bool
  twin : Bool
  copy1 : Option (Nat × Nat)
  copy2 : Option (Nat × Nat)
  deriving DecidableEq, Repr

/-- A snapshot group (R162, R169, R176): started, the number of the first tick opened, the number of the next tick to
seal, and its late samples in the present and in the last tick. -/
structure Grp where
  on : Bool
  first : Nat
  next : Nat
  late : Nat
  lateLast : Nat
  deriving DecidableEq, Repr

/-- A calendar entry (R322, R323): its instant, the frame in a pail for a port, and the level for a pin. -/
structure CalEnt where
  l : Nat
  pail : Nat
  off : Nat
  len : Nat
  level : Bool
  /-- its instant had passed when it was written (R325); a publisher's frame is not ready before this instant (R335) -/
  late : Bool
  ready : Nat
  deriving DecidableEq, Repr

/-- The state of a GOOSE publication (R333, R336, R337). -/
structure PubSt where
  stNum : Nat
  sqNum : Nat
  /-- UtcTime of the state, 8 bytes as a big-endian number -/
  t : Nat
  pail : Nat
  len : Nat
  /-- instant and interval (ns) of the next retransmission -/
  next : Nat
  ival : Nat
  /-- its curve has ended without a new state: the byre stopped (R328), or its entry is not in use -/
  stopped : Bool
  deriving DecidableEq, Repr

/-- The state of a GOOSE subscription (R340, R341). -/
structure SubSt where
  st : Nat
  verdict : Nat
  stNum : Nat
  sqNum : Nat
  deadline : Nat
  deriving DecidableEq, Repr

/-- An entry on its way into the recorder's staging buffer (R390 to R394): header fields; the payload, none while the
snapshot's seal is still awaited; the payload bytes copied so far; its place in the ring and number once it has begun; the
plan that it marks; and whether it is the first TRIGGER entry of its window. -/
structure RecJob where
  typ : Nat
  flags : Nat
  src : Nat
  sec : Nat
  k : Nat
  code : Nat
  stamp : Nat
  data : Option (List Byte)
  pos : Nat
  base : Option Nat
  seq : Nat
  mark : Option Tick
  first : Bool
  deriving DecidableEq, Repr

/-- The recorder beside its registers (R389 to R397). -/
structure Recorder where
  /-- staging buffer: DRAM writes (address, bytes) oldest first -/
  stage : List (Nat × List Byte)
  jobs : List RecJob
  /-- number of the next entry; entries were refused since the previous one -/
  seq : Nat
  gap : Bool
  /-- entries in the ring, oldest first: offset and length in 64-byte units, number -/
  ring : List (Nat × Nat × Nat)
  /-- mark table, newest first: plan, offset of its first entry, that entry's number (R396) -/
  marks : List (Tick × Nat × Nat)
  /-- plans since the last arm, and the marked plan that has no entry yet -/
  plans : Nat
  markDue : Option Tick
  tEnd : Tick
  deriving DecidableEq, Repr

/-- A can (R347) without the CRC and the padding. -/
structure Can where
  dst : Nat
  vc : Nat
  hops : Nat
  giveup : Bool
  typ : Nat
  src : Nat
  herd : Nat
  lseq : Nat
  tqok : Bool
  launch : Nat
  payload : List Byte
  deriving DecidableEq, Repr

/-- A can that waits for a link: the pail it holds, and the earliest `clk` of its launch (R357). -/
structure QCan where
  can : Can
  pail : Option Nat
  ready : Nat
  deriving DecidableEq, Repr

/-- An entry of a retry buffer (R354): the can, its failures, and the `clk` of its last launch. -/
structure Retry where
  can : Can
  fails : Nat
  at_ : Nat
  deriving DecidableEq, Repr

/-- A Tugus link beside its registers (R350 to R358). -/
structure TugLink where
  /-- INIT words sent; an INIT word received -/
  initSent : Nat
  initGot : Bool
  /-- TOTAL_RX in force since the last INIT -/
  tot : List Nat
  /-- next LSEQ; retry buffer, oldest first; how many of its cans have gone out since the last failure -/
  txSeq : Nat
  retry : List Retry
  sent : Nat
  /-- the next can goes out with GIVEUP -/
  give : Bool
  /-- expected LSEQ; a can has been accepted; a refused can is awaited -/
  rxSeq : Nat
  acked : Bool
  refusing : Bool
  /-- `clk` of the last ECHO_REQ; ECHO_REQ received and not answered yet: t1 and t2 -/
  echoAt : Nat
  echoDue : List (Nat × Nat)
  /-- the last mailbox event of R359, as `clk` + 1 -/
  evtAt : Nat
  /-- what the link put out last: block type field and payload of a control block (R349, R350), and a can -/
  wordTyp : Nat
  word : Nat
  out : List Byte
  deriving DecidableEq, Repr

/-- Fragments of a share placed for a tick that is open (R365, R366). -/
structure ShareRec where
  g : Nat
  t : Tick
  n : Nat
  frags : List Nat
  arrival : Nat
  late : Bool
  deriving DecidableEq, Repr

/-- The herd membership that the management firmware keeps for a byre (R369). -/
structure Herd where
  /-- 0 NONE, 1 JOINING, 2 MEMBER, 3 ISOLATED -/
  st : Nat
  /-- `clk` of the last JOIN, of the last HEARTBEAT received, and of the last HEARTBEAT sent -/
  joinAt : Nat
  beatAt : Nat
  sentAt : Nat
  /-- the manager has answered the last JOIN -/
  answered : Bool
  /-- joined members of a manager -/
  members : List Nat
  deriving DecidableEq, Repr

/-- A transfer of a byre tanker to HOST in the creamery's staging (R420 to R424): stream, bytes, final CODE of its end
mark, and whether it has been counted as waiting for a descriptor. -/
structure Xfer where
  stream : Nat
  data : List Byte
  code : Nat
  waited : Bool
  deriving DecidableEq, Repr

/-- A mailbox beside its registers and buffers (R411 to R415). -/
structure Mbox where
  /-- CMD, SEQ, LEN, SESSION and CRC of the request whose response is stored, and that response -/
  key : Option (Nat × Nat × Nat × Nat × Nat)
  resp : List Byte
  /-- 0: no command; 1: a command has passed its checks and is to execute; 2 dram_speed, 3 vcore_set, 4 domain_set: it
  waits on hardware -/
  run : Nat
  /-- the request that executes; the host port was reset meanwhile (R403) -/
  req : List Byte
  gone : Bool
  /-- number of its open audit record (R462) -/
  open_ : Option Nat
  /-- order of its RING write (R414) -/
  ord : Nat
  /-- role and fingerprint bytes of the session at check 6 (R460) -/
  role : Nat
  fp : List Byte
  deriving DecidableEq, Repr

/-- An open session (R456 to R458): ID, role, `clk` of its last command, and the fingerprint bytes of R460. -/
structure Sess where
  id : Nat
  role : Nat
  last : Nat
  fp : List Byte
  deriving DecidableEq, Repr

/-- An audit record (R460): its number, bytes 0 to 47, and LINK once written. -/
structure AuditRec where
  seq : Nat
  head : List Byte
  link : Option (List Byte)
  deriving DecidableEq, Repr

/-- The audit log (R460 to R464): records held, oldest first; LINK of the last record erased; next number; LINK of the
newest complete record; first record not exported; wrap permission; commands refused under check 7; records erased
unexported. -/
structure Audit where
  recs : List AuditRec
  prev : List Byte
  next : Nat
  link : List Byte
  exported : Nat
  wrap : Bool
  refused : Nat
  erased : Nat
  deriving DecidableEq, Repr

/-- The power policy of a byre (R499). -/
structure Policy where
  run : Nat
  held : Nat
  ret : Nat
  pfRec : Bool
  deriving DecidableEq, Repr

/-- A voltage request that executes (R494, R495): rail, mV, `clk` of GO. -/
structure Vreq where
  rail : Nat
  mv : Nat
  at_ : Nat
  deriving DecidableEq, Repr

/-- An entry handshake that waits for a block's answer (R487): unit (byre, or 0xC), domain, target, block code, `clk`. -/
structure Shake where
  unit : Nat
  dom : Nat
  target : Nat
  block : Nat
  at_ : Nat
  deriving DecidableEq, Repr

/-- One byre. -/
structure Byre where
  /-- the byre's number, 0 to 5 -/
  num : Nat
  /-- the registers of the byre view, by byre-view offset -/
  regs : SMap Word
  /-- vat, schedule store, code stores and microcode store, by byre-view offset (R26) -/
  mem : List Host.Cell
  /-- words of any memory whose stored parity does not match (R24): (space, address); and words whose next read alone
  fails -/
  badPar : List (Nat × Nat)
  softPar : List (Nat × Nat)
  tu : TimeUnit
  ch : Churn
  /-- threads by e × 8 + t, engines by number -/
  thr : SMap Thr
  eng : SMap Eng
  /-- by engine: its next cycle on `clk`, one cycle per nanosecond (R188, R193); and the cycle from which its slot table and urgent
  thread are in force as written, with the words of SLOT0, SLOT1 and URGENT before (R194) -/
  engCyc : SMap Nat
  slotOld : SMap (Nat × Nat × Nat × Nat)
  rota : Rota
  /-- engine scratch: e × 0x20000 + offset (R189) -/
  scratch : List Host.Cell
  /-- staged results, oldest first, and committed results by slot -/
  staged : List Staged
  results : SMap Res
  /-- the slot that the press read window shows of a group: its vat offset + 1, 0 while none is shown (R182) -/
  shown : SMap Nat
  /-- the key store: bank × 0x2000 + slot × 0x20 + word (R265, R266) -/
  keys : SMap Word
  /-- head of each pool's free list: pail offset + 1, 0 for an empty list (R291) -/
  poolHead : SMap Nat
  /-- the scan of a pool that is being rebuilt: the `clk` at which it reads its next group of 32 state bits, and the groups left (R293) -/
  poolScan : SMap (Nat × Nat)
  /-- words of host-window banks written at a `clk`, with the port that wrote each (R284) -/
  hostWr : Nat × List (Nat × Nat)
  /-- the pail block's state array: pail offset to the requester charged + 1, 0 while free (R289, R291) -/
  charge : SMap Nat
  /-- banks whose wake delay runs: the end on `clk` + 1 (R285) -/
  wakeAt : SMap Nat
  /-- lock waiters: thread e × 8 + t to lock + 1 (R309) -/
  waiters : SMap Nat
  /-- frames of the switch inputs, oldest first (R96, R127); copies for the outputs, oldest first (R104) -/
  inq : List Frame
  copies : List Copy
  /-- priority queues by port × 8 + queue (R109), lines by port, and what was sent last -/
  outq : SMap (List Tx)
  line : SMap Line
  sent : SMap Sent
  /-- the switch core (R103 to R106): slots run since reset, cells in middle queues and resequencers (oldest first), the output
  that each input served last, sequence numbers of each pair (input × 32 + output) next to give and next to release, and
  copies made so far -/
  slotNo : Nat
  cells : List Cell
  served : SMap Nat
  cellNo : SMap Nat
  cellDue : SMap Nat
  copyNo : Nat
  /-- frames that have entered the in-line queue so far (R269) -/
  authNo : Nat
  /-- number and LAN identifier that the metadata of a pail keeps (R114) -/
  pailTag : SMap (Option (Nat × Nat))
  /-- credit deficit of an output (R105), sequence counter of a pair (R117) -/
  deficit : SMap Nat
  pairSeq : SMap Nat
  /-- numbers of pails launched on a pair: key pail × 16 + pair, (1, number, served on PORT_A, served on PORT_B) (R117) -/
  pailNo : SMap (Nat × Nat × Bool × Bool)
  /-- duplicate filter by bucket × 4 + way -/
  dup : SMap (Option DupEnt)
  /-- tally: sampling counts by port × 2 + direction, capture queue, records written since the last RECORD word -/
  smp : SMap Nat
  tallyQ : List (List Byte)
  tallyNew : Nat
  /-- latched high words of the octet counters, by register offset of HI (R126) -/
  octHi : SMap Nat
  /-- skimmer banks by bank × 4096 + index; fragment table -/
  skim : SMap SkimEnt
  frag : SMap (Option FragEnt)
  /-- exact-match unit by location; learning tokens spent (in 1/10⁹) and when, by port; notes -/
  emu : SMap EmuEnt
  lrn : SMap (Nat × Nat)
  notes : List (Nat × Nat × Nat × Nat)
  /-- press tables: bank × 0x10000 + stream × 8 + word, + 0x8000 + group × 8 + word, + 0x8100 + template -/
  ptab : SMap Word
  pressq : List Frame
  memb : SMap Memb
  recs : List PRec
  grp : SMap Grp
  sealq : List SealReq
  /-- end of the last seal pass on `clk` (R170) -/
  sealEnd : Nat
  /-- snapshots sealed for plans that have neither committed nor overrun, oldest first (R168, R180 to R183) -/
  fresh : List Snap
  /-- late samples that wait for the recorder (R184): group, identity, arrival and payload -/
  lateq : List (Nat × Tick × Nat × List Byte)
  /-- TimeQuality, smpSynch and error bound in force at the current boundary (R175) -/
  bq : Nat × Nat × Nat
  /-- skipped ticks as ranges of tick numbers, low inclusive, high exclusive (R42, R56) -/
  skips : List (Nat × Nat)
  /-- calendars by target (R322); outcome of the plan's first LAUNCH of a GOOSE slot (R334) -/
  cal : SMap (List CalEnt)
  goDec : List (Nat × Option CalEnt)
  /-- publication tables (bank × 0x4000 + n × 64 + word), states; subscription tables (bank × 0x1000 + n × 2 + word),
  states -/
  pubTab : SMap Word
  pubSt : SMap (Option PubSt)
  subTab : SMap Word
  subSt : SMap SubSt
  /-- GOOSE retransmissions that wait until input 24 has room, oldest first, with their publication (R96) -/
  retxq : List (Nat × Frame)
  /-- ends of pin pulses on `clk` + 1; capture queue (pin, rising, TAI ns) -/
  pinEnd : SMap Nat
  caps : List (Nat × Bool × Nat)
  /-- the DRAM: every byte written since its content was last undefined, and the number of losses of content -/
  dram : List Host.Cell
  dramGen : Nat
  /-- the metadata region: the check of every block written since its content was last undefined (R381); the generator of neighbour
  refresh (R384) -/
  dramChk : SMap (BitVec 16)
  nbrGen : Word
  /-- training store by point × 128 + channel × 64 + word, and the sets whose word 63 has been written (R386) -/
  train : SMap Word
  trainDone : List Nat
  rcd : Recorder
  /-- frames that output 24 has reassembled for the rota: pail, length, ROTA_OP, verdict, INDEX -/
  ingq : List (Nat × Nat × Nat × Nat × Nat)
  /-- Tugus: links, cans that wait by link × 4 + channel, the credit that the freeing of a pail returns (pail to
  link × 4 + channel + 1), control receive queue (image, credit), tunnel queue (pails), last tunnel event (`clk` + 1) -/
  tug : SMap TugLink
  canq : SMap (List QCan)
  canPail : SMap Nat
  ctlRx : List (List Byte × Option Nat)
  tunq : List Nat
  tunEvt : Nat
  /-- TUN_INJ_STATUS -/
  tunInj : Nat
  /-- share table (bank × 0x400 + entry × 4 + word), shares of open ticks, and per group × 256 + entry the ticks not GOOD
  in a row and whether a fragment has come since the group started -/
  shrTab : SMap Word
  shares : List ShareRec
  shareRun : SMap (Nat × Bool)
  herd : Herd
  /-- tanker channels: where the shadow's and the live set's descriptor lies, as vat offset + 1, 0 for none (R299) -/
  tnkAt : SMap (Nat × Nat)
  /-- HOST transfers skipped while the creamery was away (R14) -/
  hostSkips : Nat
  /-- the byre's queue of mailbox events (R14) and its drop count -/
  evq : List Event
  evDrop : Nat
  /-- debug is unlocked under the Maker key (R459), as the byre's engines see it -/
  unlocked : Bool
  /-- uses of the streams of free values (the model's own field) -/
  free : Nat
  deriving DecidableEq, Repr

/-- The creamery (chapters 14 and 15) and the AON domain (chapter 17), beside their registers. -/
structure Creamery where
  /-- CRM_ and AON_ registers, by management address -/
  regs : SMap Word
  /-- the BAR index 0 memories: mailbox buffers, event entries, MSI-X table (R404), by management address -/
  mem : List Host.Cell
  /-- the firmware runs (R14, R437) -/
  up : Bool
  /-- number of the next event, and events dropped since the last entry was written (R418) -/
  evNum : Nat
  evLost : Nat
  /-- MSI-X vectors raised, oldest first; `clk` + 1 of the last vector 8, and whether another one waits (R406) -/
  irqs : List Nat
  evqAt : Nat
  evqDue : Bool
  /-- time that has passed for the creamery, ns -/
  clk : Nat
  /-- the coarse real-time clock (R52, R54): the TAI nanoseconds it was set to and the `clk` at which -/
  rtc : Option (Nat × Nat)
  /-- frames that left a byre through output 27, oldest first, and drops since the last frame_recv (R433) -/
  hostRx : SMap (List (Nat × List Byte))
  hostDrop : SMap Nat
  /-- bytes that the device has written in host memory (an output) -/
  host : List Host.Cell
  /-- HOST transfers in staging by byre, oldest first (R424) -/
  staging : SMap (List Xfer)
  /-- per ring: completions not signalled, and the `clk` of the first of them (R424) -/
  coal : SMap (Nat × Nat)
  /-- creamery tankers: as `tnkAt` of a byre, with management SRAM offsets (R425) -/
  tnkAt : SMap (Nat × Nat)
  /-- debug is unlocked under the Maker key (R459) -/
  dbg : Bool
  /-- where the creamery stands: 0 held in reset, 1 waiting in BLANK, 2 recovery, 3 an image has been started, 4 asleep in
  CRM retention with its firmware -/
  mode : Nat
  /-- the link is down or the function in D3hot (R486) -/
  linkDown : Bool
  /-- mailboxes; RING writes so far -/
  mb : SMap Mbox
  rings : Nat
  /-- uses of the streams of free values (the model's own field) -/
  free : Nat
  /-- sessions; nonces by mailbox with their `clk`; `clk` of failed opens; no open before this `clk` (R456 to R458) -/
  sess : List Sess
  nonce : SMap (Option (List Byte × Nat))
  fails : List Nat
  barred : Nat
  /-- the OTP fuses by byte offset (R450); DEVICE_KEY has been hidden -/
  otp : SMap Word
  keyHidden : Bool
  /-- the flash (R439): firmware slots 0 A and 1 B, microcode store by byre, package store by byre × 8 + slot, as images;
  the installer key chain, root first, and the Operator secret (R454) -/
  fw : SMap (List Byte)
  ucodeStore : SMap (List Byte)
  packages : SMap (List Byte)
  chain : List (List Byte)
  secret : Option (List Byte)
  /-- boot state record: PREFER, TRIAL, ATTEMPTS, autostart (slot + 1, 0 for none) per byre, power policy per byre -/
  prefer : Nat
  trial : Bool
  attempts : Nat
  autostart : SMap Nat
  policy : SMap (Option Policy)
  /-- the slot the boot ROM started; slots whose three trial starts failed -/
  slot : Nat
  failed : List Nat
  audit : Audit
  /-- firmware's own memory: image loaded as microcode per byre; package last loaded by byre × 2 + bank, and the store slot
  + 1 it came from; counter baselines by byre and register; the herd's device ID; autostarts that wait for an arm -/
  ucode : SMap (List Byte)
  loaded : SMap (List Byte)
  placed : SMap Nat
  base : SMap Word
  devId : Option Nat
  /-- power: rails on per byre, SRAM setting per byre, requests executing -/
  rails : SMap Bool
  sramMv : SMap Nat
  vreq : SMap (Option Vreq)
  /-- CRM_PMB_SLOW as sampled at the release of power-on reset: the PMBus masters run at 100 kHz, otherwise at 400 kHz (R492, R509) -/
  pmbSlow : Bool
  /-- the levels of the wake inputs B0_EV0 to B5_EV3 as the AON receivers see them: input `i` of byre `b` is entry b × 4 + i (R490) -/
  wakePin : SMap Bool
  /-- PMBus: exponents of VOUT_MODE by byre × 2 + page, and the transactions that a byre's master carried out last (R492) -/
  voutExp : SMap Nat
  pmb : SMap (List (List Byte))
  shake : Option Shake
  /-- per byre, 1 + the state for which its power policy was applied last (R499) -/
  polAt : SMap Nat
  /-- VIN is below 4.2 V: the device is held in power-on reset (R497) -/
  porHeld : Bool
  /-- CRM_REFCLK is lost (R500) -/
  crmClkLost : Bool
  /-- the thread of the management processor (R251), and the words of the management SRAM whose parity does not match, by management
  address (R24, R473) -/
  mp : Thr
  badPar : List Nat
  deriving DecidableEq, Repr

/-- The whole machine. -/
structure State where
  byres : Vector Byre 6
  crm : Creamery
  /-- the data of the last management or host read (the model's own field) -/
  busRd : Word
  /-- the commands that wait, first in, first out -/
  pending : List Instr
  deriving DecidableEq, Repr

/-! ### The machine right after reset: power-on reset has been released in AON, every byre domain is off (R501, R502) -/

/-- A time unit whose domain is off. -/
def TimeUnit.zero : TimeUnit where
  sec := 0
  ns := 0
  frac := 0
  latSec := 0
  latNs := 0
  latFrac := 0
  mono := 0
  monoLat := 0
  clk := 0
  stopped := true
  refFail := false
  watchdog := none
  lockedSince := false
  boundBase := 0
  boundAt := 0
  genS := 0
  genK := 0
  genNs := 0
  genRem := 0
  rate := 0
  cur := ⟨0, 0⟩
  issued := false
  freezePend := false
  frozenAt := none
  ppsOut := false
  ppsEnd := 0
  ppsEdge := none
  ppsPassed := none
  ppsInAt := 0
  dlyLog := []

/-- A churn that has run nothing. -/
def Churn.zero : Churn :=
  ⟨none, [], false, none, false, false, 0, false, false, none, false, false, 0, none, [], [], [], 0, []⟩

/-- An empty rota. -/
def Rota.zero : Rota := ⟨[], 0, 0, [], [], [], [], [], false, []⟩

/-- A recorder that has recorded nothing. -/
def Recorder.zero : Recorder := ⟨[], [], 0, false, [], [], 0, none, ⟨0, 0⟩⟩

/-- No herd membership. -/
def Herd.zero : Herd := ⟨0, 0, 0, 0, false, []⟩

/-- Byre `n` with every register at its reset value and every memory, table and queue empty. -/
def Byre.zero (n : Nat) : Byre where
  num := n
  regs := []
  mem := []
  badPar := []
  softPar := []
  tu := TimeUnit.zero
  ch := Churn.zero
  thr := []
  eng := []
  engCyc := []
  slotOld := []
  rota := Rota.zero
  scratch := []
  staged := []
  results := []
  shown := []
  keys := []
  poolHead := []
  poolScan := []
  hostWr := (0, [])
  charge := []
  wakeAt := []
  waiters := []
  inq := []
  copies := []
  outq := []
  line := []
  sent := []
  slotNo := 0
  cells := []
  served := []
  cellNo := []
  cellDue := []
  copyNo := 0
  authNo := 0
  pailTag := []
  deficit := []
  pairSeq := []
  pailNo := []
  dup := []
  smp := []
  tallyQ := []
  tallyNew := 0
  octHi := []
  skim := []
  frag := []
  emu := []
  lrn := []
  notes := []
  ptab := []
  pressq := []
  memb := []
  recs := []
  grp := []
  sealq := []
  sealEnd := 0
  fresh := []
  lateq := []
  bq := (0, 0, 0)
  skips := []
  cal := []
  goDec := []
  pubTab := []
  pubSt := []
  subTab := []
  subSt := []
  retxq := []
  pinEnd := []
  caps := []
  dram := []
  dramGen := 0
  dramChk := []
  nbrGen := 0#32
  train := []
  trainDone := []
  rcd := Recorder.zero
  ingq := []
  tug := []
  canq := []
  canPail := []
  ctlRx := []
  tunq := []
  tunEvt := 0
  tunInj := 0
  shrTab := []
  shares := []
  shareRun := []
  herd := Herd.zero
  tnkAt := []
  hostSkips := 0
  evq := []
  evDrop := 0
  unlocked := false
  free := 0

/-- A separator window that holds no state (R257). -/
def Sep.zero : Sep := ⟨[], 0, 0#32, [], []⟩

/-- A strainer window that holds no state (R257). -/
def Str.zero : Str := ⟨[], 0, false, false, 0, 0, 0, 0, [], 0, 0, [], [], none, none, [], []⟩

/-- A stopped thread, every register 0 (R195). -/
def Thr.zero : Thr where
  d := Vector.replicate 16 0#32
  a := Vector.replicate 16 0#32
  ac := Vector.replicate 4 0#72
  ls := Vector.replicate 3 0#16
  le := Vector.replicate 3 0#16
  lc := Vector.replicate 3 0#32
  sgBase := Vector.replicate 8 0#32
  sgLimit := Vector.replicate 8 0#32
  sgPerm := Vector.replicate 8 0#3
  status := 0#6
  tvec := 0#16
  opret := 0#16
  cpen := 0#10
  tpc := 0#16
  tstat := 0#9
  tcause := 0#16
  tval := 0#32
  tbtgt := 0#16
  tscr0 := 0#32
  tscr1 := 0#32
  pc := 0#16
  slot := none
  released := false
  wait := none
  waitD := 0
  ev := 0#5
  halted := false
  termDue := false
  op := none
  post := []
  sendLen := 0
  coll := false
  resSlot := 0#32
  resW0 := 0#32
  resStat := 0#32
  subState := 0#32
  subSt := 0#32
  subSq := 0#32
  pp := []
  ppStat := 0#32
  sep := Sep.zero
  after := 0
  load := false

/-- The creamery and AON right after power-on reset: the creamery is held until its reset is released (R501), the OTP
holds the lifecycle in which parts leave the factory (R452, R523) and otherwise 0, and the flash is empty (DESIGN CHOICE,
assumption log entry 7). -/
def Creamery.zero : Creamery where
  regs := []
  mem := []
  up := false
  evNum := 0
  evLost := 0
  irqs := []
  evqAt := 0
  evqDue := false
  clk := 0
  rtc := none
  hostRx := []
  hostDrop := []
  host := []
  staging := []
  coal := []
  tnkAt := []
  dbg := false
  mode := 0
  linkDown := true
  mb := []
  rings := 0
  free := 0
  sess := []
  nonce := []
  fails := []
  barred := 0
  otp := [(0, 3#32)]
  keyHidden := false
  fw := []
  ucodeStore := []
  packages := []
  chain := []
  secret := none
  prefer := 0
  trial := false
  attempts := 0
  autostart := []
  policy := []
  slot := 0
  failed := []
  audit := ⟨[], [], 0, [], 0, false, 0, 0⟩
  ucode := []
  loaded := []
  placed := []
  base := []
  devId := none
  rails := []
  sramMv := []
  vreq := []
  pmbSlow := false
  wakePin := []
  voutExp := []
  pmb := []
  shake := none
  polAt := []
  porHeld := false
  crmClkLost := false
  mp := Thr.zero
  badPar := []

/-- The machine right after power-on reset. -/
def State.reset : State where
  byres := #v[Byre.zero 0, Byre.zero 1, Byre.zero 2, Byre.zero 3, Byre.zero 4, Byre.zero 5]
  crm := Creamery.zero
  busRd := 0#32
  pending := []

end Sys2Proof.Machine
end

