-- ==== Sys2Proof/Machine/Ops.lean ====
section
/-!
DEFINITION. The named operations every command is built from: registers and fields, memories, the passing of time,
mailbox events, byre states, machine checks and parity detections.
-/

namespace Sys2Proof.Machine

/-- Replace bits hi:lo of a number. -/
def insBits (old hi lo v : Nat) : Nat := old - bits old hi lo * 2 ^ lo + v % 2 ^ (hi + 1 - lo) * 2 ^ lo

/-- The byre-view offset of the BYx_ block with number `n` (R26). -/
def blockBase (n : Nat) : Nat := 0xC00000 + n * 0x10000

namespace Byre

/-! ### Registers -/

/-- A register's stored word. -/
def rd (y : Byre) (off : Nat) : Word := SMap.get byreRst y.regs off

/-- Store a register's word (the hardware's own update: R7's access types bind management only). -/
def wr (y : Byre) (off : Nat) (w : Word) : Byre := { y with regs := SMap.set byreRst y.regs off w }

/-- A register's word as a number. -/
def rdN (y : Byre) (off : Nat) : Nat := (y.rd off).toNat

/-- Store a number in a register. -/
def wrN (y : Byre) (off v : Nat) : Byre := y.wr off (BitVec.ofNat 32 v)

/-- A field's value. -/
def get (y : Byre) (f : Fld) : Nat := bits (y.rdN f.off) f.hi f.lo

/-- Is a field not 0? -/
def flag (y : Byre) (f : Fld) : Bool := y.get f != 0

/-- Update a field. -/
def set (y : Byre) (f : Fld) (v : Nat) : Byre := y.wrN f.off (insBits (y.rdN f.off) f.hi f.lo v)

/-- Set or clear a one-bit field. -/
def put (y : Byre) (f : Fld) (b : Bool) : Byre := y.set f (b2n b)

/-- Count one event in a counter register; it wraps (R60). -/
def inc (y : Byre) (off : Nat) : Byre := y.wr off (y.rd off + 1#32)

/-- Count `n` events. -/
def incBy (y : Byre) (off n : Nat) : Byre := y.wr off (y.rd off + BitVec.ofNat 32 n)

/-- Apply `f` when `b` holds. -/
def when (y : Byre) (b : Bool) (f : Byre → Byre) : Byre := if b then f y else y

/-! ### Memories (R26: vat and stores by byre-view offset) -/

/-- The word at a byre-view offset. -/
def ldw (y : Byre) (a : Nat) : Nat := (Mem.ldw y.mem a).toNat

/-- Store a word at a byre-view offset. -/
def stw (y : Byre) (a v : Nat) : Byre := { y with mem := Mem.stw y.mem a (BitVec.ofNat 32 v) }

/-- `n` bytes of the vat. -/
def vatRead (y : Byre) (a n : Nat) : List Byte := Mem.read y.mem a n

/-- Store bytes in the vat; the parity of every word that is written whole is renewed (R24). -/
def vatWrite (y : Byre) (a : Nat) (bs : List Byte) : Byre :=
  { y with mem := Mem.write y.mem a bs
           badPar := y.badPar.filter fun q => !(q.1 == 0 && decide (a ≤ q.2) && decide (q.2 + 4 ≤ a + bs.length)) }

/-- Does the stored parity of a word fail (R24)?  Spaces: 0 byre view, 1 scratch, 2 the DRAM, 3 dispatch table,
4 and up: the structures of R474. -/
def parBad (y : Byre) (space a : Nat) : Bool := y.badPar.contains (space, a)

/-- A write of the whole word renews its parity. -/
def parClear (y : Byre) (space a : Nat) : Byre := { y with badPar := y.badPar.filter (· != (space, a)) }

/-! ### Free values -/

/-- Use the stream of free values once. -/
def useFree (y : Byre) : Byre := { y with free := y.free + 1 }

/-! ### Mailbox events (R14, R418) -/

/-- An event of the byre, carrying the identity of the current tick; the byre's queue holds 64, and a full queue drops
and counts it (R14). -/
def event (y : Byre) (code : Nat) (data : List Byte) : Byre :=
  if y.evq.length < 64 then
    { y with evq := y.evq ++ [⟨code, y.num, y.tu.cur.s % 2 ^ 32, y.tu.cur.k, data⟩] }
  else { y with evDrop := y.evDrop + 1 }

/-! ### Time (R30, R46) -/

/-- The byre's time as TAI nanoseconds. -/
def now (y : Byre) : Nat := y.tu.sec * 1000000000 + y.tu.ns

/-- The counter's time in the 64-bit short form (R31): low 32 bits of the second, and nanoseconds. -/
def shortNow (y : Byre) : Nat := y.tu.sec % 2 ^ 32 * 2 ^ 32 + y.tu.ns

/-- Set the counter to a TAI instant. -/
def setTai (y : Byre) (t fr : Nat) : Byre :=
  { y with tu := { y.tu with sec := t / 1000000000 % 2 ^ 48, ns := t % 1000000000, frac := fr } }

/-- The frequency adjustment, in units of 2⁻¹² ppb (R30, BYx_TIME_FADJ). -/
def fadj (y : Byre) : Int := sgn32 (y.get F.TIME_FADJ_FADJ)

/-- `d` ns of the 312.5 MHz clock pass: the TAI counter advances scaled by FADJ, the monotonic count by `d`; neither
moves while the counter is stopped (R39, R51). -/
def advance (y : Byre) (d : Nat) : Byre :=
  let y := { y with tu := { y.tu with clk := y.tu.clk + d } }
  if y.tu.stopped then y
  else
    let step : Int := (d : Int) * 65536 + (d : Int) * 65536 * y.fadj / 4096000000000
    let tot : Nat := (y.now * 65536 + y.tu.frac : Nat) + step.toNat
    let y := y.setTai (tot / 65536) (tot % 65536)
    { y with tu := { y.tu with mono := (y.tu.mono + d) % 2 ^ 63 } }

/-- Let time run until the counter shows the TAI instant `t`; nothing where it already does or is past it, or is stopped. -/
def advanceTo (y : Byre) (t : Nat) : Byre :=
  if y.tu.stopped || decide (t ≤ y.now) then y
  else
    let d : Nat := (((t - y.now : Nat) : Int) * 4096000000000 / (4096000000000 + y.fadj)).toNat
    let y := { y with tu := { y.tu with clk := y.tu.clk + d, mono := (y.tu.mono + d) % 2 ^ 63 } }
    y.setTai t 0

/-- Let time run until `clk` reaches `c`. -/
def advanceClk (y : Byre) (c : Nat) : Byre := y.advance (c - y.tu.clk)

/-- The start of tick s:k at a rate: s + floor(k × 10⁹ / rate) ns (R46). -/
def tickNs (rate : Nat) (t : Tick) : Nat := t.s * 1000000000 + t.k * 1000000000 / rate

/-- The number of a tick counted from s = 0. -/
def tickNo (rate : Nat) (t : Tick) : Nat := t.s * rate + t.k

/-- The tick with that number. -/
def tickOf (rate n : Nat) : Tick := ⟨n / rate, n % rate⟩

/-- The instant of the boundary that the generator issues next. -/
def nextBoundary (y : Byre) : Nat := y.tu.genS * 1000000000 + y.tu.genNs

/-- The first tick whose start is at or after the instant `t` (R47: computed from time). -/
def firstTickFrom (rate t : Nat) : Tick :=
  let ns := t % 1000000000
  let k := (ns * rate + 999999999) / 1000000000
  if k < rate then ⟨t / 1000000000, k⟩ else ⟨t / 1000000000 + 1, 0⟩

/-- Point the generator at a tick (R46's registers, computed directly). -/
def genAt (y : Byre) (t : Tick) : Byre :=
  { y with tu := { y.tu with genS := t.s, genK := t.k, genNs := t.k * 1000000000 / y.tu.rate,
                             genRem := t.k * 1000000000 % y.tu.rate } }

/-- One round of the generator of R46, after a boundary has been issued. -/
def genStep (y : Byre) : Byre :=
  let rate := y.tu.rate
  let k := y.tu.genK + 1
  let rem := y.tu.genRem + 1000000000 % rate
  let ns := y.tu.genNs + 1000000000 / rate
  let ns' := if rate ≤ rem then ns + 1 else ns
  let rem' := if rate ≤ rem then rem - rate else rem
  if k = rate then { y with tu := { y.tu with genS := y.tu.genS + 1, genK := 0, genNs := 0, genRem := 0 } }
  else { y with tu := { y.tu with genK := k, genNs := ns', genRem := rem' } }

/-- Ticks passed over (R42, R56), by number: low inclusive, high exclusive.  They clear the bases of every group (R172). -/
def addSkips (y : Byre) (lo hi : Nat) : Byre :=
  if lo < hi then
    { y with skips := y.skips ++ [(lo, hi)], memb := y.memb.map fun q => (q.1, { q.2 with d := 0, v1 := none, v2 := none }) }
  else y

/-- Start the tick at a rate: the first boundary at or after the present time (R47). -/
def startTick (y : Byre) (rate : Nat) : Byre :=
  let y := { y with tu := { y.tu with rate := rate, issued := false } }
  let fr := if y.tu.frac = 0 then 0 else 1
  ((y.genAt (firstTickFrom rate (y.now + fr))).put F.TIME_STATUS_TICK_RUN true).set F.TIME_TICK_RATE_RATE rate

/-- Stop the tick. -/
def stopTick (y : Byre) : Byre :=
  ({ y with tu := { y.tu with rate := 0, issued := false } }.put F.TIME_STATUS_TICK_RUN false).set F.TIME_TICK_RATE_RATE 0

/-- A low 32-bit second restored to the full second nearest the byre's time, the later of two equally near (R31). -/
def nearSec (y : Byre) (lo : Nat) : Nat :=
  let c := y.tu.sec
  let base := c / 2 ^ 32 * 2 ^ 32 + lo % 2 ^ 32
  if base + 2 ^ 31 ≤ c then base + 2 ^ 32
  else if c + 2 ^ 31 < base ∧ 2 ^ 32 ≤ base then base - 2 ^ 32
  else base

/-! ### Byre states (R465 to R470) -/

/-- State codes of R465. -/
abbrev stOFF : Nat := 0
abbrev stHELD : Nat := 1
abbrev stREADY : Nat := 2
abbrev stRUNNING : Nat := 3
abbrev stTEST : Nat := 4
abbrev stDEGRADED : Nat := 5
abbrev stFAULTED : Nat := 6
abbrev stRETAINED : Nat := 7

/-- The byre's state. -/
def st (y : Byre) : Nat := y.get F.CHURN_BYRE_STATE

/-- RUNNING or DEGRADED: the states in which R19 restricts management writes. -/
def live (y : Byre) : Bool := y.st == stRUNNING || y.st == stDEGRADED

/-- HELD, READY or TEST: the states in which the stores may be written (R27). -/
def idle (y : Byre) : Bool := y.st == stHELD || y.st == stREADY || y.st == stTEST

/-- Bn_OK and the test-quality bit follow the state (R470, R471, R445). -/
def updOk (y : Byre) : Byre :=
  let bench := y.flag F.CHURN_BYRE_BENCH
  (y.put F.CHURN_BYRE_OK (y.live && !bench && y.ch.committedOnce)).put F.CHURN_BYRE_TESTQ (bench || y.st == stTEST)

/-- A BYRE_STATE event (R482). -/
def stateEvent (y : Byre) (new old reason : Nat) (kind index opId addr : Nat) : Byre :=
  y.event 0x10 ([BitVec.ofNat 8 new, BitVec.ofNat 8 old, BitVec.ofNat 8 reason, BitVec.ofNat 8 kind] ++ leBytes 2 index ++
    leBytes 2 opId ++ leBytes 4 addr ++ leBytes 4 0)

/-- RUNNING, TEST or DEGRADED. -/
def runs (st : Nat) : Bool := st == stRUNNING || st == stTEST || st == stDEGRADED

/-- Change the byre's state (R466, R467): the register, Bn_OK and the event; nothing where the state is the same.
Entering RUNNING other than from DEGRADED asks for a new commit before Bn_OK rises (R470).  Leaving RUNNING, DEGRADED and
TEST freezes a recorder in POST (R395). -/
def setState (y : Byre) (new reason : Nat) : Byre :=
  let old := y.st
  if new = old then y
  else
    let y := ((y.set F.CHURN_BYRE_STATE new).set F.CHURN_BYRE_PREV old).set F.CHURN_BYRE_REASON reason
    let y := if new = stRUNNING ∧ old ≠ stDEGRADED then { y with ch := { y.ch with committedOnce := false } } else y
    let y := if y.get F.DRAM_REC_STATE_STATE = 2 ∧ runs old ∧ !runs new then
        (y.set F.DRAM_REC_STATE_STATE 3).put F.DRAM_REC_STATE_FROZEN_EARLY true
      else y
    let y := if new = stFAULTED then { y with ch := { y.ch with entryDue := true } } else y
    y.updOk.stateEvent new old reason 0 0 0 0

/-- A byre machine check (R90): the churn stops at once, CAUSE and address are recorded, and the byre becomes FAULTED
with a MACHINE_CHECK event and then a BYRE_STATE event of reason 0x01 (R467, R483).  The first check since byre reset is
the one recorded; in a FAULTED byre the BYRE_STATE event shows NEW equal to OLD (DEDUCED from R483, assumption log entry 37). -/
def machineCheck (y : Byre) (cause addr : Nat) : Byre :=
  let y := { y with ch := { y.ch with plan := none, pend := [], halted := true } }
  let y := y.set F.CHURN_STATUS_PHASE 7
  let y := if y.flag F.CHURN_MCHK_VALID then y
    else ((y.set F.CHURN_MCHK_CAUSE cause).put F.CHURN_MCHK_VALID true).wrN R.CHURN_MCHK_ADDR addr
  let idx := if cause = 7 then y.get F.CHURN_PAR_CAP_INDEX else 0
  let y := y.event 0x11 (leBytes 1 cause ++ leBytes 3 0 ++ leBytes 4 addr ++ leBytes 4 idx ++ leBytes 4 0)
  if y.st = stFAULTED then y.stateEvent stFAULTED stFAULTED 1 0 0 0 0 else y.setState stFAULTED 1

/-- A parity detection in a structure of R474: counted, captured while no capture is held, and a machine check with
cause 0x7 when it is the second at the same block and index within 1 s (R475). -/
def detect (y : Byre) (block index addr : Nat) : Byre :=
  let y := y.inc R.CHURN_CNT_DATA_PARITY
  let y := if y.flag F.CHURN_PAR_CAP_VALID then y
    else (((y.set F.CHURN_PAR_CAP_BLOCK block).set F.CHURN_PAR_CAP_INDEX index).put F.CHURN_PAR_CAP_VALID true).wrN
      R.CHURN_PAR_ADDR addr
  let again := y.ch.detect.any fun (b, i, c) => b == block && i == index && decide (y.tu.clk < c + 1000000000)
  let y := { y with ch := { y.ch with detect := (y.ch.detect.filter fun (_, _, c) => decide (y.tu.clk < c + 1000000000)) ++
    [(block, index, y.tu.clk)] } }
  if again then y.machineCheck 7 block else y

/-- A detection of R474 whose own effect is a machine check. -/
def detectFatal (y : Byre) (block index addr : Nat) : Byre :=
  let y := y.inc R.CHURN_CNT_DATA_PARITY
  let y := if y.flag F.CHURN_PAR_CAP_VALID then y
    else (((y.set F.CHURN_PAR_CAP_BLOCK block).set F.CHURN_PAR_CAP_INDEX index).put F.CHURN_PAR_CAP_VALID true).wrN
      R.CHURN_PAR_ADDR addr
  y.machineCheck 7 block

/-! ### Which schedule bank is live (R62, R83) -/

/-- The live bank of every table counted with the schedule bank. -/
def bank (y : Byre) : Nat := y.get F.CHURN_STATUS_LIVE_BANK

/-- The standby bank. -/
def stby (y : Byre) : Nat := 1 - y.bank

/-- VERIFIED of a bank. -/
def verified (y : Byre) (b : Nat) : Bool :=
  if b = 0 then y.flag F.CHURN_STATUS_VERIFIED0 else y.flag F.CHURN_STATUS_VERIFIED1

/-- Set VERIFIED of a bank; BYx_CHURN_VERIFY shows the standby bank's. -/
def setVerified (y : Byre) (b : Nat) (v : Bool) : Byre :=
  let y := if b = 0 then y.put F.CHURN_STATUS_VERIFIED0 v else y.put F.CHURN_STATUS_VERIFIED1 v
  y.put F.CHURN_VERIFY_VERIFIED_STBY (y.verified y.stby)

/-- A management write into a table counted with the schedule bank clears that bank's VERIFIED (R83). -/
def tableWritten (y : Byre) (b : Nat) : Byre := y.setVerified b false

/-- Record a reserved encoding written to a register of block `blk` (R9): the flag is set and the address captured by
the first such write since the flag was cleared. -/
def rsvWrite (y : Byre) (blk off : Nat) : Byre :=
  let base := blockBase blk
  let y := if bit (y.rdN (base + 0x70)) 0 then y else y.wrN (base + 0x74) (0x10000000 + y.num * 0x1000000 + off)
  y.wrN (base + 0x70) 1

end Byre

/-! ### The whole machine -/

namespace Creamery

/-- A creamery or AON register's stored word, as a number. -/
def rdN (c : Creamery) (a : Nat) : Nat := (SMap.get crmRst c.regs a).toNat

/-- Store a creamery or AON register. -/
def wrN (c : Creamery) (a v : Nat) : Creamery := { c with regs := SMap.set crmRst c.regs a (BitVec.ofNat 32 v) }

/-- A field's value. -/
def get (c : Creamery) (f : Fld) : Nat := bits (c.rdN f.off) f.hi f.lo

/-- Is a field not 0? -/
def flag (c : Creamery) (f : Fld) : Bool := c.get f != 0

/-- Update a field. -/
def set (c : Creamery) (f : Fld) (v : Nat) : Creamery := c.wrN f.off (insBits (c.rdN f.off) f.hi f.lo v)

/-- Set or clear a one-bit field. -/
def put (c : Creamery) (f : Fld) (b : Bool) : Creamery := c.set f (b2n b)

/-- Count one event; the counter wraps. -/
def inc (c : Creamery) (a : Nat) : Creamery := c.wrN a (c.rdN a + 1)

/-- Raise an MSI-X vector (R406). -/
def raise (c : Creamery) (v : Nat) : Creamery := { c with irqs := c.irqs ++ [v] }

/-- Raise vector 8 (R406): at most once per 10 µs, so one that comes sooner waits until then (DEDUCED, assumption log entry 18). -/
def raiseEv (c : Creamery) : Creamery :=
  if c.evqAt = 0 ∨ c.evqAt + 9999 ≤ c.clk then { c.raise 8 with evqAt := c.clk + 1, evqDue := false } else { c with evqDue := true }

/-- The 32 bytes of an event entry (R418). -/
def entryBytes (e : Event) (num : Nat) : List Byte :=
  leBytes 2 e.code ++ leBytes 1 e.src ++ leBytes 1 0 ++ leBytes 4 e.sec ++ leBytes 2 e.k ++ leBytes 2 0 ++ leBytes 4 num ++
    ((e.data ++ List.replicate 16 0#8).take 16)

/-- Is the event queue full (R418)? -/
def evFull (c : Creamery) : Bool := (c.get F.CRM_EVQ_WR_WR + 1) % 256 == c.get F.CRM_EVQ_RD_RD

/-- Write one entry and advance CRM_EVQ_WR, raising vector 8 where it is enabled (R418, R406). -/
def evWrite (c : Creamery) (e : Event) (num : Nat) : Creamery :=
  let w := c.get F.CRM_EVQ_WR_WR
  let c := { c with mem := Mem.write c.mem (0x02022000 + w * 32) (entryBytes e num) }
  let c := c.set F.CRM_EVQ_WR_WR ((w + 1) % 256)
  if c.flag F.CRM_EVQ_CFG_IRQ_EN then c.raiseEv else c

/-- One event for the event queue (R418): numbered; dropped and counted when the queue is full; the first entry written
after a drop follows an EVQ_LOST entry, which takes a number of its own. -/
def push (c : Creamery) (e : Event) : Creamery :=
  let n := c.evNum
  if c.evFull then { c with evNum := (n + 1) % 2 ^ 32, evLost := c.evLost + 1 }.inc R.CRM_EVQ_CNT_DROP
  else if c.evLost = 0 then { c.evWrite e n with evNum := (n + 1) % 2 ^ 32 }
  else
    let c' := { c.evWrite ⟨0x1, 12, 0, 0, leBytes 4 c.evLost⟩ n with evNum := (n + 1) % 2 ^ 32, evLost := 0 }
    if c'.evFull then { c' with evNum := (n + 2) % 2 ^ 32, evLost := 1 }.inc R.CRM_EVQ_CNT_DROP
    else { c'.evWrite e (n + 1) with evNum := (n + 2) % 2 ^ 32 }

/-- An event of the creamery itself (source 0x0C, no tick identity). -/
def event (c : Creamery) (code : Nat) (data : List Byte) : Creamery := c.push ⟨code, 12, 0, 0, data⟩

/-- The coarse real-time clock, as TAI nanoseconds, where it has been set. -/
def rtcNow (c : Creamery) : Option Nat := c.rtc.map fun (v, t) => v + (c.clk - t)

end Creamery

namespace State

/-- Byre `b`. -/
def byre (s : State) (b : Fin 6) : Byre := s.byres[b]

/-- Replace byre `b`. -/
def setByre (s : State) (b : Fin 6) (y : Byre) : State := { s with byres := s.byres.set b y }

/-- While the firmware runs, it takes a byre's waiting events into the event queue, oldest first (R14, R418). -/
def drain (s : State) (b : Fin 6) : State :=
  if s.crm.up then
    { (s.setByre b { s.byre b with evq := [] }) with crm := (s.byre b).evq.foldl Creamery.push s.crm }
  else s

/-- A step of byre `b` alone: no other byre changes (R13), and of the creamery only the event queue takes what the byre
raised. -/
def onByre (s : State) (b : Fin 6) (f : Byre → Byre) : State := (s.setByre b (f (s.byre b))).drain b

/-- A step of the creamery alone. -/
def onCrm (s : State) (f : Creamery → Creamery) : State := { s with crm := f s.crm }

end State

end Sys2Proof.Machine
end

