-- ==== Sys2Proof/Machine/Mgmt.lean ====
section
/-!
DEFINITION. The management bus (R7, R9, R19, R25 to R29): which accesses are allowed, how a refused one is recorded,
and what a write does to the fields of a register.
-/

namespace Sys2Proof.Machine

/-- The MASTER code of R28. -/
def masterCode : Master → Nat
  | .mp => 0
  | .bar0 => 1
  | .bar2 => 2
  | .jtag => 3
  | .tanker => 4

/-- Cause bits of CRM_BUS_ERR. -/
inductive BusErr where
  | unmapped | domainOff | locked | notOwner | readOnly | align
  deriving DecidableEq, Repr

/-- The bit number of a cause in CRM_BUS_ERR. -/
def BusErr.bit : BusErr → Nat
  | .unmapped => 0
  | .domainOff => 1
  | .locked => 2
  | .notOwner => 3
  | .readOnly => 4
  | .align => 5

/-- Record an error of the management bus (R28, R29): the cause bit is set and the count goes up, saturating; address
and master are captured while no cause is held, and MULTI is set otherwise.  A capture raises vector 10 (R406). -/
def Creamery.busErr (c : Creamery) (e : BusErr) (m : Master) (write : Bool) (a : Nat) : Creamery :=
  let v := c.rdN R.CRM_BUS_ERR
  let held := bits v 5 0 != 0
  let n := c.rdN R.CRM_BUS_ERR_CNT
  let c := c.wrN R.CRM_BUS_ERR_CNT (if n = 0xFFFFFFFF then n else n + 1)
  let c := c.wrN R.CRM_BUS_ERR (insBits v e.bit e.bit 1)
  if held then c.put F.CRM_BUS_ERR_MULTI true
  else ((c.wrN R.CRM_BUS_ERR_ADDR a).wrN R.CRM_BUS_ERR_SRC (b2n write * 256 + masterCode m)).raise 10

/-- The state of a byre's power domain (R485, AON_PWR_STATE): 0 off, 1 retention, 2 on, 3 changing. -/
def Creamery.dom (c : Creamery) (b : Fin 6) (d : Nat) : Nat := bits (c.rdN (R.AON_PWR_STATE b)) (2 * d + 1) (2 * d)

/-- Set the state of a byre's power domain. -/
def Creamery.setDom (c : Creamery) (b : Fin 6) (d v : Nat) : Creamery :=
  c.wrN (R.AON_PWR_STATE b) (insBits (c.rdN (R.AON_PWR_STATE b)) (2 * d + 1) (2 * d) v)

/-- Domain codes of R485. -/
abbrev domTIME : Nat := 0
abbrev domFAB : Nat := 1
abbrev domCL : Nat := 2
abbrev domPRT0 : Nat := 6
abbrev domPRT1 : Nat := 7
abbrev domPRU : Nat := 8
abbrev domDRM : Nat := 9

namespace Creamery

/-- A word of the OTP window (R450); DEVICE_KEY reads 0 once hidden. -/
def otpWord (c : Creamery) (o : Nat) : Word :=
  if c.keyHidden && decide (0x80 ≤ o) && decide (o < 0xA0) then 0#32 else SMap.get (fun _ => 0#32) c.otp o

/-- Lifecycles of R452. -/
abbrev lcBLANK : Nat := 0
abbrev lcMAKER : Nat := 1
abbrev lcUNCLAIMED : Nat := 3
abbrev lcFIELD : Nat := 7
abbrev lcRETIRED : Nat := 15

/-- LIFECYCLE; any pattern that is not a state's reads as RETIRED. -/
def lifecycle (c : Creamery) : Nat :=
  let v := (c.otpWord 0).toNat % 16
  if v = 0 ∨ v = 1 ∨ v = 3 ∨ v = 7 then v else lcRETIRED

/-- Does JTAG reach the bus (R452, R459): the TAP is fully open, or debug is unlocked? -/
def jtagOpen (c : Creamery) : Bool := c.dbg || c.lifecycle == lcBLANK || c.lifecycle == lcMAKER

/-- Does the host reach the device's BARs: the firmware runs, or the endpoint enumerates in recovery (R437, R447)? -/
def hostOpen (c : Creamery) : Bool := c.up || c.mode == 2

end Creamery

namespace State

/-- Is the master cut off from the bus?  An access of such a master does not take place, and leaves no record. -/
def shut (s : State) (m : Master) : Bool :=
  match m with
  | .jtag => !s.crm.jtagOpen
  | .bar0 => !s.crm.hostOpen
  | .bar2 => !s.crm.hostOpen
  | _ => false

/-- Is a power domain of the byre on? -/
def on (s : State) (b : Fin 6) (d : Nat) : Bool := s.crm.dom b d == 2

/-- A step of a byre's FAB domain: it takes place only while the domain is on. -/
def onFab (s : State) (b : Fin 6) (f : Byre → Byre) : State := if s.on b domFAB then s.onByre b f else s

/-- A step of a byre at an instant of its own time: it takes place only while the FAB domain is on and the counter runs (R39). -/
def onClock (s : State) (b : Fin 6) (f : Byre → Byre) : State :=
  if (s.byre b).tu.stopped then s else s.onFab b f

/-- Record a refused management access; one of a master that is cut off from the bus leaves no record. -/
def busErr (s : State) (e : BusErr) (m : Master) (write : Bool) (a : Nat) : State :=
  if s.shut m then s else s.onCrm fun c => c.busErr e m write a

end State

/-- The power domain of a port: PRT0, PRT1 or PRU (R485). -/
def portDom (p : Nat) : Nat := if p < 10 then domPRT0 else if p < 20 then domPRT1 else domPRU

/-- The cluster of an engine: eight engines each (R11). -/
def clusterOf (e : Nat) : Nat := e / 8

/-- Does the register have a W1C field? -/
def RegD.w1c (r : RegD) : Bool := r.flds.any fun f => f.acc == .w1c

namespace Byre

/-- The owner code of a vat bank (BYx_VAT_OWNER, R280). -/
def bankOwner (y : Byre) (bk : Nat) : Nat := y.get (F.VAT_OWNER_OWNER bk)

/-- The byre registers that management may write while the byre is RUNNING or DEGRADED (R19): the epoch-arm registers and
those R371 counts with them, the windows of the standby tables and of the stream table, the standby skimmer bank's
default action, the recorder command, ABORT and DOORBELL of the tankers (R313), and registers with W1C bits. -/
def r19ok (y : Byre) (off : Nat) : Bool :=
  let rg (lo hi : Nat) : Bool := decide (lo ≤ off) && decide (off ≤ hi)
  rg R.CHURN_ARM_SEC R.CHURN_ARM || off == R.CHURN_VERIFY ||
  off == R.SKIM_ENT_CMD || rg (R.SKIM_ENT_KEY 0) (R.SKIM_ENT_ACT 2) ||
  rg (R.SKIM_DEF y.stby 0) (R.SKIM_DEF y.stby 2) ||
  off == R.EMU_CMD || rg (R.EMU_ENT 0) (R.EMU_ENT 7) ||
  off == R.PRESS_CFG_CMD || rg (R.PRESS_CFG_DATA 0) (R.PRESS_CFG_DATA 7) ||
  off == R.ROTA_ING_CMD || rg (R.ROTA_ING_DATA 0) (R.ROTA_ING_DATA 3) ||
  off == R.ROTA_KEY_CMD || rg R.ROTA_KEY_HDR R.ROTA_KEY_ID1 || rg (R.ROTA_KEY_DATA 0) (R.ROTA_KEY_DATA 7) ||
  off == R.CAL_PUB_CMD || off == R.CAL_SUB_CMD || rg (R.CAL_PUB_DATA 0) (R.CAL_PUB_DATA 63) ||
  rg (R.CAL_SUB_DATA 0) (R.CAL_SUB_DATA 3) ||
  off == R.TUG_SHR_CMD || rg (R.TUG_SHR_DATA 0) (R.TUG_SHR_DATA 2) ||
  off == R.TUG_CTL_TX_CMD || rg (R.TUG_CTL_TX_DATA 0) (R.TUG_CTL_TX_DATA 59) || off == R.TUG_MGR || off == R.TUG_ROOT ||
  rg (R.TUG_ROUTE_MEMBER 0) (R.TUG_ROUTE_AREA 7) ||
  off == R.DRAM_REC_CMD ||
  (rg (R.TNK_CTRL 0) (R.TNK_CTRL 15) && (off - R.TNK_CTRL 0) % 0x100 == 0) ||
  (byreReg off).elim false RegD.w1c

/-- What stops a management access to the byre view (R26, R27, R28, R19), the FAB domain being on: the map, then the alignment, the
owner and the lock of R19 (which cause is recorded where two hold is the model's choice: DEDUCED, assumption log entry 14).  A bank
that is retained or still waking refuses the access too (R283, R285).  Of a bank that the host window owns, every word may be a
descriptor's (R301, R313), so R19 refuses none (DEDUCED, log entry 14). -/
def mgmtErr (y : Byre) (off : Nat) (write : Bool) : Option BusErr :=
  if off < 0xC00000 then
    let k := off / 0x40000
    if y.bankOwner k != 0x20 || y.flag (F.VAT_OWNER_RETAINED k) || y.flag (F.VAT_OWNER_WAKING k) then some .notOwner else none
  else if off < 0xD00000 then
    if (byreReg (off / 4 * 4)).isNone then some .unmapped
    else if off % 4 != 0 then some .align
    else if write && y.live && !y.r19ok off then some .locked else none
  else if off < 0xE00000 then
    if write && (off - 0xD00000) / 0x80000 == y.bank then some .notOwner else none
  else if off < 0xF10000 then
    if y.idle then none else some .notOwner
  else some .unmapped

/-- The line options of R93 for port index `p`. -/
def lineLegal (p v : Nat) : Bool :=
  v == 0 || (if p < 20 then decide (1 ≤ v) && decide (v ≤ 3) else if p < 22 then v == 1 || v == 4 else v == 5)

/-- A field's written value passes R9: the table's own reserved encodings, and those that depend on other registers. -/
def fldLegal (y : Byre) (off : Nat) (f : FldD) (new : Nat) : Bool :=
  let v := bits new f.hi f.lo
  f.legal v &&
  (if off = R.SW_TALLY_CTRL ∧ f.lo = 16 then decide (4 ≤ v) && (if bit new 30 then decide (v ≤ 24) else decide (v ≤ 11))
   else if off = R.SW_TALLY_BASE then v % 2 ^ y.get F.SW_TALLY_CTRL_SIZE_LOG2 == 0
   else if off = R.DRAM_REC_PANIC ∧ f.lo = 8 then decide (1 ≤ v) && decide (v ≤ 128)
   else if off = R.DRAM_REC_PANIC ∧ f.lo = 0 then decide (v < bits new 15 8)
   else if off = R.DRAM_REC_CTRL ∧ f.lo = 31 then
     v == 0 || (decide (4096 ≤ y.rdN R.DRAM_REC_SIZE) &&
       decide ((y.rdN R.DRAM_REC_BASE + y.rdN R.DRAM_REC_SIZE) * 64 ≤ y.get F.DRAM_SIZE_MIB * 1048576))
   else if decide (R.SW_PORT_CTRL 0 ≤ off) && decide (off ≤ R.SW_PORT_CTRL 23) && (off - R.SW_PORT_CTRL 0) % 0x100 == 0 &&
     f.lo == 27 then lineLegal ((off - R.SW_PORT_CTRL 0) / 0x100) v
   else if off = R.PRESS_CFG_CMD ∧ f.lo = 0 then
     (match if bits new 28 27 = 3 then y.get F.PRESS_CFG_CMD_TABLE else bits new 28 27 with
      | 0 => true
      | 1 => decide (v < 8)
      | _ => decide (1 ≤ v) && decide (v < 64))
   else true)

/-- What a write does to a register's stored word (R7, R9), and whether it held a reserved encoding. -/
def applyFlds (y : Byre) (off : Nat) : List FldD → Nat → Nat → Nat × Bool
  | [], old, _ => (old, false)
  | f :: fs, old, new =>
    let v := bits new f.hi f.lo
    match f.acc with
    | .rw =>
      if y.fldLegal off f new then applyFlds y off fs (insBits old f.hi f.lo v) new
      else ((applyFlds y off fs old new).1, true)
    | .w1c =>
      let o := bits old f.hi f.lo
      applyFlds y off fs (insBits old f.hi f.lo (o - (o &&& v))) new
    | _ => applyFlds y off fs old new

/-- Does a field that names a bank name the live one of a RUNNING or DEGRADED byre: a locked write to the table (R19, R153, R213,
R265, R333, R339, R364)? -/
def lockedBank (y : Byre) (f : Fld) : Bool := y.live && y.get f == y.bank

/-- A management write of a register's fields, reserved encodings refused and flagged (R9). -/
def writeFlds (y : Byre) (off new : Nat) : Byre :=
  match byreReg off with
  | none => y
  | some r =>
    let (v, bad) := y.applyFlds off r.flds (y.rdN off) new
    let y := y.wrN off v
    if bad then y.rsvWrite ((off - 0xC00000) / 0x10000) off else y

end Byre

namespace State

/-- The management address of a byre-view offset (R10). -/
def byreAddr (b : Fin 6) (off : Nat) : Nat := 0x10000000 + b * 0x1000000 + off

/-- Does a master reach an address (R17, R25, R401): the host reaches the ranges of its BARs only, a creamery tanker the management
SRAM and the vats, the management processor and JTAG the whole view? -/
def reaches (m : Master) (a : Nat) : Bool :=
  match m with
  | .mp => true
  | .jtag => true
  | .bar0 => decide (0x2000000 ≤ a) && decide (a < 0x4000000)
  | .bar2 => decide (0x4000000 ≤ a) && decide (a < 0x8000000)
  | .tanker => (decide (0x400000 ≤ a) && decide (a < 0x800000)) ||
      (decide (0x10000000 ≤ a) && decide (a < 0x16000000) && decide (a % 0x1000000 < 0xC00000))

/-- What stops an access of a master to an offset of a byre view (R28). -/
def stop (s : State) (b : Fin 6) (m : Master) (off : Nat) (write : Bool) : Option BusErr :=
  if s.shut m || !reaches m (byreAddr b off) then some .unmapped
  else if !s.on b domFAB then some .domainOff
  else (s.byre b).mgmtErr off write

/-- A management write to an offset of a byre view, which `lock` refuses beside R19: refused and recorded once (R28, R29), or
applied as `f` says. -/
def lockedWrite (s : State) (b : Fin 6) (m : Master) (off : Nat) (lock : Byre → Bool) (f : Byre → Byre) : State :=
  match s.stop b m off true with
  | some e => s.busErr e m true (byreAddr b off)
  | none => if lock (s.byre b) then s.busErr .locked m true (byreAddr b off) else s.onByre b f

/-- A management write to an offset of a byre view: refused and recorded (R28), or applied as `f` says. -/
def mgmtWrite (s : State) (b : Fin 6) (m : Master) (off : Nat) (f : Byre → Byre) : State :=
  s.lockedWrite b m off (fun _ => false) f

/-- A management write that R19 does not list: refused while the byre is RUNNING or DEGRADED, although other writes of the
same register are not. -/
def stoppedWrite (s : State) (b : Fin 6) (m : Master) (off : Nat) (f : Byre → Byre) : State := s.lockedWrite b m off Byre.live f

/-- A write of a register that is applied only while the byre is HELD, READY or TEST, and is a locked write in any other
state. -/
def idleWrite (s : State) (b : Fin 6) (m : Master) (off : Nat) (f : Byre → Byre) : State :=
  s.lockedWrite b m off (fun y => !y.idle) f

/-- A write that R19 locks and that its own rule calls a reserved encoding in the same state (R285, R287): recorded as both (DEDUCED,
assumption log entry 16). -/
def rsvLocked (s : State) (b : Fin 6) (m : Master) (off : Nat) (rsv : Bool) (f : Byre → Byre) : State :=
  let s' := s.mgmtWrite b m off f
  if rsv && s.stop b m off true == some .locked then s'.onByre b fun y => y.rsvWrite ((off - 0xC00000) / 0x10000) off else s'

/-- A management read of an offset of a byre view: 0 with the error recorded (R28), or what `f` answers. -/
def mgmtRead (s : State) (b : Fin 6) (m : Master) (off : Nat) (f : Byre → Byre × Nat) : State :=
  match s.stop b m off false with
  | some e => { s.busErr e m false (byreAddr b off) with busRd := 0#32 }
  | none =>
    let (y, v) := f (s.byre b)
    { s.onByre b (fun _ => y) with busRd := BitVec.ofNat 32 v }

/-- A write of the word `v` to a GO register: its fields go in (R7, R9), and where GO, bit 31, is set the operation `run` that
they name runs.  Where `locked` finds in those fields a write that R19 does not allow, nothing is stored, `deny` answers, and the
write is recorded as a locked one (R28). -/
def goWrite (s : State) (b : Fin 6) (m : Master) (off v : Nat) (locked : Byre → Bool) (deny run : Byre → Byre) : State :=
  match s.stop b m off true with
  | some e => s.busErr e m true (byreAddr b off)
  | none =>
    if bit v 31 && (s.byre b).live && locked ((s.byre b).writeFlds off v) then
      (s.onByre b deny).busErr .locked m true (byreAddr b off)
    else s.onByre b fun y => (y.writeFlds off v).when (bit v 31) run

end State

end Sys2Proof.Machine
end

