-- ==== Sys2Proof/Machine/Time.lean ====
section
/-!
DEFINITION. The time unit (chapter 2): the servo and its watchdog, steps, leap seconds, the error bound and quality,
reference clock loss and return, and the PPS pins.
-/

namespace Sys2Proof.Machine

namespace Byre

/-- Time states of R36. -/
abbrev tFREE : Nat := 0
abbrev tACQ : Nat := 1
abbrev tLOCKED : Nat := 2
abbrev tHOLD : Nat := 3

/-- The time state. -/
def tst (y : Byre) : Nat := y.get F.TIME_STATUS_STATE

/-- Enter a time state. -/
def setTst (y : Byre) (v : Nat) : Byre := y.set F.TIME_STATUS_STATE v

/-- The error bound of R37: the base plus HOLD_DRIFT ppb of the time since the write that set it; saturating, and
0xFFFF_FFFF in FREE. -/
def errBound (y : Byre) : Nat :=
  if y.tst = tFREE then 0xFFFFFFFF
  else min 0xFFFFFFFF (y.tu.boundBase + y.get F.TIME_HOLD_HOLD_DRIFT * (y.tu.clk - y.tu.boundAt) / 1000000000)

/-- Update BYx_TIME_ERR_BOUND (R37). -/
def updBound (y : Byre) : Byre := y.wrN R.TIME_ERR_BOUND y.errBound

/-- TimeAccuracy of R38: the largest N from 0 to 30 with 2⁻ᴺ s at or above the bound, 31 above 1 s or in FREE. -/
def timeAccuracy (y : Byre) : Nat :=
  if y.tst = tFREE then 31
  else
    let b := y.errBound
    match (List.range 31).reverse.find? fun n => decide (b * 2 ^ n ≤ 1000000000) with
    | some n => n
    | none => 31

/-- Derive the published quality from the state (R38): smpSynch, LeapSecondsKnown, ClockFailure, ClockNotSynchronized
and TimeAccuracy. -/
def updQual (y : Byre) : Byre :=
  let locked := y.tst == tLOCKED
  let tq := b2n (y.flag F.TIME_UTC_VALID) * 128 + y.get F.TIME_STATUS_CLK_FAIL * 64 + b2n (!locked) * 32 + y.timeAccuracy
  (y.set F.TIME_QUAL_TQ tq).set F.TIME_QUAL_SMPSYNCH (if locked then 2 else 1)

/-- Start or restart the 2 s servo watchdog (R36). -/
def wdStart (y : Byre) : Byre := { y with tu := { y.tu with watchdog := some (y.tu.clk + 2000000000) } }

/-- The time unit takes a write's BOUND_NS: register field and bound base (R37). -/
def takeBound (y : Byre) (v : Nat) : Byre :=
  let y := y.set F.TIME_SERVO_BOUND_NS v
  { y with tu := { y.tu with boundBase := v % 2 ^ 24, boundAt := y.tu.clk } }

/-- Loss of lock (R36): LOCKED goes to HOLDOVER, counted; ACQUIRING goes to HOLDOVER where LOCKED was reached since the
counter was loaded, otherwise to FREE. -/
def servoLoss (y : Byre) : Byre :=
  if y.tst = tLOCKED then (y.setTst tHOLD).inc R.TIME_CNT_LOCK_LOSS
  else if y.tst = tACQ then (if y.tu.lockedSince then y.setTst tHOLD else y.setTst tFREE)
  else y

/-- REQ none (R36). -/
def servoNone (y : Byre) (bound : Nat) : Byre :=
  let y := (y.wdStart).set F.TIME_SERVO_REQ 0
  if y.tst = tLOCKED ∨ y.tst = tACQ then y.servoLoss else y.takeBound bound

/-- REQ ACQUIRING (R36). -/
def servoAcq (y : Byre) (bound : Nat) : Byre :=
  (((y.wdStart).set F.TIME_SERVO_REQ 1).setTst tACQ).takeBound bound

/-- REQ LOCKED (R36): from ACQUIRING or LOCKED; in FREE or HOLDOVER refused and counted, state and bound kept. -/
def servoLocked (y : Byre) (bound : Nat) : Byre :=
  let y := y.wdStart
  if y.tst = tFREE ∨ y.tst = tHOLD then y.inc R.TIME_CNT_BAD_REQ
  else
    let y := ((y.set F.TIME_SERVO_REQ 2).setTst tLOCKED).takeBound bound
    let y := { y with tu := { y.tu with lockedSince := true } }
    let y := y.put F.TIME_STATUS_SRC_RTC false
    if y.tu.refFail then y else y.put F.TIME_STATUS_CLK_FAIL false

/-- The reserved REQ 0b11 (R36): RSV_WR, REQ kept, BOUND_NS taken, watchdog restarted. -/
def servoRsv (y : Byre) (bound : Nat) : Byre := ((y.wdStart).rsvWrite 10 R.TIME_SERVO).takeBound bound

/-- A whole write of BYx_TIME_SERVO (R36). -/
def servoWrite (y : Byre) (v : Nat) : Byre :=
  if bit v 29 then y.wdStart
  else match bits v 31 30 with
    | 0 => y.servoNone (bits v 23 0)
    | 1 => y.servoAcq (bits v 23 0)
    | 2 => y.servoLocked (bits v 23 0)
    | _ => y.servoRsv (bits v 23 0)

/-- Is the thread the servo's owner (R58)? -/
def servoOwner (y : Byre) (e t : Nat) : Bool :=
  y.get F.TIME_SERVO_OWNER_ENGINE == e && y.get F.TIME_SERVO_OWNER_THREAD == t

/-- The step Δ as the registers stand (R41). -/
def stepDelta (y : Byre) : Int := sgn32 (y.rdN R.TIME_STEP_SEC) * 1000000000 + sgn32 (y.rdN R.TIME_STEP_NS)

/-- Move the counter by Δ: it steps, and nothing else does (R41, R55).  A step forward passes over the second boundaries before the new
time, the last of which is kept for R44. -/
def jump (y : Byre) (d : Int) : Byre :=
  let m : Int := 281474976710656000000000
  let t := y.now
  let y := y.setTai (((t : Int) + d) % m).toNat y.tu.frac
  let last := (y.now - 1) / 1000000000
  { y with tu := { y.tu with ppsPassed := if t < last * 1000000000 then some last else none } }

/-- A step request (R41): STEP_PEND is set unless a step is pending; the value is stored unless reserved (R9).  A reserved value
requests the step all the same: R41 has a write request it, and R9 keeps back the value only (DEDUCED, assumption log entry 83). -/
def stepRequest (y : Byre) (v : Nat) : Byre :=
  let i := sgn32 (v % 2 ^ 32)
  let y := if -999999999 ≤ i ∧ i ≤ 999999999 then y.wrN R.TIME_STEP_NS v else y.rsvWrite 10 R.TIME_STEP_NS
  y.put F.TIME_STATUS_STEP_PEND true

/-- The pending step applies (R41 to R43): at the next boundary instant while the tick runs, which is not issued there;
the first boundary at or after the new time that is later than the last one issued comes next.  Ticks passed over count
as skipped, and a step back lengthens the tick. -/
def stepApply (y : Byre) : Byre :=
  if !y.flag F.TIME_STATUS_STEP_PEND || y.tu.stopped then y
  else if y.tu.rate = 0 ∨ y.tu.frozenAt.isSome then
    ((y.jump y.stepDelta).put F.TIME_STATUS_STEP_PEND false).inc R.TIME_CNT_STEP
  else
    let rate := y.tu.rate
    let t : Tick := ⟨y.tu.genS, y.tu.genK⟩
    let y := y.advanceTo y.nextBoundary
    let bt := y.now
    let y := ((y.jump y.stepDelta).put F.TIME_STATUS_STEP_PEND false).inc R.TIME_CNT_STEP
    let f := firstTickFrom rate (y.now + if y.tu.frac = 0 then 0 else 1)
    let nf := tickNo rate f
    let nt := tickNo rate t
    if nf < nt then (y.genAt t).inc R.TIME_CNT_LONG_STEP
    else
      let y := ((y.genAt f).incBy R.TIME_CNT_SKIP_STEP (nf - nt)).addSkips nt nf
      if y.now < bt then y.inc R.TIME_CNT_LONG_STEP else y

/-- The counter is loaded from the coarse clock (R52, R39): FREE with SRC_RTC, within ±31 µs of that clock, the
watchdog stopped; where the coarse clock was never set, the counter starts at 0 with CLK_FAIL. -/
def loadCounter (y : Byre) (rtc : Option Nat) : Byre :=
  let y := { y with tu := { y.tu with watchdog := none, lockedSince := false, stopped := false, ppsPassed := none } }
  let y := y.setTst tFREE
  match rtc with
  | some t =>
    let ofs := Config.rtcLoadOfs y.free % 62001
    ((y.useFree).setTai (t + ofs - 31000) 0).put F.TIME_STATUS_SRC_RTC true
  | none => ((y.setTai 0 0).put F.TIME_STATUS_SRC_RTC false).put F.TIME_STATUS_CLK_FAIL true

/-- Does the tick generator issue boundaries: a rate, no freeze in force, the counter running (TICK_RUN)? -/
def updTickRun (y : Byre) : Byre :=
  y.put F.TIME_STATUS_TICK_RUN (y.tu.rate != 0 && y.tu.frozenAt.isNone && !y.tu.stopped)

/-- Bn_REFCLK is lost for more than 1 µs (R39): the counter stops and CLK_FAIL is set; machine check 0x6 where the byre's FAB domain is
on to take it. -/
def refclkLoss (y : Byre) (fab : Bool) : Byre :=
  if y.tu.refFail then y
  else
    let y := { y with tu := { y.tu with stopped := true, refFail := true } }
    (((y.put F.TIME_STATUS_REFCLK_OK false).put F.TIME_STATUS_CLK_FAIL true).updTickRun).when fab fun y => y.machineCheck 6 0

/-- The generator of a running tick begins anew at the first boundary at or after the present time, but issues no identity twice
(R43, R47). -/
def retick (y : Byre) : Byre :=
  if y.tu.rate = 0 ∨ y.tu.frozenAt.isSome then y
  else
    let f := firstTickFrom y.tu.rate (y.now + if y.tu.frac = 0 then 0 else 1)
    y.genAt (tickOf y.tu.rate (max (tickNo y.tu.rate f) (if y.tu.issued then tickNo y.tu.rate y.tu.cur + 1 else 0)))

/-- REFCLK_OK has been set again for 1 ms (R39): the loss's CLK_FAIL clears, the counter is loaded as at a wake, and
the monotonic count resumes with DISC set.  Where no loss is recorded, the clock is only seen present. -/
def refclkReturn (y : Byre) (rtc : Option Nat) : Byre :=
  let y := y.put F.TIME_STATUS_REFCLK_OK true
  if y.tu.refFail then
    let y := { y with tu := { y.tu with refFail := false, clk := y.tu.clk + 1000000 } }
    (((y.put F.TIME_STATUS_CLK_FAIL false).loadCounter rtc).put F.TIME_MONO_HI_DISC true).retick.updTickRun
  else y

/-- The servo watchdog expires (R36), 2 s after the last write of BYx_TIME_SERVO.  It runs on the counter's clock and so does not
expire while a REFCLK loss stops that (DEDUCED, assumption log entry 83). -/
def wdExpire (y : Byre) : Byre :=
  match y.tu.stopped, y.tu.watchdog with
  | true, _ => y
  | _, none => y
  | false, some c =>
    let y := y.advanceClk c
    let y := { y with tu := { y.tu with watchdog := none } }
    (y.inc R.TIME_CNT_WATCHDOG).servoLoss

/-- The TAI second at which a leap second applies, at or after the present second (R33): the start of the inserted second
for LEAP61, and the second that UTC would show as 23:59:59 for LEAP59.  Where both flags are set LEAP61 applies (DESIGN CHOICE: the
spec does not say; assumption log entry 83). -/
def leapSec (y : Byre) : Nat :=
  let ofs := y.get F.TIME_UTC_OFFSET
  let target := if y.flag F.TIME_UTC_LEAP61 then 0 else 86399
  let from_ := if y.tu.ns = 0 then y.tu.sec else y.tu.sec + 1
  from_ + (target + ofs + 86400 - from_ % 86400) % 86400

/-- The UTC offset in force at an instant `t` at or after the present (R33): a pending leap second that has come by then counts. -/
def utcOfs (y : Byre) (t : Nat) : Nat :=
  let ofs := y.get F.TIME_UTC_OFFSET
  if (y.flag F.TIME_UTC_LEAP61 ∨ y.flag F.TIME_UTC_LEAP59) ∧ y.leapSec * 1000000000 ≤ t then
    (if y.flag F.TIME_UTC_LEAP61 then ofs + 1 else ofs + 65535) % 65536
  else ofs

/-- The leap second applies (R33): OFFSET moves by one and both flags clear. -/
def leapApply (y : Byre) : Byre :=
  if (y.flag F.TIME_UTC_LEAP61 ∨ y.flag F.TIME_UTC_LEAP59) ∧ y.tu.stopped = false then
    let up := y.flag F.TIME_UTC_LEAP61
    let y := y.advanceTo (y.leapSec * 1000000000)
    let ofs := y.get F.TIME_UTC_OFFSET
    ((y.set F.TIME_UTC_OFFSET (if up then ofs + 1 else ofs + 65535)).put F.TIME_UTC_LEAP61 false).put F.TIME_UTC_LEAP59 false
  else y

/-- The instant of the next PPS output edge (R44): the first second boundary plus OFS after the present time, or at it
when that edge has not been presented; a boundary that a step has passed over has no edge. -/
def ppsNext (y : Byre) : Nat :=
  let ofs := sgn32 (y.rdN R.TIME_PPS_OUT_OFS)
  let n : Int := y.now
  let sec : Int := (n - ofs + 999999999) / 1000000000
  let sec := if y.tu.ppsPassed.any fun p => decide (sec ≤ (p : Int)) then (y.tu.ppsPassed.getD 0 : Int) + 1 else sec
  let t := (sec * 1000000000 + ofs).toNat
  if y.tu.ppsEdge = some t ∧ t = y.now then t + 1000000000 else t

/-- A PPS output edge: a pulse of WIDTH_US begins (R44). -/
def ppsOutEdge (y : Byre) : Byre :=
  if !y.flag F.TIME_PPS_OUT_EN || y.tu.stopped then y
  else
    let t := y.ppsNext
    let y := y.advanceTo t
    { y with tu := { y.tu with ppsEdge := some t, ppsOut := true,
                               ppsEnd := y.tu.clk + y.get F.TIME_PPS_OUT_WIDTH_US * 1000 } }

/-- Is Bn_PPS_OUT at its active level: a pulse runs, EN is set, and GATE does not hold the pin inactive (R44)? -/
def ppsActive (y : Byre) : Bool :=
  y.tu.ppsOut && y.flag F.TIME_PPS_OUT_EN && (!y.flag F.TIME_PPS_OUT_GATE || y.tst == tLOCKED)

/-- The level of Bn_PPS_OUT: active high with POL 0, active low with POL 1 (R44). -/
def ppsPin (y : Byre) : Bool := y.ppsActive != y.flag F.TIME_PPS_OUT_POL

/-- The PPS output pulse ends (R44). -/
def ppsPulseEnd (y : Byre) : Byre :=
  if y.tu.ppsOut then
    let y := y.advanceClk y.tu.ppsEnd
    { y with tu := { y.tu with ppsOut := false } }
  else y

/-- A filtered PPS input edge (R45), `rise` for a rising one.  The selected edge ends the time without one, and with EN it is
captured: DIFF folded, with alarm, count and event beyond THRESH_NS. -/
def ppsInEdge (y : Byre) (rise : Bool) : Byre :=
  if y.flag F.TIME_PPS_IN_EDGE == rise then y
  else if !y.flag F.TIME_PPS_IN_EN then { y with tu := { y.tu with ppsInAt := y.tu.clk } }.put F.TIME_STATUS_PPS_IN_MISSING false
  else
    let err := Config.ppsInErr y.free % 21
    let y := y.useFree
    let n : Nat := (y.now + err + 1000000000 - 10) % 1000000000
    let d : Int := if n < 500000000 then (n : Int) else (n : Int) - 1000000000
    let y := { y with tu := { y.tu with ppsInAt := y.tu.clk } }
    let y := (y.wrN R.TIME_PPS_IN_DIFF (pat 32 d)).put F.TIME_STATUS_PPS_IN_MISSING false
    if y.get F.TIME_PPS_IN_THRESH_NS < d.natAbs then
      ((y.put F.TIME_STATUS_PPS_IN_ALARM true).inc R.TIME_CNT_PPS_ALARM).event 0x30 (leBytes 4 (pat 32 d))
    else y

/-- No PPS input edge for 1.5 s (R45). -/
def ppsInMissing (y : Byre) : Byre :=
  if y.flag F.TIME_PPS_IN_EN && !y.flag F.TIME_STATUS_PPS_IN_MISSING then
    (y.advanceClk (y.tu.ppsInAt + 1500000000)).put F.TIME_STATUS_PPS_IN_MISSING true
  else y

/-- The bound, and with no tick running the quality, are brought up to date at least once a millisecond (R37). -/
def boundUpdate (y : Byre) (dt : Nat) : Byre :=
  if y.tu.rate = 0 ∨ y.tu.frozenAt.isSome then ((y.advance (min dt 1000000)).updBound).updQual else y

/-- A read of BYx_TIME_SEC_LO (R32): the whole counter goes to the read-port latch. -/
def readSecLo (y : Byre) : Byre × Nat :=
  ({ y with tu := { y.tu with latSec := y.tu.sec, latNs := y.tu.ns, latFrac := y.tu.frac } }, y.tu.sec % 2 ^ 32)

/-- A read of BYx_TIME_MONO_LO (R55): the high part goes to its latch. -/
def readMonoLo (y : Byre) : Byre × Nat :=
  ({ y with tu := { y.tu with monoLat := y.tu.mono / 2 ^ 32 % 2 ^ 31 } }, y.tu.mono % 2 ^ 32)

/-- The word of a board delay register at the instant `c` of `clk` (R61): as it stood before the first write after `c`. -/
def dlyWord (y : Byre) (off c : Nat) : Nat :=
  y.tu.dlyLog.foldl (fun v (o, c', old) => if o = off ∧ c < c' then old else v) (y.rdN off)

/-- Keep the word that a write of a board delay register replaces, for frames whose start-of-frame delimiter came before it; writes
more than a second old are forgotten. -/
def dlyNote (y : Byre) (off old : Nat) : Byre :=
  { y with tu := { y.tu with dlyLog := (off, y.tu.clk, old) ::
      (y.tu.dlyLog.filter fun (_, c, _) => decide (y.tu.clk < c + 1000000000)) } }

end Byre

namespace State

/-- The servo and step registers are written by the servo's owner thread through the adjust port, or by management while
the byre is neither RUNNING nor DEGRADED; other engine writes are refused and counted (R58).  The servo's thread does not run while
the byre is frozen (R56). -/
def adjust (s : State) (b : Fin 6) (src : Src) (off : Nat) (f : Byre → Byre) : State :=
  match src with
  | .mgmt m => s.mgmtWrite b m off f
  | .thread e t => s.onFab b fun y =>
    if !y.servoOwner e t then y.inc R.TIME_CNT_REFUSED else if y.tu.frozenAt.isSome then y else f y

/-- A step of a byre's TIME domain. -/
def onTime (s : State) (b : Fin 6) (f : Byre → Byre) : State := if s.on b domTIME then s.onByre b f else s

end State

/-- SERVO_REQ_NONE (R36). -/
def execServoReqNone (b : Fin 6) (src : Src) (bound : BitVec 24) (s : State) : Host.Outcome State Fault Refusal :=
  .next (s.adjust b src R.TIME_SERVO fun y => y.servoNone bound.toNat)

/-- SERVO_REQ_ACQUIRING (R36). -/
def execServoReqAcquiring (b : Fin 6) (src : Src) (bound : BitVec 24) (s : State) : Host.Outcome State Fault Refusal :=
  .next (s.adjust b src R.TIME_SERVO fun y => y.servoAcq bound.toNat)

/-- SERVO_REQ_LOCKED (R36). -/
def execServoReqLocked (b : Fin 6) (src : Src) (bound : BitVec 24) (s : State) : Host.Outcome State Fault Refusal :=
  .next (s.adjust b src R.TIME_SERVO fun y => y.servoLocked bound.toNat)

/-- SERVO_KEEP (R36): only the watchdog restarts. -/
def execServoKeep (b : Fin 6) (src : Src) (s : State) : Host.Outcome State Fault Refusal :=
  .next (s.adjust b src R.TIME_SERVO Byre.wdStart)

/-- SERVO_WATCHDOG_EXPIRY (R36). -/
def execServoWatchdogExpiry (b : Fin 6) (s : State) : Host.Outcome State Fault Refusal :=
  .next (s.onTime b Byre.wdExpire)

/-- TIME_STEP_REQUEST (R41). -/
def execTimeStepRequest (b : Fin 6) (src : Src) (v : Word) (s : State) : Host.Outcome State Fault Refusal :=
  .next (s.adjust b src R.TIME_STEP_NS fun y => y.stepRequest v.toNat)

/-- TIME_STEP_APPLY (R41 to R43). -/
def execTimeStepApply (b : Fin 6) (s : State) : Host.Outcome State Fault Refusal := .next (s.onTime b Byre.stepApply)

/-- LEAP_SECOND_APPLY (R33). -/
def execLeapSecondApply (b : Fin 6) (s : State) : Host.Outcome State Fault Refusal := .next (s.onTime b Byre.leapApply)

/-- ERR_BOUND_UPDATE (R37). -/
def execErrBoundUpdate (b : Fin 6) (dt : Nat) (s : State) : Host.Outcome State Fault Refusal :=
  .next (s.onTime b fun y => y.boundUpdate dt)

/-- REFCLK_LOSS (R39, R500): the time unit's response, and REFCLK_OK of the clock status clears. -/
def execRefclkLoss (b : Fin 6) (s : State) : Host.Outcome State Fault Refusal :=
  let s := s.onCrm fun c => c.wrN R.AON_CLK_STAT (insBits (c.rdN R.AON_CLK_STAT) b b 0)
  .next (s.onTime b fun y => y.refclkLoss (s.on b domFAB))

/-- REFCLK_RETURN (R39). -/
def execRefclkReturn (b : Fin 6) (s : State) : Host.Outcome State Fault Refusal :=
  let s := s.onCrm fun c => c.wrN R.AON_CLK_STAT (insBits (c.rdN R.AON_CLK_STAT) b b 1)
  .next (s.onTime b fun y => y.refclkReturn s.crm.rtcNow)

/-- PPS_OUT_EDGE (R44). -/
def execPpsOutEdge (b : Fin 6) (s : State) : Host.Outcome State Fault Refusal := .next (s.onTime b Byre.ppsOutEdge)

/-- PPS_PULSE_END (R44). -/
def execPpsPulseEnd (b : Fin 6) (s : State) : Host.Outcome State Fault Refusal := .next (s.onTime b Byre.ppsPulseEnd)

/-- PPS_IN_EDGE (R45), `dt` ns after the byre's last step. -/
def execPpsInEdge (b : Fin 6) (dt : Nat) (rise : Bool) (s : State) : Host.Outcome State Fault Refusal :=
  .next (s.onTime b fun y => (y.advance dt).ppsInEdge rise)

/-- PPS_IN_MISSING (R45). -/
def execPpsInMissing (b : Fin 6) (s : State) : Host.Outcome State Fault Refusal := .next (s.onTime b Byre.ppsInMissing)

/-- TIME_SEC_LO_READ (R32). -/
def execTimeSecLoRead (b : Fin 6) (m : Master) (s : State) : Host.Outcome State Fault Refusal :=
  .next (s.mgmtRead b m R.TIME_SEC_LO Byre.readSecLo)

/-- MONO_LO_READ (R55). -/
def execMonoLoRead (b : Fin 6) (m : Master) (s : State) : Host.Outcome State Fault Refusal :=
  .next (s.mgmtRead b m R.TIME_MONO_LO Byre.readMonoLo)

end Sys2Proof.Machine
end

