-- ==== Sys2Proof/Machine/Engine.lean ====
section
/-!
DEFINITION. Engine threads (chapters 7 and 8): their registers, taking a trap, how an instruction issues and completes,
operations and their end, and the verdict on a re-run.
-/

namespace Sys2Proof.Machine

/-- Parity spaces of structures of R474: affinity entry, the queues, the time unit's registers. -/
abbrev spAff : Nat := 13
abbrev spQueue : Nat := 14
abbrev spTime : Nat := 25

/-- A stopped engine. -/
def Eng.zero : Eng := ⟨false, Vector.replicate 16 0#32, [], Str.zero⟩

/-- A trap (R245). -/
structure Trap where
  cause : Nat
  detail : Nat
  tval : Nat
  seg : Nat := 0
  deriving DecidableEq, Repr

/-- What comes after an instruction that has not trapped. -/
inductive Flow where
  /-- the next word in sequence, or what a delay slot or a loop end makes of it -/
  | seq
  /-- the transfer is taken after the delay slot: the word taken then -/
  | slot (tgt : BitVec 16)
  /-- this word, with no loop-end action -/
  | goto (pc : BitVec 16)
  /-- the instruction has set `pc` and `slot` itself (RFT) -/
  | set
  deriving DecidableEq, Repr

/-- How an instruction ends. -/
inductive Ends where
  | ok (y : Byre) (f : Flow)
  | trap (t : Trap)
  /-- a trap of cause 0x08, with the byre after the read that met the detection -/
  | parTrap (y : Byre) (t : Trap)
  /-- the thread is not ready: the instruction does not issue (R193, R253) -/
  | notReady

/-- Set bit `i` of a number. -/
def setBit (v i : Nat) : Nat := if bit v i then v else v + 2 ^ i

namespace Thr

/-- STATUS.TASK. -/
def task (th : Thr) : Bool := th.status.getLsbD 0

/-- STATUS.TH. -/
def inTrap (th : Thr) : Bool := th.status.getLsbD 1

/-- STATUS.LD. -/
def ld (th : Thr) : Nat := bits th.status.toNat 3 2

/-- Set STATUS.LD. -/
def setLd (th : Thr) (n : Nat) : Thr := { th with status := BitVec.ofNat 6 (insBits th.status.toNat 3 2 n) }

/-- The end word of loop level `n`, 0 to 2. -/
def leAt (th : Thr) (n : Nat) : BitVec 16 := (th.le.toList[n]?).getD 0#16

/-- The loop-end action of R232 at the word `w`: at most one round for each of the three levels. -/
def loopEnd : Nat → Thr → BitVec 16 → Thr × BitVec 16
  | 0, th, w => (th, w + 1#16)
  | fuel + 1, th, w =>
    if th.ld = 0 ∨ th.leAt (th.ld - 1) ≠ w then (th, w + 1#16)
    else
      let n := th.ld - 1
      let c := (th.lc.toList[n]?).getD 0#32 - 1#32
      let th := { th with lc := th.lc.setIfInBounds n c }
      if c ≠ 0#32 then (th, (th.ls.toList[n]?).getD 0#16)
      else loopEnd fuel (th.setLd n) w

/-- The instruction at `pc` has completed (R229, R230, R232). -/
def complete (th : Thr) (f : Flow) : Thr :=
  match f with
  | .set => th
  | .goto p => { th with pc := p, slot := none }
  | .slot t => { th with pc := th.pc + 1#16, slot := some t }
  | .seq =>
    match th.slot with
    | some t => { th with pc := t, slot := none }
    | none =>
      let (th, p) := loopEnd 3 th th.pc
      { th with pc := p }

/-- Take a trap (R244 to R246): save, then continue at TVEC at supervisor level. -/
def trapEntry (th : Thr) (t : Trap) : Thr :=
  { th with
    tpc := th.pc
    tstat := BitVec.ofNat 9 (th.status.toNat + b2n th.slot.isSome * 256)
    tbtgt := th.slot.getD 0#16
    tcause := BitVec.ofNat 16 (t.cause + b2n th.inTrap * 256 + t.seg * 512 + t.detail * 4096)
    tval := BitVec.ofNat 32 t.tval
    status := BitVec.ofNat 6 (insBits (insBits th.status.toNat 3 2 0) 1 0 2)
    pc := th.tvec
    slot := none }

/-- Is the thread released, not waiting and not halted (R193)? -/
def canIssue (th : Thr) : Bool := th.released && th.wait.isNone && !th.halted

/-- The status word of a wait that ends (R198, R199), its destination, and the events it clears. -/
def wake (th : Thr) (byTick : Bool) : Thr :=
  match th.wait with
  | none => th
  | some m =>
    let v := BitVec.ofNat 32 ((th.ev &&& m).toNat + b2n byTick * 2147483648)
    { th with d := th.d.set th.waitD v, wait := none, ev := th.ev &&& ~~~ m }

end Thr

namespace Byre

/-- Thread `t` of engine `e`. -/
def thread (y : Byre) (e t : Nat) : Thr := SMap.get (fun _ => Thr.zero) y.thr (e * 8 + t)

/-- Replace a thread. -/
def setThread (y : Byre) (e t : Nat) (th : Thr) : Byre :=
  { y with thr := SMap.set (fun _ => Thr.zero) y.thr (e * 8 + t) th }

/-- Change a thread. -/
def onThread (y : Byre) (e t : Nat) (f : Thr → Thr) : Byre := y.setThread e t (f (y.thread e t))

/-- Engine `e`. -/
def engine (y : Byre) (e : Nat) : Eng := SMap.get (fun _ => Eng.zero) y.eng e

/-- Replace an engine. -/
def setEngine (y : Byre) (e : Nat) (g : Eng) : Byre := { y with eng := SMap.set (fun _ => Eng.zero) y.eng e g }

/-- Latch an event of R198 for a thread. -/
def latchEv (y : Byre) (e t i : Nat) : Byre :=
  y.onThread e t fun th => { th with ev := BitVec.ofNat 5 (setBit th.ev.toNat i) }

/-! ### Parity -/

/-- Read the parity of a word (R24): does it fail?  A word of `softPar` fails this read only. -/
def parCheck (y : Byre) (space a : Nat) : Bool × Byre :=
  if y.parBad space a then (true, y)
  else if y.softPar.contains (space, a) then (true, { y with softPar := y.softPar.filter (· != (space, a)) })
  else (false, y)

/-- A detection in an entry of a queue of R474: receive staging of port 0 to 21, tally 24, capture 25, post 26, tunnel 27 and recorder
staging 28.  The item is lost as the queue's own full rule says. -/
def queueBad (y : Byre) (block q : Nat) : Bool × Byre :=
  let (bad, y) := y.parCheck spQueue q
  (bad, if bad then y.detect block q 0 else y)

/-- The byre-view offset of a code-store word. -/
def codeAddr (c pc : Nat) : Nat := 0xE00000 + c * 0x40000 + pc * 4

/-- The code-store word at `pc` of an engine's cluster (R217). -/
def codeWord (y : Byre) (e : Nat) (pc : BitVec 16) : Word := Mem.ldw y.mem (codeAddr (clusterOf e) pc.toNat)

/-! ### Issue rotation (R193, R194) -/

/-- The cycle of an engine that comes next. -/
def cycle (y : Byre) (e : Nat) : Nat := max y.tu.clk (SMap.get (fun _ => 0) y.engCyc e)

/-- SLOT0, SLOT1 and URGENT as they are in force in cycle `c`: a change takes effect at slot 0 of the next frame (R194). -/
def slotRegs (y : Byre) (e c : Nat) : Nat × Nat × Nat :=
  let q := SMap.get (fun _ => (0, 0, 0, 0)) y.slotOld e
  if c < q.1 then q.2 else (y.rdN (R.ROTA_ENG_SLOT0 e), y.rdN (R.ROTA_ENG_SLOT1 e), y.rdN (R.ROTA_ENG_URGENT e))

/-- The words of SLOT0, SLOT1 and URGENT are about to change: until the next frame those of the present frame stay in force. -/
def slotNote (y : Byre) (e : Nat) : Byre :=
  let c := y.cycle e
  { y with slotOld := SMap.set (fun _ => (0, 0, 0, 0)) y.slotOld e ((c / 16 + 1) * 16, y.slotRegs e c) }

/-- The threads of an engine in the order in which slot `c % 16` tries them (R193). -/
def slotOrder (y : Byre) (e c : Nat) : List Nat :=
  let (s0, s1, u) := y.slotRegs e c
  let n := c % 16
  let w := (if n < 8 then s0 else s1) / 2 ^ (4 * (n % 8)) % 16
  (if bit w 3 then [w % 8] else []) ++ (if bit u 3 then [u % 8] else []) ++ (List.range 8).map fun i => (w + i) % 8

/-- Can the thread run at all?  The servo's thread does not while the byre is frozen (R56). -/
def mayRun (y : Byre) (e t : Nat) : Bool := (y.thread e t).canIssue && !(y.tu.frozenAt.isSome && y.servoOwner e t)

/-- A load. -/
def isLoad (w : Word) : Bool := decide (0x10 ≤ bits w.toNat 31 26) && decide (bits w.toNat 31 26 ≤ 0x16)

/-- Is the thread ready in cycle `c` whatever the memories and units take (R193)?  One whose last instruction was a load, or whose
next one is a load or goes to a coprocessor, may lack an operand or a scoreboard bit. -/
def surelyReady (y : Byre) (e c t : Nat) : Bool :=
  let th := y.thread e t
  let w := y.codeWord e th.pc
  y.mayRun e t && decide (th.after ≤ c) && !th.load && !isLoad w && decide (bits w.toNat 31 26 < 0x38)

/-- The cycle in which thread `t` issues next: the engine's next one, or the first in which the thread is ready after a trap. -/
def issueCycle (y : Byre) (e t : Nat) : Nat := max (y.cycle e) (y.thread e t).after

/-- Does the rotation let the thread issue now (R193)?  No thread that comes before it in the slot's order is surely ready; and where
the thread's readiness lies ahead, no thread is in between. -/
def mayIssue (y : Byre) (e t : Nat) : Bool :=
  let c := y.issueCycle e t
  y.mayRun e t && (c == y.cycle e || !((List.range 8).any (y.surelyReady e (y.cycle e)))) &&
    !(((y.slotOrder e c).takeWhile (· != t)).any (y.surelyReady e c))

/-- The engine has run to cycle `c`: the cycles that passed were empty slots (R193, R215). -/
def idleTo (y : Byre) (e c : Nat) : Byre :=
  { y.incBy (R.ROTA_ENG_CNT_BUBBLE e) (c - SMap.get (fun _ => 0) y.engCyc e) with engCyc := SMap.set (fun _ => 0) y.engCyc e c }

/-- The thread takes its slot. -/
def takeSlot (y : Byre) (e t : Nat) : Byre :=
  let c := y.issueCycle e t
  { y.incBy (R.ROTA_ENG_CNT_BUBBLE e) (c - SMap.get (fun _ => 0) y.engCyc e) with engCyc := SMap.set (fun _ => 0) y.engCyc e (c + 1) }

/-! ### Operations -/

/-- Entries outside the sixteen that are kept for re-runs (R208). -/
def occPlain (y : Byre) : Nat := (y.rota.ents.filter (·.cls != 0)).length

/-- Ingress entries. -/
def occIng (y : Byre) : Nat := (y.rota.ents.filter (·.cls == 2)).length

/-- The rota's occupancy registers and the hold of output 24 (R209, R210). -/
def rotaSync (y : Byre) : Byre :=
  let held := decide (y.get F.ROTA_CTRL_INGRESS_MAX ≤ y.occIng) || decide (4080 ≤ y.occPlain)
  let y := if held && !y.flag F.ROTA_STATUS_ING_HELD then y.inc R.ROTA_CNT_ING_HOLD else y
  ((y.put F.ROTA_STATUS_ING_HELD held).set F.ROTA_STATUS_OCC y.rota.ents.length).set F.ROTA_STATUS_ING_OCC y.occIng

/-- Has operation `id` of tick `t` ended, and with which status (R205)? -/
def endedSt (y : Byre) (t : Tick) (id : Nat) : Option Nat :=
  (y.rota.ended.reverse.find? fun (t', i, _) => t' == t && i == id).map fun (_, _, st) => st

/-- Has entry `o` all its inputs (R205)? -/
def inputsReady (y : Byre) (o : OpEnt) : Bool :=
  o.cls != 1 ||
    ((List.range 8).all fun g => !bit o.groups g || y.rota.seals.contains (o.tick, g)) &&
    (o.preds.all fun p => p == 0xFFFF || (y.endedSt o.tick p).isSome)

/-- Mark the entries that have become ready, oldest first (R206). -/
def markReady (y : Byre) : Byre :=
  let step := fun (acc : List OpEnt × Nat) (o : OpEnt) =>
    if o.ready.isNone && y.inputsReady o then (acc.1 ++ [{ o with ready := some acc.2 }], acc.2 + 1)
    else (acc.1 ++ [o], acc.2)
  let (es, n) := y.rota.ents.foldl step ([], y.rota.rseq)
  { y with rota := { y.rota with ents := es, rseq := n } }

/-- An entry leaves the ready list. -/
def leaveList (y : Byre) (o : OpEnt) : Byre :=
  let y := { y with rota := { y.rota with ents := y.rota.ents.filter (·.seq != o.seq) } }
  (y.set F.ROTA_TOKENS_FREE (y.get F.ROTA_TOKENS_FREE + 1)).rotaSync

/-- Count an operation's end by its status (R203). -/
def countEnd (y : Byre) (st : Nat) : Byre :=
  match st with
  | 0 => y.inc R.ROTA_CNT_DONE_OK
  | 1 => y.inc R.ROTA_CNT_DONE_FAIL
  | 2 => y.inc R.ROTA_CNT_DONE_FAIL
  | 3 => y.inc R.ROTA_CNT_BUDGET
  | 4 => y.inc R.ROTA_CNT_WITHDRAWN
  | _ => y.inc R.ROTA_CNT_TERMINATED

/-- Is an engine marked bad (R476)? -/
def badEng (y : Byre) (e : Nat) : Bool := bit (y.rdN R.CHURN_BADENG) e

/-- The affinity engine of an operation (R206, R207); a parity detection is a miss (R474). -/
def affinity (y : Byre) (o : OpEnt) : Nat × Byre :=
  let i := o.id % 4096
  let (bad, y) := y.parCheck spAff i
  let y := if bad then y.detect 1 i 0 else y
  let (k, e) := SMap.get (fun _ => (0, 0)) y.rota.aff i
  (if !bad && k == o.id + 1 then e else o.home, y)

/-- Engines of a cluster. -/
def clusterEngines (e : Nat) : List Nat := (List.range 8).map fun i => clusterOf e * 8 + i

/-- The engines that an operation's SPILL reaches (R477). -/
def reach (a : Nat) (o : OpEnt) : List Nat :=
  match o.spill with
  | 0 => [a]
  | 1 => clusterEngines a
  | _ => List.range 32

/-- Record an end for the operation's successors (R205). -/
def noteEnd (y : Byre) (o : OpEnt) (st : Nat) : Byre :=
  if o.cls = 2 then y else { y with rota := { y.rota with ended := y.rota.ended ++ [(o.tick, o.id, st)] } }

/-- Does a ready plan operation reach no engine outside BYx_CHURN_BADENG (R477)? -/
def outOfReach (y : Byre) (o : OpEnt) : Bool := o.cls != 2 && o.ready.isSome && (reach (y.affinity o).1 o).all y.badEng

/-- Mark what has become ready and withdraw at once each ready operation that reaches no good engine; a withdrawal can make
successors ready (R205, R477). -/
def settleReady : Nat → Byre → Byre
  | 0, y => y.markReady
  | n + 1, y =>
    let y := y.markReady
    match y.rota.ents.find? y.outOfReach with
    | none => y
    | some o => settleReady n ((((y.leaveList o).countEnd 4).noteEnd o 4).inc R.CHURN_CNT_BAD_WITHDRAW)

/-- The ready list after a change of what its entries wait for, or of the engines marked bad (R205, R477). -/
def refresh (y : Byre) : Byre := settleReady (if y.rdN R.CHURN_BADENG = 0 then 0 else y.rota.ents.length) y

/-- An entry enters the ready list. -/
def enterList (y : Byre) (o : OpEnt) : Byre :=
  let y := { y with rota := { y.rota with ents := y.rota.ents ++ [{ o with seq := y.rota.seq }], seq := y.rota.seq + 1 } }
  ((y.set F.ROTA_TOKENS_FREE (y.get F.ROTA_TOKENS_FREE - 1)).rotaSync).refresh

/-- Record an end for the operation's successors (R205). -/
def recordEnd (y : Byre) (o : OpEnt) (st : Nat) : Byre :=
  if o.cls = 2 then y else (y.noteEnd o st).refresh

/-- Withdraw an operation from the ready list (R78, R477). -/
def withdraw (y : Byre) (o : OpEnt) : Byre := ((y.leaveList o).countEnd 4).recordEnd o 4

/-- The window's owner and ACTIVE as they stand when the queued operations are done (R253). -/
def strOwner (s : Str) : Nat × Bool :=
  s.pend.foldl (fun (o, a) q => if q.op = 1 ∧ (!a ∨ o = q.thr) then (q.thr, true) else (o, a)) (s.owner, s.active)

/-- A strainer window that is released (R275): the queued operations of every thread are abandoned; TAG, STAT and COUNT keep their
values but for ACTIVE. -/
def strFreed (s : Str) : Str := { s with active := false, pend := [] }

/-- The strainer window of engine `e` is released if thread `t` owns it (R275). -/
def strRelease (y : Byre) (e t : Nat) : Byre :=
  let g := y.engine e
  if strOwner g.str = (t, true) ∨ (g.str.active ∧ g.str.owner = t) then y.setEngine e { g with str := strFreed g.str } else y

/-- The operation of a thread ends with a status (R203): counted, recorded for its successors, its affinity kept (R207),
its staged results judged (R320), a re-run's verdict given (R476) and its strainer window released (R275). -/
def endOp (y : Byre) (e t st : Nat) : Byre :=
  match (y.thread e t).op with
  | none => y
  | some r =>
    let y := y.onThread e t fun th => { th with op := none }
    let y := y.countEnd st
    let y := if st ≤ 1 then
        { y with rota := { y.rota with aff := SMap.set (fun _ => (0, 0)) y.rota.aff (r.ent.id % 4096) (r.ent.id + 1, e) } }
      else y
    let eff := if r.ent.cls = 0 ∧ r.bad ∧ st = 0 then 1 else st
    let y := { y with staged := y.staged.map fun (g : Staged) => if g.run = r.ent.seq then { g with st := some eff } else g }
    let y := if r.ent.cls = 0 ∧ st ≤ 1 ∧ !r.bad then y.inc R.CHURN_CNT_TRANSIENT else y
    (y.strRelease e t).recordEnd r.ent st

/-! ### Traps -/

/-- The bank that holds the address of a detection, for addresses in the vat, the pail window and the press read
window (R476). -/
def addrBank (y : Byre) (a : Nat) : Option Nat :=
  if 0x02000000 ≤ a ∧ a < 0x02C00000 then some ((a - 0x02000000) / 0x40000)
  else if 0x05000000 ≤ a ∧ a < 0x05C00000 then some ((a - 0x05000000) / 0x40000)
  else if 0x03000000 ≤ a ∧ a < 0x03800000 then
    let g := (a - 0x03000000) / 0x100000
    some ((SMap.get (fun _ => 0) y.shown g - 1 + (a - 0x03000000) % 0x100000) / 0x40000)
  else none

/-- Mark a vat bank bad. -/
def markBank (y : Byre) (b : Nat) : Byre :=
  if b < 32 then y.wrN R.CHURN_BADBANK_LO (setBit (y.rdN R.CHURN_BADBANK_LO) b)
  else y.wrN R.CHURN_BADBANK_HI (setBit (y.rdN R.CHURN_BADBANK_HI) (b - 32))

/-- A lasting verdict (R476): counted, its resource marked bad, captured, and evented; the ready
operations that reach no good engine now are withdrawn (R477). -/
def lasting (y : Byre) (e : Nat) (o : OpEnt) (t : Trap) : Byre :=
  let y := y.inc R.CHURN_CNT_LASTING
  let c := clusterOf e
  let kind : Nat × Nat := if t.detail = 0 then (1, c) else match y.addrBank t.tval with
    | some b => (2, b)
    | none => (0, e)
  let y := match kind with
    | (1, c) => y.wrN R.CHURN_BADENG (y.rdN R.CHURN_BADENG ||| 255 * 2 ^ (8 * c))
    | (2, b) => y.markBank b
    | (_, e) => y.wrN R.CHURN_BADENG (setBit (y.rdN R.CHURN_BADENG) e)
  let y := if y.flag F.CHURN_FLT_CAP_VALID then y
    else (y.wrN R.CHURN_FLT_CAP (2147483648 + kind.1 * 2 ^ 28 + kind.2 * 2 ^ 16 + o.id)).wrN R.CHURN_FLT_ADDR t.tval
  (y.stateEvent y.st y.st 5 kind.1 kind.2 o.id t.tval).refresh

/-- What a trap of cause 0x08 does at the rota (R204, R476): one recompute request for a plan operation, a lasting
verdict for a re-run, nothing for an ingress operation. -/
def parityTrap (y : Byre) (e t : Nat) (tr : Trap) : Byre :=
  match (y.thread e t).op with
  | none => y
  | some r =>
    if r.bad ∨ r.ent.cls = 2 then y
    else
      let y := y.onThread e t fun th => { th with op := some { r with bad := true } }
      if r.ent.cls = 1 then
        { y with rota := { y.rota with recq := y.rota.recq ++ [{ r.ent with cls := 0, ready := none }] } }.inc
          R.ROTA_CNT_RECOMPUTE
      else y.lasting e r.ent tr

/-- The thread with STATUS.DBG as it is: threads of a byre in TEST are under debug control while debug is unlocked (R249, R459). -/
def withDbg (y : Byre) (th : Thr) : Thr :=
  { th with status := (th.status &&& 0x1F#6) ||| (if y.unlocked && y.st == stTEST then 0x20#6 else 0#6) }

/-- A thread takes a trap (R244): the thread's registers, ENG_TRAP, the count, and what cause 0x08 asks of the rota.  The slot of the
trapping instruction has been taken, so its handler's first instruction issues 3 cycles after the next one at the earliest (R248). -/
def takeTrap (y : Byre) (e t : Nat) (tr : Trap) : Byre :=
  let c := y.cycle e
  let y := y.onThread e t fun th => { (y.withDbg th).trapEntry tr with after := c + 3, load := false }
  let y := y.inc (R.ROTA_ENG_CNT_TRAP e)
  let y := if y.flag (F.ROTA_ENG_TRAP_VALID e) then y
    else ((y.set (F.ROTA_ENG_TRAP_THREAD e) t).set (F.ROTA_ENG_TRAP_CAUSE e) tr.cause).put (F.ROTA_ENG_TRAP_VALID e) true
  if tr.cause = 8 then y.parityTrap e t tr else y

/-- The budget is spent (R202): the operation ends with BUDGET and the thread takes trap 0x07. -/
def budgetOverrun (y : Byre) (e t : Nat) : Byre := (y.endOp e t 3).takeTrap e t ⟨7, 0, 0, 0⟩

/-- Has the thread an operation with no budget left? -/
def budgetSpent (th : Thr) : Bool := th.op.elim false fun r => r.left == 0

/-- Is the word one of the control group (R221)? -/
def isControl (w : Word) : Bool :=
  let m := bits w.toNat 31 26
  (decide (0x20 ≤ m) && decide (m ≤ 0x24)) || (decide (0x28 ≤ m) && decide (m ≤ 0x2A)) || m == 0x2C

/-- Is the word a transfer with a delay slot (R229)? -/
def isTransfer (w : Word) : Bool :=
  let m := bits w.toNat 31 26
  decide (0x20 ≤ m) && decide (m ≤ 0x24)

/-- The slot violations of R230 and R234, as the detail code. -/
def slotViolation (th : Thr) (w : Word) : Option Nat :=
  if isControl w ∧ th.slot.isSome then some 0
  else if th.ld = 0 then none
  else
    let l := th.leAt (th.ld - 1)
    if isControl w ∧ th.pc = l then some 1
    else if isTransfer w ∧ th.pc = l - 1#16 then some 1 else none

/-- Count the issue of an instruction (R202, R215). -/
def countIssue (y : Byre) (e t : Nat) : Byre :=
  (y.inc (R.ROTA_ENG_CNT_ISSUE e)).onThread e t fun th =>
    { y.withDbg th with op := th.op.map fun r => { r with left := r.left - 1 } }

/-- The byre as an instruction of the thread finds it: its slot is taken and its issue counted. -/
def atIssue (y : Byre) (e t : Nat) : Byre := (y.takeSlot e t).countIssue e t

/-- Issue the instruction at the thread's PC, whose own effect is `f` (R202, R243): budget, parity of the fetch, slot
violations, then the instruction; a trap leaves no effect but its own. -/
def issue (y : Byre) (e t : Nat) (f : Byre → Ends) : Byre :=
  let th := y.thread e t
  let w := y.codeWord e th.pc
  if budgetSpent th then (y.takeSlot e t).budgetOverrun e t
  else
    let y1 := y.atIssue e t
    match y1.parCheck 0 (codeAddr (clusterOf e) th.pc.toNat) with
    | (true, y2) => y2.takeTrap e t ⟨8, 0, th.pc.toNat, 0⟩
    | (false, _) =>
      match slotViolation th w with
      | some d => y1.takeTrap e t ⟨5, d, w.toNat, 0⟩
      | none =>
        match f y1 with
        | .ok y2 fl => y2.onThread e t fun th => { th.complete fl with load := isLoad w }
        | .trap tr => y1.takeTrap e t tr
        | .parTrap y2 tr => y2.takeTrap e t tr
        | .notReady => y

/-- The effect of an instruction that touches its own thread's registers alone. -/
def pureOp (e t : Nat) (g : Thr → Thr) (y : Byre) : Ends := .ok (y.onThread e t g) .seq

end Byre

end Sys2Proof.Machine
end

