-- ==== Sys2Proof/Machine/Operands.lean ====
section
/-!
DEFINITION. Operand forms of the engine instructions: registers, immediates, shifts, saturation, addressing modes, and
the one way an engine instruction reaches its thread.  The instruction set has no flags.
-/

namespace Sys2Proof.Machine

namespace Thr

/-- Write a data register. -/
def setD (th : Thr) (r : Fin 16) (v : Word) : Thr := { th with d := th.d.set r v }

/-- Write an address register. -/
def setA (th : Thr) (r : Fin 16) (v : Word) : Thr := { th with a := th.a.set r v }

/-- Write an accumulator. -/
def setAc (th : Thr) (r : Fin 4) (v : BitVec 72) : Thr := { th with ac := th.ac.set r v }

end Thr

/-- Saturate to the signed 32-bit range. -/
def sat32 (i : Int) : Word :=
  if 2147483647 < i then 0x7FFFFFFF#32 else if i < -2147483648 then 0x80000000#32 else BitVec.ofInt 32 i

/-- The count of leading zero bits, 0 to 32 (R222). -/
def clz32 (v : Word) : Nat := if v.toNat = 0 then 32 else 31 - Nat.log2 v.toNat

/-- Shift or rotate by the amount `n`, 0 to 31: types of SHIFTI (R223). -/
def shift32 (ty : Nat) (v : Word) (n : Nat) : Word :=
  match ty with
  | 0 => v <<< n
  | 1 => v >>> n
  | 2 => v.sshiftRight n
  | _ => v.rotateRight n

/-- A Boolean as a register value. -/
def boolWord (b : Bool) : Word := if b then 1#32 else 0#32

/-- The signed and the unsigned product of two registers. -/
def prodS (x y : Word) : Int := x.toInt * y.toInt
def prodU (x y : Word) : Nat := x.toNat * y.toNat

/-- The offset of a load or store, and the base write-back (R226). -/
def Mode.eval (m : Mode) (th : Thr) (ab : Fin 16) : Word × Option Word :=
  let base := th.a[ab]
  match m with
  | .disp imm => (base + imm.signExtend 32, none)
  | .post imm => (base, some (base + imm.signExtend 32))
  | .pre imm => (base + imm.signExtend 32, some (base + imm.signExtend 32))
  | .index dk sc => (base + (th.d[dk] <<< sc.toNat), none)

namespace Byre

/-- One issue of the instruction `i` on its thread, with the instruction's own effect `f`: nothing happens unless the
thread's turn has come (R193) and the word at its PC decodes to `i`. -/
def engineOp (y : Byre) (b : Fin 6) (e : Fin 32) (t : Fin 8) (i : Instr) (f : Byre → Ends) : Byre :=
  let th := y.thread e t
  if y.mayIssue e t = false then y
  else if decodeEng b e t (y.codeWord e th.pc) ≠ some i then y
  else y.issue e t f

end Byre

namespace State

/-- Are the FAB domain and an engine's CL domain on (R485)? -/
def engOn (s : State) (b : Fin 6) (e : Fin 32) : Bool := s.on b domFAB && s.on b (domCL + clusterOf e)

/-- One issue of an engine instruction, while its domains are on. -/
def engineOp (s : State) (b : Fin 6) (e : Fin 32) (t : Fin 8) (i : Instr) (f : Byre → Ends) : State :=
  if s.engOn b e then s.onByre b fun y => y.engineOp b e t i f else s

/-- An instruction whose whole effect is a new state of its thread's own registers. -/
def threadOp (s : State) (b : Fin 6) (e : Fin 32) (t : Fin 8) (i : Instr) (g : Thr → Thr) : State :=
  s.engineOp b e t i (Byre.pureOp e t g)

end State

end Sys2Proof.Machine
end

