-- ==== Sys2Proof/Machine/Alu.lean ====
section
/-!
DEFINITION. The data and address instructions of the engines (R222 to R224).
-/

namespace Sys2Proof.Machine

/-- ADD (R222). -/
def execAdd (b : Fin 6) (e : Fin 32) (t : Fin 8) (rd rs rt : Fin 16) (s : State) :
    Host.Outcome State Fault Refusal :=
  .next (s.threadOp b e t (.add b e t rd rs rt) fun th =>
    let x := th.d[rs]
    let y := th.d[rt]
    th.setD rd (x + y))

/-- SUB (R222). -/
def execSub (b : Fin 6) (e : Fin 32) (t : Fin 8) (rd rs rt : Fin 16) (s : State) :
    Host.Outcome State Fault Refusal :=
  .next (s.threadOp b e t (.sub b e t rd rs rt) fun th =>
    let x := th.d[rs]
    let y := th.d[rt]
    th.setD rd (x - y))

/-- ADDS (R222). -/
def execAdds (b : Fin 6) (e : Fin 32) (t : Fin 8) (rd rs rt : Fin 16) (s : State) :
    Host.Outcome State Fault Refusal :=
  .next (s.threadOp b e t (.adds b e t rd rs rt) fun th =>
    let x := th.d[rs]
    let y := th.d[rt]
    th.setD rd (sat32 (x.toInt + y.toInt)))

/-- SUBS (R222). -/
def execSubs (b : Fin 6) (e : Fin 32) (t : Fin 8) (rd rs rt : Fin 16) (s : State) :
    Host.Outcome State Fault Refusal :=
  .next (s.threadOp b e t (.subs b e t rd rs rt) fun th =>
    let x := th.d[rs]
    let y := th.d[rt]
    th.setD rd (sat32 (x.toInt - y.toInt)))

/-- AND (R222). -/
def execAnd (b : Fin 6) (e : Fin 32) (t : Fin 8) (rd rs rt : Fin 16) (s : State) :
    Host.Outcome State Fault Refusal :=
  .next (s.threadOp b e t (.and b e t rd rs rt) fun th =>
    let x := th.d[rs]
    let y := th.d[rt]
    th.setD rd (x &&& y))

/-- OR (R222). -/
def execOr (b : Fin 6) (e : Fin 32) (t : Fin 8) (rd rs rt : Fin 16) (s : State) :
    Host.Outcome State Fault Refusal :=
  .next (s.threadOp b e t (.or b e t rd rs rt) fun th =>
    let x := th.d[rs]
    let y := th.d[rt]
    th.setD rd (x ||| y))

/-- XOR (R222). -/
def execXor (b : Fin 6) (e : Fin 32) (t : Fin 8) (rd rs rt : Fin 16) (s : State) :
    Host.Outcome State Fault Refusal :=
  .next (s.threadOp b e t (.xor b e t rd rs rt) fun th =>
    let x := th.d[rs]
    let y := th.d[rt]
    th.setD rd (x ^^^ y))

/-- ANDN (R222). -/
def execAndn (b : Fin 6) (e : Fin 32) (t : Fin 8) (rd rs rt : Fin 16) (s : State) :
    Host.Outcome State Fault Refusal :=
  .next (s.threadOp b e t (.andn b e t rd rs rt) fun th =>
    let x := th.d[rs]
    let y := th.d[rt]
    th.setD rd (x &&& ~~~y))

/-- SLL (R222). -/
def execSll (b : Fin 6) (e : Fin 32) (t : Fin 8) (rd rs rt : Fin 16) (s : State) :
    Host.Outcome State Fault Refusal :=
  .next (s.threadOp b e t (.sll b e t rd rs rt) fun th =>
    let x := th.d[rs]
    let y := th.d[rt]
    th.setD rd (shift32 0 x (y.toNat % 32)))

/-- SRL (R222). -/
def execSrl (b : Fin 6) (e : Fin 32) (t : Fin 8) (rd rs rt : Fin 16) (s : State) :
    Host.Outcome State Fault Refusal :=
  .next (s.threadOp b e t (.srl b e t rd rs rt) fun th =>
    let x := th.d[rs]
    let y := th.d[rt]
    th.setD rd (shift32 1 x (y.toNat % 32)))

/-- SRA (R222). -/
def execSra (b : Fin 6) (e : Fin 32) (t : Fin 8) (rd rs rt : Fin 16) (s : State) :
    Host.Outcome State Fault Refusal :=
  .next (s.threadOp b e t (.sra b e t rd rs rt) fun th =>
    let x := th.d[rs]
    let y := th.d[rt]
    th.setD rd (shift32 2 x (y.toNat % 32)))

/-- ROR (R222). -/
def execRor (b : Fin 6) (e : Fin 32) (t : Fin 8) (rd rs rt : Fin 16) (s : State) :
    Host.Outcome State Fault Refusal :=
  .next (s.threadOp b e t (.ror b e t rd rs rt) fun th =>
    let x := th.d[rs]
    let y := th.d[rt]
    th.setD rd (shift32 3 x (y.toNat % 32)))

/-- SLT (R222). -/
def execSlt (b : Fin 6) (e : Fin 32) (t : Fin 8) (rd rs rt : Fin 16) (s : State) :
    Host.Outcome State Fault Refusal :=
  .next (s.threadOp b e t (.slt b e t rd rs rt) fun th =>
    let x := th.d[rs]
    let y := th.d[rt]
    th.setD rd (boolWord (x.slt y)))

/-- SLTU (R222). -/
def execSltu (b : Fin 6) (e : Fin 32) (t : Fin 8) (rd rs rt : Fin 16) (s : State) :
    Host.Outcome State Fault Refusal :=
  .next (s.threadOp b e t (.sltu b e t rd rs rt) fun th =>
    let x := th.d[rs]
    let y := th.d[rt]
    th.setD rd (boolWord (x.ult y)))

/-- MIN (R222). -/
def execMin (b : Fin 6) (e : Fin 32) (t : Fin 8) (rd rs rt : Fin 16) (s : State) :
    Host.Outcome State Fault Refusal :=
  .next (s.threadOp b e t (.min b e t rd rs rt) fun th =>
    let x := th.d[rs]
    let y := th.d[rt]
    th.setD rd (if x.slt y then x else y))

/-- MAX (R222). -/
def execMax (b : Fin 6) (e : Fin 32) (t : Fin 8) (rd rs rt : Fin 16) (s : State) :
    Host.Outcome State Fault Refusal :=
  .next (s.threadOp b e t (.max b e t rd rs rt) fun th =>
    let x := th.d[rs]
    let y := th.d[rt]
    th.setD rd (if x.slt y then y else x))

/-- MINU (R222). -/
def execMinu (b : Fin 6) (e : Fin 32) (t : Fin 8) (rd rs rt : Fin 16) (s : State) :
    Host.Outcome State Fault Refusal :=
  .next (s.threadOp b e t (.minu b e t rd rs rt) fun th =>
    let x := th.d[rs]
    let y := th.d[rt]
    th.setD rd (if x.ult y then x else y))

/-- MAXU (R222). -/
def execMaxu (b : Fin 6) (e : Fin 32) (t : Fin 8) (rd rs rt : Fin 16) (s : State) :
    Host.Outcome State Fault Refusal :=
  .next (s.threadOp b e t (.maxu b e t rd rs rt) fun th =>
    let x := th.d[rs]
    let y := th.d[rt]
    th.setD rd (if x.ult y then y else x))

/-- MUL (R222). -/
def execMul (b : Fin 6) (e : Fin 32) (t : Fin 8) (rd rs rt : Fin 16) (s : State) :
    Host.Outcome State Fault Refusal :=
  .next (s.threadOp b e t (.mul b e t rd rs rt) fun th =>
    let x := th.d[rs]
    let y := th.d[rt]
    th.setD rd (x * y))

/-- MULH (R222). -/
def execMulh (b : Fin 6) (e : Fin 32) (t : Fin 8) (rd rs rt : Fin 16) (s : State) :
    Host.Outcome State Fault Refusal :=
  .next (s.threadOp b e t (.mulh b e t rd rs rt) fun th =>
    let x := th.d[rs]
    let y := th.d[rt]
    th.setD rd (BitVec.ofInt 32 (prodS x y / 4294967296)))

/-- MULHU (R222). -/
def execMulhu (b : Fin 6) (e : Fin 32) (t : Fin 8) (rd rs rt : Fin 16) (s : State) :
    Host.Outcome State Fault Refusal :=
  .next (s.threadOp b e t (.mulhu b e t rd rs rt) fun th =>
    let x := th.d[rs]
    let y := th.d[rt]
    th.setD rd (BitVec.ofNat 32 (prodU x y / 4294967296)))

/-- CLZ (R222). -/
def execClz (b : Fin 6) (e : Fin 32) (t : Fin 8) (rd rs : Fin 16) (s : State) :
    Host.Outcome State Fault Refusal :=
  .next (s.threadOp b e t (.clz b e t rd rs) fun th =>
    let x := th.d[rs]
    th.setD rd (BitVec.ofNat 32 (clz32 x)))

/-- ABS (R222). -/
def execAbs (b : Fin 6) (e : Fin 32) (t : Fin 8) (rd rs : Fin 16) (s : State) :
    Host.Outcome State Fault Refusal :=
  .next (s.threadOp b e t (.abs b e t rd rs) fun th =>
    let x := th.d[rs]
    th.setD rd (if x = 0x80000000#32 then 0x7FFFFFFF#32 else if x.toInt < 0 then -x else x))

/-- ADDI (R223). -/
def execAddi (b : Fin 6) (e : Fin 32) (t : Fin 8) (rd rs : Fin 16) (imm : BitVec 18) (s : State) :
    Host.Outcome State Fault Refusal :=
  .next (s.threadOp b e t (.addi b e t rd rs imm) fun th =>
    let x := th.d[rs]
    th.setD rd (x + imm.signExtend 32))

/-- SLTI (R223). -/
def execSlti (b : Fin 6) (e : Fin 32) (t : Fin 8) (rd rs : Fin 16) (imm : BitVec 18) (s : State) :
    Host.Outcome State Fault Refusal :=
  .next (s.threadOp b e t (.slti b e t rd rs imm) fun th =>
    let x := th.d[rs]
    th.setD rd (boolWord (x.slt (imm.signExtend 32))))

/-- SLTIU (R223). -/
def execSltiu (b : Fin 6) (e : Fin 32) (t : Fin 8) (rd rs : Fin 16) (imm : BitVec 18) (s : State) :
    Host.Outcome State Fault Refusal :=
  .next (s.threadOp b e t (.sltiu b e t rd rs imm) fun th =>
    let x := th.d[rs]
    th.setD rd (boolWord (x.ult (imm.signExtend 32))))

/-- ANDI (R223). -/
def execAndi (b : Fin 6) (e : Fin 32) (t : Fin 8) (rd rs : Fin 16) (imm : BitVec 18) (s : State) :
    Host.Outcome State Fault Refusal :=
  .next (s.threadOp b e t (.andi b e t rd rs imm) fun th =>
    let x := th.d[rs]
    th.setD rd (x &&& imm.setWidth 32))

/-- ORI (R223). -/
def execOri (b : Fin 6) (e : Fin 32) (t : Fin 8) (rd rs : Fin 16) (imm : BitVec 18) (s : State) :
    Host.Outcome State Fault Refusal :=
  .next (s.threadOp b e t (.ori b e t rd rs imm) fun th =>
    let x := th.d[rs]
    th.setD rd (x ||| imm.setWidth 32))

/-- XORI (R223). -/
def execXori (b : Fin 6) (e : Fin 32) (t : Fin 8) (rd rs : Fin 16) (imm : BitVec 18) (s : State) :
    Host.Outcome State Fault Refusal :=
  .next (s.threadOp b e t (.xori b e t rd rs imm) fun th =>
    let x := th.d[rs]
    th.setD rd (x ^^^ imm.setWidth 32))

/-- LUI (R223). -/
def execLui (b : Fin 6) (e : Fin 32) (t : Fin 8) (rd : Fin 16) (imm : BitVec 16) (s : State) :
    Host.Outcome State Fault Refusal :=
  .next (s.threadOp b e t (.lui b e t rd imm) fun th =>
    th.setD rd (imm ++ 0#16))

/-- SHIFTI (R223). -/
def execShifti (b : Fin 6) (e : Fin 32) (t : Fin 8) (rd rs : Fin 16) (ty : BitVec 2) (sh : BitVec 5) (s : State) :
    Host.Outcome State Fault Refusal :=
  .next (s.threadOp b e t (.shifti b e t rd rs ty sh) fun th =>
    th.setD rd (shift32 ty.toNat th.d[rs] sh.toNat))

/-- ADDAI (R224). -/
def execAddai (b : Fin 6) (e : Fin 32) (t : Fin 8) (ad sa : Fin 16) (imm : BitVec 18) (s : State) :
    Host.Outcome State Fault Refusal :=
  .next (s.threadOp b e t (.addai b e t ad sa imm) fun th =>
    th.setA ad (th.a[sa] + imm.signExtend 32))

/-- MOVA (R224). -/
def execMova (b : Fin 6) (e : Fin 32) (t : Fin 8) (ad sa : Fin 16) (s : State) :
    Host.Outcome State Fault Refusal :=
  .next (s.threadOp b e t (.mova b e t ad sa) fun th =>
    th.setA ad th.a[sa])

/-- ADDA (R224). -/
def execAdda (b : Fin 6) (e : Fin 32) (t : Fin 8) (ad sa dt : Fin 16) (sc : BitVec 2) (s : State) :
    Host.Outcome State Fault Refusal :=
  .next (s.threadOp b e t (.adda b e t ad sa dt sc) fun th =>
    th.setA ad (th.a[sa] + (th.d[dt] <<< sc.toNat)))

/-- SUBA (R224). -/
def execSuba (b : Fin 6) (e : Fin 32) (t : Fin 8) (ad sa dt : Fin 16) (sc : BitVec 2) (s : State) :
    Host.Outcome State Fault Refusal :=
  .next (s.threadOp b e t (.suba b e t ad sa dt sc) fun th =>
    th.setA ad (th.a[sa] - (th.d[dt] <<< sc.toNat)))

/-- MOVDA (R224). -/
def execMovda (b : Fin 6) (e : Fin 32) (t : Fin 8) (ad ds : Fin 16) (s : State) :
    Host.Outcome State Fault Refusal :=
  .next (s.threadOp b e t (.movda b e t ad ds) fun th =>
    th.setA ad th.d[ds])

/-- MOVAD (R224). -/
def execMovad (b : Fin 6) (e : Fin 32) (t : Fin 8) (dd sa : Fin 16) (s : State) :
    Host.Outcome State Fault Refusal :=
  .next (s.threadOp b e t (.movad b e t dd sa) fun th =>
    th.setD dd th.a[sa])

end Sys2Proof.Machine
end

