-- ==== Sys2Proof/Machine/Crypto.lean ====
section
/-!
DEFINITION. The algorithms of the standards that the spec names and does not print: SHA-256 (FIPS 180-4), HMAC
(FIPS 198-1), AES (FIPS 197), GHASH and GMAC (SP 800-38D), ECDSA verification on P-256 (FIPS 186-4, SEC 1).
PRESUMED, assumption log entry 26: the algorithms are taken from those standards.
-/

namespace Sys2Proof.Machine

/-! ### SHA-256 -/

/-- The integer `k`-th root of `n`, for roots below 2^40. -/
def intRoot (k n : Nat) : Nat :=
  (List.range 40).foldl (fun r i => let r' := r + 2 ^ (39 - i); if r' ^ k ≤ n then r' else r) 0

/-- The first 64 prime numbers. -/
def shaPrimes : List Nat := (List.range 312).filter fun n => decide (2 ≤ n) && (List.range n).all fun d => decide (d < 2) || n % d != 0

/-- The first 32 bits of the fractional part of the `k`-th root of a number: the constants of the algorithm are of this form. -/
def shaFrac (k p : Nat) : Word := BitVec.ofNat 32 (intRoot k (p * 2 ^ (32 * k)))

/-- The 64 round constants, from the cube roots of the first 64 primes. -/
def shaK : List Word := shaPrimes.map (shaFrac 3)

/-- The initial hash value, H0 first, from the square roots of the first eight primes. -/
def shaInit : List Word := (shaPrimes.take 8).map (shaFrac 2)

/-- A word rotated right by three amounts, the results added modulo 2. -/
def rotXor (w : Word) (i j k : Nat) : Word := w.rotateRight i ^^^ w.rotateRight j ^^^ w.rotateRight k

/-- A word rotated right by two amounts and shifted right by a third, the results added modulo 2. -/
def shiftXor (w : Word) (i j k : Nat) : Word := w.rotateRight i ^^^ w.rotateRight j ^^^ (w >>> k)

/-- One step of the compression on the eight working words, the first of them first: `kw` is constant plus schedule word. -/
def shaStep (v : List Word) (kw : Word) : List Word :=
  match v with
  | [p, q, r, s, t, u, w, z] =>
    let m := z + kw + rotXor t 6 11 25 + ((t &&& u) ||| (w &&& ~~~t))
    [m + rotXor p 2 13 22 + ((p &&& q) ||| (r &&& (p ||| q))), p, q, r, s + m, t, u, w]
  | _ => v

/-- The message schedule goes on by one word: `w` holds the next 16. -/
def shaNext (w : List Word) : List Word :=
  let at_ := fun i => w.getD i 0#32
  w.drop 1 ++ [at_ 0 + shiftXor (at_ 1) 7 18 3 + at_ 9 + shiftXor (at_ 14) 17 19 10]

/-- A hash state as a number: H0 in the most significant 32 bits. -/
def shaPack (ws : List Word) : Nat := ws.foldl (fun n w => n * 2 ^ 32 + w.toNat) 0

/-- The eight words of a hash state. -/
def shaUnpack (st : Nat) : List Word := (List.range 8).map fun i => BitVec.ofNat 32 (st / 2 ^ (224 - 32 * i))

/-- One 64-byte block. -/
def shaBlock (st : Nat) (bs : List Byte) : Nat :=
  let h := shaUnpack st
  let w := (List.range 16).map fun i => BitVec.ofNat 32 (beNat ((bs.drop (4 * i)).take 4))
  let (v, _) := shaK.foldl (fun (x : List Word × List Word) k => (shaStep x.1 (k + x.2.headD 0#32), shaNext x.2)) (h, w)
  shaPack (List.zipWith (· + ·) h v)

/-- Absorb whole blocks of `n` bytes; the state and the bytes left over. -/
def absorbBlocks (blk : Nat → List Byte → Nat) (n : Nat) : Nat → Nat → List Byte → Nat × List Byte
  | 0, st, bs => (st, bs)
  | k + 1, st, bs => if bs.length < n then (st, bs) else absorbBlocks blk n k (blk st (bs.take n)) (bs.drop n)

/-- End a hash: the state, the bytes short of a block, the length in bytes of all that was hashed. -/
def shaFinish (st : Nat) (tail : List Byte) (len : Nat) : Nat :=
  let z := (119 - tail.length % 64) % 64
  let bs := tail ++ [0x80#8] ++ List.replicate z 0#8 ++ beBytes 8 (8 * len)
  (absorbBlocks shaBlock 64 bs.length st bs).1

/-- SHA-256 of a message, as a number. -/
def sha256Nat (bs : List Byte) : Nat :=
  let (st, tail) := absorbBlocks shaBlock 64 bs.length (shaPack shaInit) bs
  shaFinish st tail bs.length

/-- SHA-256 of a message: 32 bytes. -/
def sha256 (bs : List Byte) : List Byte := beBytes 32 (sha256Nat bs)

/-- The block that HMAC prefixes: the padded key under a pad byte (no key here exceeds 64 bytes). -/
def hmacPad (key : List Byte) (p : Byte) : List Byte := (key ++ List.replicate (64 - key.length) 0#8).map (· ^^^ p)

/-- The inner state after the padded key. -/
def hmacStart (key : List Byte) : Nat := shaBlock (shaPack shaInit) (hmacPad key 0x36#8)

/-- The MAC from key, inner state, bytes short of a block and message length. -/
def hmacFinish (key : List Byte) (st : Nat) (tail : List Byte) (len : Nat) : Nat :=
  let inner := beBytes 32 (shaFinish st tail (len + 64))
  shaFinish (shaBlock (shaPack shaInit) (hmacPad key 0x5C#8)) inner 96

/-- HMAC-SHA256 of a message: 32 bytes. -/
def hmac256 (key msg : List Byte) : List Byte :=
  let (st, tail) := absorbBlocks shaBlock 64 msg.length (hmacStart key) msg
  beBytes 32 (hmacFinish key st tail msg.length)

/-! ### AES -/

/-- Multiply by x in GF(2^8). -/
def xtime (b : Nat) : Nat := if b < 128 then 2 * b else (2 * b) % 256 ^^^ 0x1B

/-- Multiply in GF(2^8), over the low `n` bits of the second factor. -/
def gmul8 : Nat → Nat → Nat → Nat
  | 0, _, _ => 0
  | n + 1, a, b => (if b % 2 == 1 then a else 0) ^^^ gmul8 n (xtime a) (b / 2)

/-- The inverse in GF(2^8): the 254th power; 0 for 0. -/
def ginv8 (a : Nat) : Nat :=
  let m := gmul8 8
  let a2 := m a a
  let a3 := m a2 a
  let a6 := m a3 a3
  let a12 := m a6 a6
  let a15 := m a12 a3
  let a30 := m a15 a15
  let a60 := m a30 a30
  let a120 := m a60 a60
  let a240 := m a120 a120
  m a240 (m a12 a2)

/-- The S-box. -/
def aesSub (a : Nat) : Nat :=
  let i := ginv8 a
  let r (k : Nat) := (i * 2 ^ k) % 256 ^^^ (i * 2 ^ k) / 256
  i ^^^ r 1 ^^^ r 2 ^^^ r 3 ^^^ r 4 ^^^ 0x63

/-- The key schedule: `n` more words of 4 bytes, `i` the number of the next, `nk` the words of the key, `rc` the round
constant to come; `ws` the words so far, latest first. -/
def aesExpand (nk : Nat) : Nat → Nat → Nat → List (List Nat) → List (List Nat)
  | 0, _, _, ws => ws
  | n + 1, i, rc, ws =>
    let t := ws.headD []
    let p := ws.getD (nk - 1) []
    let (t, rc') :=
      if i % nk == 0 then
        ((t.drop 1 ++ t.take 1).map aesSub |> (fun l => match l with | [] => [] | x :: xs => (x ^^^ rc) :: xs), xtime rc)
      else if 6 < nk && i % nk == 4 then (t.map aesSub, rc) else (t, rc)
    aesExpand nk n (i + 1) rc' (List.zipWith (· ^^^ ·) p t :: ws)

/-- Cut a list into pieces of four. -/
def quads : Nat → List Nat → List (List Nat)
  | 0, _ => []
  | n + 1, l => l.take 4 :: quads n (l.drop 4)

/-- ShiftRows: byte r + 4 c of the state. -/
def aesShift (s : List Nat) : List Nat := (List.range 16).map fun i => s.getD ((i + 4 * (i % 4)) % 16) 0

/-- MixColumns of one column. -/
def aesMix : List Nat → List Nat
  | [a, b, c, d] =>
    let t := a ^^^ b ^^^ c ^^^ d
    [a ^^^ t ^^^ xtime (a ^^^ b), b ^^^ t ^^^ xtime (b ^^^ c), c ^^^ t ^^^ xtime (c ^^^ d), d ^^^ t ^^^ xtime (d ^^^ a)]
  | l => l

/-- One block of AES under a key of 16 or 32 bytes, as a big-endian number. -/
def aesBlock (key blk : List Byte) : Nat :=
  let nk := key.length / 4
  let nr := nk + 6
  let ws := (aesExpand nk (4 * (nr + 1) - nk) nk 1 (quads nk (key.map (·.toNat))).reverse).reverse
  let rk (r : Nat) : List Nat := ((ws.drop (4 * r)).take 4).flatten
  let s := List.zipWith (· ^^^ ·) (blk.map (·.toNat)) (rk 0)
  let s := (List.range (nr - 1)).foldl
    (fun s r => List.zipWith (· ^^^ ·) ((quads 4 (aesShift (s.map aesSub))).flatMap aesMix) (rk (r + 1))) s
  let s := List.zipWith (· ^^^ ·) (aesShift (s.map aesSub)) (rk nr)
  s.foldl (fun n b => n * 256 + b % 256) 0

/-- Multiply in the field of GHASH; the most significant bit is the coefficient of 1. -/
def ghashMul : Nat → Nat → Nat → Nat
  | 0, _, _ => 0
  | n + 1, x, v =>
    (if bit x n then v else 0) ^^^ ghashMul n x (if v % 2 == 1 then (v / 2) ^^^ (0xE1 * 2 ^ 120) else v / 2)

/-- One 16-byte block of GHASH under a key. -/
def ghashBlock (key : List Byte) (st : Nat) (blk : List Byte) : Nat :=
  ghashMul 128 (st ^^^ beNat blk) (aesBlock key (List.replicate 16 0#8))

/-- GMAC from key, 12-byte initialisation vector, accumulator, last bytes and message length. -/
def gmacFinish (key iv : List Byte) (st : Nat) (tail : List Byte) (len : Nat) : Nat :=
  let st := if tail.isEmpty then st else ghashBlock key st (tail ++ List.replicate (16 - tail.length) 0#8)
  let st := ghashBlock key st (beBytes 8 (8 * len) ++ beBytes 8 0)
  st ^^^ aesBlock key (iv ++ beBytes 4 1)

/-! ### ECDSA on P-256 -/

/-- The prime, the order, the coefficient b and the base point. -/
def ecP : Nat := 0xffffffff00000001000000000000000000000000ffffffffffffffffffffffff
def ecN : Nat := 0xffffffff00000000ffffffffffffffffbce6faada7179e84f3b9cac2fc632551
def ecB : Nat := 0x5ac635d8aa3a93e7b3ebbd55769886bc651d06b0cc53b0f63bce3c3e27d2604b
def ecGx : Nat := 0x6b17d1f2e12c4247f8bce6e563a440f277037d812deb33a0f4a13945d898c296
def ecGy : Nat := 0x4fe342e2fe1a7f9b8ee7eb4a7c0f9e162bce33576b315ececbb6406837bf51f5

/-- `b ^ e mod m` over the low `n` bits of `e`. -/
def powMod (m : Nat) : Nat → Nat → Nat → Nat → Nat
  | 0, _, _, acc => acc
  | n + 1, b, e, acc => powMod m n (b * b % m) (e / 2) (if e % 2 == 1 then acc * b % m else acc)

/-- The inverse modulo a prime. -/
def invMod (m a : Nat) : Nat := powMod m 256 (a % m) (m - 2) (1 % m)

/-- A point in Jacobian coordinates; Z = 0 is the point at infinity. -/
structure EcPoint where
  x : Nat
  y : Nat
  z : Nat
  deriving DecidableEq, Repr

/-- Subtract modulo the prime. -/
def ecSub (a b : Nat) : Nat := (a + (ecP - b % ecP)) % ecP

/-- Double a point (a = −3). -/
def EcPoint.dbl (p : EcPoint) : EcPoint :=
  let yy := p.y * p.y % ecP
  let s := 4 * p.x * yy % ecP
  let zz := p.z * p.z % ecP
  let m := 3 * ecSub p.x zz * (p.x + zz) % ecP
  let x := ecSub (m * m) (2 * s)
  { x := x, y := ecSub (m * ecSub s x) (8 * yy * yy), z := 2 * p.y * p.z % ecP }

/-- Add two points. -/
def EcPoint.add (p q : EcPoint) : EcPoint :=
  if p.z = 0 then q
  else if q.z = 0 then p
  else
    let z1 := p.z * p.z % ecP
    let z2 := q.z * q.z % ecP
    let u1 := p.x * z2 % ecP
    let u2 := q.x * z1 % ecP
    let s1 := p.y * z2 * q.z % ecP
    let s2 := q.y * z1 * p.z % ecP
    if u1 = u2 then (if s1 = s2 then p.dbl else { x := 1, y := 1, z := 0 })
    else
      let h := ecSub u2 u1
      let r := ecSub s2 s1
      let hh := h * h % ecP
      let hhh := hh * h % ecP
      let v := u1 * hh % ecP
      let x := ecSub (ecSub (r * r) hhh) (2 * v)
      { x := x, y := ecSub (r * ecSub v x) (s1 * hhh), z := h * p.z * q.z % ecP }

/-- `k` times a point, over the low `n` bits of `k`. -/
def EcPoint.mul : Nat → Nat → EcPoint → EcPoint → EcPoint
  | 0, _, _, acc => acc
  | n + 1, k, p, acc => EcPoint.mul n (k / 2) p.dbl (if k % 2 == 1 then acc.add p else acc)

/-- Is a 64-byte key, X then Y, a point of the curve (R441)? -/
def ecKeyOk (key : List Byte) : Bool :=
  let x := beNat (key.take 32)
  let y := beNat (key.drop 32)
  key.length == 64 && decide (x < ecP) && decide (y < ecP) &&
  (y * y) % ecP == (x * x * x + (ecP - 3) * x + ecB) % ecP

/-- Does a signature, r then s, of a message verify under a key (R441)? -/
def ecdsaOk (key msg sig : List Byte) : Bool :=
  let r := beNat (sig.take 32)
  let s := beNat (sig.drop 32)
  ecKeyOk key && sig.length == 64 && decide (0 < r) && decide (r < ecN) && decide (0 < s) && decide (s < ecN) &&
  (let w := invMod ecN s
   let inf : EcPoint := { x := 1, y := 1, z := 0 }
   let q : EcPoint := { x := beNat (key.take 32), y := beNat (key.drop 32), z := 1 }
   let t := (EcPoint.mul 256 (sha256Nat msg * w % ecN) { x := ecGx, y := ecGy, z := 1 } inf).add
     (EcPoint.mul 256 (r * w % ecN) q inf)
   let zi := invMod ecP t.z
   t.z != 0 && (t.x * (zi * zi % ecP) % ecP) % ecN == r)

end Sys2Proof.Machine
end

