-- ==== Sys2Proof/Machine/Vat.lean ====
section
/-!
DEFINITION. Vat banks and their owners, retention, pails and their pools (chapter 10).
-/

namespace Sys2Proof.Machine

/-- Is the code an owner code of R280? -/
def ownerCode (c : Nat) : Bool :=
  decide (c ≤ 4) || (decide (0x10 ≤ c) && decide (c ≤ 0x1F)) || c == 0x20 || c == 0x30

/-- Pail size of pool `p` (R287). -/
def pailSize (p : Nat) : Nat :=
  match p with
  | 0 => 128
  | 1 => 256
  | 2 => 512
  | _ => 2048

namespace Byre

/-! ### Banks -/

/-- Does pool `p` own bank `k` (R287)? -/
def poolBank (y : Byre) (p k : Nat) : Bool :=
  y.flag (F.PAIL_POOL_CFG_EN p) && decide (y.get (F.PAIL_POOL_CFG_BASE_BANK p) ≤ k) &&
    decide (k < y.get (F.PAIL_POOL_CFG_BASE_BANK p) + y.get (F.PAIL_POOL_CFG_NBANKS p))

/-- Is the bank one of an enabled pool? -/
def inPool (y : Byre) (k : Nat) : Bool := (List.range 4).any fun p => y.poolBank p k

/-- Is the bank retained or still waking (R285)? -/
def bankAsleep (y : Byre) (k : Nat) : Bool := y.flag (F.VAT_OWNER_RETAINED k) || y.flag (F.VAT_OWNER_WAKING k)

/-- May owner code `c` access bank `k` (R282, R283, R285)? -/
def bankOpen (y : Byre) (k c : Nat) : Bool := decide (k < 48) && y.bankOwner k == c && !y.bankAsleep k

/-- Has a tanker channel a live transfer or an armed shadow (R282)? -/
def chanBusy (y : Byre) (n : Nat) : Bool := y.get (F.TNK_STATUS_STATE n) == 1 || y.flag (F.TNK_STATUS_SH_ARMED n)

/-- IN_TRANSIT of BYx_VAT_BOOK. -/
def syncVatBook (y : Byre) : Byre :=
  y.set F.VAT_BOOK_IN_TRANSIT ((List.range 48).filter fun k => y.flag (F.VAT_OWNER_PEND k)).length

/-- Hand a bank to an owner (R282): at once, or pending while its tanker channel is busy. -/
def handover (y : Byre) (k c : Nat) : Byre :=
  let o := y.bankOwner k
  if y.flag (F.VAT_OWNER_PEND k) then (y.set (F.VAT_OWNER_PEND_OWNER k) c).inc R.VAT_CNT_HANDOVER_REPLACE
  else if 0x10 ≤ o ∧ o ≤ 0x1F ∧ y.chanBusy (o - 0x10) then
    ((y.put (F.VAT_OWNER_PEND k) true).set (F.VAT_OWNER_PEND_OWNER k) c).syncVatBook
  else (y.set (F.VAT_OWNER_OWNER k) c).inc R.VAT_CNT_HANDOVER

/-- A pending handover whose channel has become idle takes effect (R282). -/
def handoverApply (y : Byre) (k : Nat) : Byre :=
  let o := y.bankOwner k
  if y.flag (F.VAT_OWNER_PEND k) ∧ !(decide (0x10 ≤ o) && decide (o ≤ 0x1F) && y.chanBusy (o - 0x10)) then
    (((y.set (F.VAT_OWNER_OWNER k) (y.get (F.VAT_OWNER_PEND_OWNER k))).put (F.VAT_OWNER_PEND k) false).set
      (F.VAT_OWNER_PEND_OWNER k) 0).inc R.VAT_CNT_HANDOVER |>.syncVatBook
  else y

/-- A HANDOVER word (R281, R285, R286): refused for a bank that is retained, waking or of an enabled pool. -/
def handoverWord (y : Byre) (k c : Nat) : Byre :=
  if y.bankAsleep k || y.inPool k then y.inc R.VAT_CNT_HANDOVER_REFUSED else y.handover k c

/-- A management write of OWNER (R281): reserved for a bank of a pool, for a code R280 does not list, and for another
owner of a bank that retention holds (R285). -/
def ownerWrite (y : Byre) (k c : Nat) : Byre :=
  if y.inPool k || !ownerCode c || (y.flag (F.VAT_OWNER_RET k) && c != 0x20) then y.rsvWrite 7 (R.VAT_OWNER k)
  else y.handover k c

/-- Set RET (R285). -/
def bankRetain (y : Byre) (k : Nat) : Byre :=
  if y.bankOwner k = 0x20 then (y.put (F.VAT_OWNER_RET k) true).put (F.VAT_OWNER_RETAINED k) true
  else y.rsvWrite 7 (R.VAT_OWNER k)

/-- Clear RET: the wake delay of 2 µs starts (R285). -/
def bankWake (y : Byre) (k : Nat) : Byre :=
  if y.flag (F.VAT_OWNER_RET k) then
    let y := ((y.put (F.VAT_OWNER_RET k) false).put (F.VAT_OWNER_RETAINED k) false).put (F.VAT_OWNER_WAKING k) true
    { y with wakeAt := SMap.set (fun _ => 0) y.wakeAt k (y.tu.clk + 2001) }
  else y

/-- A write of the word `v` to BYx_VAT_OWNER: OWNER, then a change of RET (R281, R285). -/
def ownerReg (y : Byre) (k v : Nat) : Byre :=
  let y := y.ownerWrite k (v % 256)
  if bit v 31 = y.flag (F.VAT_OWNER_RET k) then y else if bit v 31 then y.bankRetain k else y.bankWake k

/-- The wake delay of a bank ends (R285). -/
def bankWakeEnd (y : Byre) (k : Nat) : Byre :=
  match SMap.get (fun _ => 0) y.wakeAt k with
  | 0 => y
  | c + 1 =>
    let y := y.advanceClk c
    { y.put (F.VAT_OWNER_WAKING k) false with wakeAt := SMap.set (fun _ => 0) y.wakeAt k 0 }

/-! ### Collisions (R284) -/

/-- A write to a host-window bank by port `port`: where another port has written the same word in the same cycle, one of the two
loses, which is counted and captured, and writes again in the next cycle, so the value of the highest port is there in the end.
Writes at one value of the block's clock may or may not fall into one cycle: that is a free value (assumption log entry 40). -/
def portWrite (y : Byre) (port a : Nat) (bs : List Byte) : Byre :=
  let last := if y.hostWr.1 = y.tu.clk then y.hostWr.2 else []
  let ws := (List.range ((bs.length + 3) / 4)).map fun i => a / 4 * 4 + 4 * i
  let note := fun (y : Byre) (l : List (Nat × Nat)) => { y with hostWr := (y.tu.clk, l ++ ws.map fun w => (w, port)) }
  match ws.find? fun w => last.any fun q => q.1 == w && q.2 != port with
  | none => note (y.vatWrite a bs) last
  | some w =>
    if !Config.sameCycle y.free then note (y.useFree.vatWrite a bs) []
    else
      let old := (last.filter fun q => q.1 == w).map (·.2)
      let stays := last.any fun q => q.1 == w && decide (port < q.2)
      let y := (if stays then y.useFree else y.useFree.vatWrite a bs).inc R.VAT_CNT_COLL
      let y := note y last
      let ports := (port :: old).eraseDups
      let loser := ports.foldl (fun m p => if p = ports.foldl min port then m else min m p) (ports.foldl max port)
      let mine := y.flag F.VAT_COLL_CAP_VALID && !y.flag F.VAT_COLL_CAP_ENG_VALID && decide (2 ≤ old.eraseDups.length) &&
        y.get F.VAT_COLL_CAP_BANK == a / 0x40000 && old.contains (y.get F.VAT_COLL_CAP_LOSER)
      if y.flag F.VAT_COLL_CAP_VALID && !mine then y
      else
        let y := ((y.put F.VAT_COLL_CAP_ENG_VALID false).set F.VAT_COLL_CAP_ENGINE 0).set F.VAT_COLL_CAP_BANK (a / 0x40000)
        ((y.set F.VAT_COLL_CAP_OWNER (y.bankOwner (a / 0x40000))).set F.VAT_COLL_CAP_LOSER loser).put F.VAT_COLL_CAP_VALID true

/-! ### Pails -/

/-- Write a frame into a pail: every word it touches has new parity (R24). -/
def pailWrite (y : Byre) (off : Nat) (bs : List Byte) : Byre :=
  (List.range ((bs.length + 3) / 4)).foldl (fun y i => y.parClear 0 (off + 4 * i)) (y.vatWrite off bs)

/-- The vat offset of a pool's first pail, and its number of pails (R287). -/
def poolBase (y : Byre) (p : Nat) : Nat := y.get (F.PAIL_POOL_CFG_BASE_BANK p) * 0x40000
def poolTotal (y : Byre) (p : Nat) : Nat := y.get (F.PAIL_POOL_BOOK_TOTAL p)

/-- The enabled pool whose pail starts at the offset (R287). -/
def pailPool (y : Byre) (off : Nat) : Option Nat :=
  (List.range 4).find? fun p => y.poolBank p (off / 0x40000) && (off - y.poolBase p) % pailSize p == 0

/-- Is the pail allocated (its state bit, R291)? -/
def pailUsed (y : Byre) (off : Nat) : Bool := SMap.get (fun _ => 0) y.charge off != 0

/-- Size of the pail at an offset, 0 where none starts there. -/
def pailLen (y : Byre) (off : Nat) : Nat := (y.pailPool off).elim 0 pailSize

/-- Write the link of a free pail (R291); the write renews the parity of its words. -/
def setLink (y : Byre) (off : Nat) (next : Option Nat) : Byre :=
  let bs := match next with
    | some n => leBytes 8 n
    | none => leBytes 8 (2 ^ 63)
  ((y.vatWrite off bs).parClear 0 off).parClear 0 (off + 4)

/-- The pool's list head. -/
def head (y : Byre) (p : Nat) : Option Nat :=
  match SMap.get (fun _ => 0) y.poolHead p with
  | 0 => none
  | n + 1 => some n

/-- Set the pool's list head. -/
def setHead (y : Byre) (p : Nat) (h : Option Nat) : Byre :=
  { y with poolHead := SMap.set (fun _ => 0) y.poolHead p (h.elim 0 (· + 1)) }

/-- Push a pail on the head of its pool's list. -/
def pushPail (y : Byre) (p off : Nat) : Byre := (y.setLink off (y.head p)).setHead p (some off)

/-- Can the pool serve a request now (R288)? -/
def poolServes (y : Byre) (p : Nat) : Bool :=
  y.flag (F.PAIL_POOL_CFG_EN p) && (y.head p).isSome && !y.flag (F.PAIL_POOL_STAT_BROKEN p) &&
    !y.flag (F.PAIL_POOL_STAT_REBUILDING p)

/-- Take the head pail of a pool for requester `r` (R291, R293). -/
def takePail (y : Byre) (p r off : Nat) : Byre :=
  let y := y.set (F.PAIL_POOL_STAT_FREE p) (y.get (F.PAIL_POOL_STAT_FREE p) - 1)
  let (f0, y) := y.parCheck 0 off
  let (f1, y) := y.parCheck 0 (off + 4)
  let y := if f0 || f1 then ((y.setHead p none).put (F.PAIL_POOL_STAT_BROKEN p) true).inc R.PAIL_CNT_LINK_PARITY
    else
      let l := leNat (y.vatRead off 8)
      y.setHead p (if bit l 63 then none else some (l % 2 ^ 24))
  let y := { y with charge := SMap.set (fun _ => 0) y.charge off (r + 1) }
  y.set (F.PAIL_USED_USED r) (y.get (F.PAIL_USED_USED r) + pailSize p / 128)

/-- Ask for a pail of at least `size` bytes for requester `r` (R288, R290). -/
def alloc (y : Byre) (r size : Nat) : Option Nat × Byre :=
  let fits := (List.range 4).filter fun p => y.flag (F.PAIL_POOL_CFG_EN p) && decide (size ≤ pailSize p)
  match fits.find? y.poolServes with
  | none => (none, y.inc R.PAIL_CNT_EMPTY)
  | some p =>
    match y.head p with
    | none => (none, y.inc R.PAIL_CNT_EMPTY)
    | some off =>
      if y.get (F.PAIL_QUOTA_LIMIT r) < y.get (F.PAIL_USED_USED r) + pailSize p / 128 then (none, y.inc R.PAIL_CNT_QUOTA)
      else
        let (bad, y) := y.parCheck 4 off
        if bad then (none, y.machineCheck 7 6)
        else (some off, (y.when (fits.head? != some p) fun y => y.inc R.PAIL_CNT_FALLBACK).takePail p r off)

/-- Record a refused free (R292): counted, captured and evented while no capture is held. -/
def badFree (y : Byre) (kind r off cnt : Nat) : Byre :=
  let y := y.inc cnt
  if y.flag F.PAIL_FREE_CAP_VALID then y
  else
    let y := (((y.set F.PAIL_FREE_CAP_KIND kind).set F.PAIL_FREE_CAP_REQ r).put F.PAIL_FREE_CAP_VALID true).wrN R.PAIL_FREE_ADDR off
    y.event 0x42 ([BitVec.ofNat 8 kind, BitVec.ofNat 8 r, 0#8, 0#8] ++ leBytes 4 off)

/-- A pail that held a can is freed: its credit awaits return (R352, R363). -/
def creditReturn (y : Byre) (off : Nat) : Byre :=
  match SMap.get (fun _ => 0) y.canPail off with
  | 0 => y
  | k + 1 =>
    let l := k / 4
    let v := k % 4
    let y := { y with canPail := SMap.set (fun _ => 0) y.canPail off 0 }
    (y.set (F.TUG_LINK_RX_CRED_HELD l v) (y.get (F.TUG_LINK_RX_CRED_HELD l v) - 1)).set (F.TUG_LINK_RX_CRED_RET_PEND l v)
      (y.get (F.TUG_LINK_RX_CRED_RET_PEND l v) + 1)

/-! ### Rebuilds (R293) -/

/-- Pail `i` of a pool has been freed, or is found free by the scan: it is on the free list. -/
def listPail (y : Byre) (p off : Nat) : Byre :=
  (y.pushPail p off).set (F.PAIL_POOL_STAT_FREE p) (y.get (F.PAIL_POOL_STAT_FREE p) + 1)

/-- The scan of a pool: next read, and groups left. -/
def scanOf (y : Byre) (p : Nat) : Nat × Nat := SMap.get (fun _ => (0, 0)) y.poolScan p

/-- The pails of group `g` of 32, in descending order. -/
def groupPails (y : Byre) (p g : Nat) : List Nat :=
  (((List.range 32).map fun i => 32 * g + i).filter fun i => decide (i < y.poolTotal p)).reverse.map fun i =>
    y.poolBase p + i * pailSize p

/-- The scan reads the state bits of its next group in one cycle and pushes the free pails, one a cycle. -/
def scanGroup (y : Byre) (p : Nat) : Byre :=
  let (at_, left) := y.scanOf p
  let offs := y.groupPails p (left - 1)
  if offs.any fun o => y.parBad 4 o then y.machineCheck 7 6
  else
    let free := offs.filter fun o => !y.pailUsed o
    let y := free.foldl (fun y o => y.listPail p o) y
    { y with poolScan := SMap.set (fun _ => (0, 0)) y.poolScan p (at_ + 2 * (1 + free.length), left - 1) }

/-- The scan goes on with the groups that it reads by the `clk` value `lim` (none: to its end). -/
def scanTo (p : Nat) (lim : Option Nat) : Nat → Byre → Byre
  | 0, y => y
  | fuel + 1, y =>
    let (at_, left) := y.scanOf p
    if left = 0 ∨ y.st = stFAULTED ∨ lim.any (fun c => decide (c < at_)) then y else scanTo p lim fuel (y.scanGroup p)

/-- The scans of the pools that are being rebuilt go on to the present. -/
def scanNow (y : Byre) (p : Nat) : Byre :=
  if y.flag (F.PAIL_POOL_STAT_REBUILDING p) then scanTo p (some y.tu.clk) (y.scanOf p).2 y else y

/-- Has the scan read the group of the pail at `off` already? -/
def scanned (y : Byre) (p off : Nat) : Bool := decide ((y.scanOf p).2 ≤ (off - y.poolBase p) / pailSize p / 32)

/-- Free the pail at an offset, for requester `r` (R292, R293). -/
def free_ (y : Byre) (r off : Nat) : Byre :=
  match y.pailPool off with
  | none => y.badFree 1 r off R.PAIL_CNT_BAD_FREE
  | some p =>
    let (bad, y) := y.parCheck 4 off
    if bad then y.machineCheck 7 6
    else
      match SMap.get (fun _ => 0) y.charge off with
      | 0 => y.badFree 0 r off R.PAIL_CNT_DOUBLE_FREE
      | q + 1 =>
        let y := y.scanNow p
        let y := { y with charge := SMap.set (fun _ => 0) y.charge off 0,
                          pailTag := SMap.set (fun _ => none) y.pailTag off none }.creditReturn off
        let y := y.set (F.PAIL_USED_USED q) (y.get (F.PAIL_USED_USED q) - pailSize p / 128)
        if y.flag (F.PAIL_POOL_STAT_REBUILDING p) && !y.scanned p off then y else y.listPail p off

/-- The hardware returns a pail to its pool. -/
def pailReturn (y : Byre) (off : Nat) : Byre := y.free_ (SMap.get (fun _ => 0) y.charge off - 1) off

/-- Every pail of a pool, ascending. -/
def pailsOf (y : Byre) (p : Nat) : List Nat := (List.range (y.poolTotal p)).map fun i => y.poolBase p + i * pailSize p

/-- Link the free pails of a pool in descending order, which leaves the lowest at the head (R293). -/
def relink (y : Byre) (p : Nat) : Byre :=
  let free := (y.pailsOf p).filter fun o => !y.pailUsed o
  let y := free.reverse.foldl (fun y o => y.pushPail p o) (y.setHead p none)
  y.set (F.PAIL_POOL_STAT_FREE p) free.length

/-- A rebuild runs to its end (R293), which a parity failure in the state array keeps it from. -/
def poolRebuild (y : Byre) (p : Nat) : Byre :=
  if !y.flag (F.PAIL_POOL_STAT_REBUILDING p) then y
  else
    let y := scanTo p none (y.scanOf p).2 y
    let (at_, left) := y.scanOf p
    if left ≠ 0 then y
    else
      (((y.advanceClk at_).put (F.PAIL_POOL_STAT_REBUILDING p) false).put (F.PAIL_POOL_STAT_BROKEN p) false).inc R.PAIL_CNT_REBUILD

/-- The boundary routine's request (R73 step 4, R293): the scan starts at the last group. -/
def requestRebuilds (y : Byre) : Byre :=
  (List.range 4).foldl (fun y p =>
    if y.flag (F.PAIL_POOL_STAT_BROKEN p) && !y.flag (F.PAIL_POOL_STAT_REBUILDING p) then
      let y := ((y.put (F.PAIL_POOL_STAT_REBUILDING p) true).set (F.PAIL_POOL_STAT_FREE p) 0).setHead p none
      { y with poolScan := SMap.set (fun _ => (0, 0)) y.poolScan p (y.tu.clk, (y.poolTotal p + 31) / 32) }
    else y) y

/-- A write that sets EN (R287): `base` and `n` name the banks. -/
def poolEnable (y : Byre) (p base n : Nat) : Byre :=
  let ok := decide (1 ≤ n) && decide (base + n ≤ 48) &&
    ((List.range n).all fun i => y.bankOpen (base + i) 0x20 && !y.inPool (base + i))
  if y.flag (F.PAIL_POOL_CFG_EN p) then
    (if base = y.get (F.PAIL_POOL_CFG_BASE_BANK p) ∧ n = y.get (F.PAIL_POOL_CFG_NBANKS p) then y
     else y.rsvWrite 6 (R.PAIL_POOL_CFG p))
  else if !ok then y.rsvWrite 6 (R.PAIL_POOL_CFG p)
  else
    let y := ((y.set (F.PAIL_POOL_CFG_BASE_BANK p) base).set (F.PAIL_POOL_CFG_NBANKS p) n).put (F.PAIL_POOL_CFG_EN p) true
    let y := (List.range n).foldl (fun y i => y.set (F.VAT_OWNER_OWNER (base + i)) 0x30) y
    let y := y.set (F.PAIL_POOL_BOOK_TOTAL p) (n * 262144 / pailSize p)
    ((y.put (F.PAIL_POOL_STAT_BROKEN p) false).put (F.PAIL_POOL_STAT_REBUILDING p) false).relink p

/-- A write that clears EN (R287); base and count of a pool that is off are plain fields. -/
def poolDisable (y : Byre) (p base n : Nat) : Byre :=
  if !y.flag (F.PAIL_POOL_CFG_EN p) then
    (if base + n ≤ 48 then (y.set (F.PAIL_POOL_CFG_BASE_BANK p) base).set (F.PAIL_POOL_CFG_NBANKS p) n
     else y.rsvWrite 6 (R.PAIL_POOL_CFG p))
  else if ((y.pailsOf p).any fun o => y.pailUsed o) || y.flag (F.PAIL_POOL_STAT_REBUILDING p) then
    y.rsvWrite 6 (R.PAIL_POOL_CFG p)
  else
    let b0 := y.get (F.PAIL_POOL_CFG_BASE_BANK p)
    let n0 := y.get (F.PAIL_POOL_CFG_NBANKS p)
    let y := (List.range n0).foldl (fun y i => y.set (F.VAT_OWNER_OWNER (b0 + i)) 0x20) y
    let y := ((y.set (F.PAIL_POOL_STAT_FREE p) 0).set (F.PAIL_POOL_BOOK_TOTAL p) 0).setHead p none
    let y := (y.put (F.PAIL_POOL_STAT_BROKEN p) false).put (F.PAIL_POOL_CFG_EN p) false
    if base + n ≤ 48 then (y.set (F.PAIL_POOL_CFG_BASE_BANK p) base).set (F.PAIL_POOL_CFG_NBANKS p) n
    else y.rsvWrite 6 (R.PAIL_POOL_CFG p)

/-- ALLOC_Pp of the pail window (R295): the offset, or all ones. -/
def engineAlloc (y : Byre) (e p : Nat) : Nat × Byre :=
  match y.alloc (30 + clusterOf e) (pailSize p) with
  | (some off, y) => (off, y)
  | (none, y) => (0xFFFFFFFF, y)

/-- May the thread SEND the pail (R295)?  Refused sends change nothing but the counts and the capture. -/
def sendCheck (y : Byre) (e t off : Nat) : Bool × Byre :=
  let r := 30 + clusterOf e
  let len := (y.thread e t).sendLen
  match y.pailPool off with
  | none => (false, y.badFree 1 r off R.PAIL_CNT_BAD_FREE)
  | some p =>
    let (bad, y) := y.parCheck 4 off
    if bad then (false, y.machineCheck 7 6)
    else if !y.pailUsed off then (false, y.badFree 0 r off R.PAIL_CNT_DOUBLE_FREE)
    else if len < 14 ∨ 2044 < len ∨ pailSize p < len then (false, y.inc R.PAIL_CNT_BAD_FREE)
    else (true, y)

/-- SEND_LEN (R295): other values are reserved and make the next SEND refused. -/
def setSendLen (y : Byre) (e t v : Nat) : Byre := y.onThread e t fun th => { th with sendLen := v }

/-- COLL (R295): read and clear. -/
def readColl (y : Byre) (e t : Nat) : Nat × Byre :=
  (b2n (y.thread e t).coll, y.onThread e t fun th => { th with coll := false })

end Byre

/-! ### Commands -/

/-- HANDOVER_PENDING_APPLY (R282). -/
def execHandoverPendingApply (b : Fin 6) (bank : Fin 48) (s : State) : Host.Outcome State Fault Refusal :=
  .next (s.onFab b fun y => y.handoverApply bank)

/-- VAT_OWNER_WRITE (R281, R282). -/
def execVatOwnerWrite (b : Fin 6) (m : Master) (bank : Fin 48) (owner : BitVec 8) (s : State) :
    Host.Outcome State Fault Refusal :=
  .next (s.mgmtWrite b m (R.VAT_OWNER bank) fun y => y.ownerWrite bank owner.toNat)

/-- BANK_RETAIN (R285). -/
def execBankRetain (b : Fin 6) (m : Master) (bank : Fin 48) (s : State) : Host.Outcome State Fault Refusal :=
  .next (s.rsvLocked b m (R.VAT_OWNER bank) true fun y => y.bankRetain bank)

/-- BANK_WAKE (R285). -/
def execBankWake (b : Fin 6) (m : Master) (bank : Fin 48) (s : State) : Host.Outcome State Fault Refusal :=
  .next (s.mgmtWrite b m (R.VAT_OWNER bank) fun y => y.bankWake bank)

/-- BANK_WAKE_END (R285). -/
def execBankWakeEnd (b : Fin 6) (bank : Fin 48) (s : State) : Host.Outcome State Fault Refusal :=
  .next (s.onFab b fun y => y.bankWakeEnd bank)

/-- POOL_ENABLE (R287): a write of BYx_PAIL_POOL_CFG with EN 1, applied only in HELD, READY or TEST. -/
def execPoolEnable (b : Fin 6) (m : Master) (p : Fin 4) (base nbanks : BitVec 6) (s : State) :
    Host.Outcome State Fault Refusal :=
  .next (s.rsvLocked b m (R.PAIL_POOL_CFG p) true fun y =>
    if y.idle then y.poolEnable p base.toNat nbanks.toNat else y.rsvWrite 6 (R.PAIL_POOL_CFG p))

/-- POOL_DISABLE (R287): a write of BYx_PAIL_POOL_CFG with EN 0. -/
def execPoolDisable (b : Fin 6) (m : Master) (p : Fin 4) (base nbanks : BitVec 6) (s : State) :
    Host.Outcome State Fault Refusal :=
  .next (s.mgmtWrite b m (R.PAIL_POOL_CFG p) fun y => y.poolDisable p base.toNat nbanks.toNat)

/-- POOL_REBUILD (R293). -/
def execPoolRebuild (b : Fin 6) (p : Fin 4) (s : State) : Host.Outcome State Fault Refusal :=
  .next (s.onFab b fun y => y.poolRebuild p)

/-- PAIL_ALLOC (R288): a request of requester `r` for `size` bytes. -/
def execPailAlloc (b : Fin 6) (r : Fin 36) (size : Nat) (s : State) : Host.Outcome State Fault Refusal :=
  .next (s.onFab b fun y => (y.alloc r size).2)

/-- PAIL_FREE (R292). -/
def execPailFree (b : Fin 6) (r : Fin 36) (off : BitVec 24) (s : State) : Host.Outcome State Fault Refusal :=
  .next (s.onFab b fun y => y.free_ r off.toNat)

/-- COLL_READ (R295). -/
def execCollRead (b : Fin 6) (e : Fin 32) (t : Fin 8) (s : State) : Host.Outcome State Fault Refusal :=
  .next (s.onFab b fun y => (y.readColl e t).2)

end Sys2Proof.Machine
end

