-- ==== Sys2Proof/Machine/Frame.lean ====
section
/-!
DEFINITION. The bytes of a frame: Ethernet, VLAN, HSR and PRP headers (R114, R128), and the 320-bit key of the skimmer
(R129).  Frames are held from the destination address, without FCS.
-/

namespace Sys2Proof.Machine

/-- A big-endian field of `n` bytes at offset `o`; 0 where the frame ends before it. -/
def fb (bs : List Byte) (o n : Nat) : Nat := if o + n ≤ bs.length then beNat ((bs.drop o).take n) else 0

/-- One step of CRC-32C, reflected (R6). -/
def crcBit (c : Nat) : Nat := if c % 2 = 1 then (c / 2) ^^^ 0x82F63B78 else c / 2

/-- One byte of CRC-32C. -/
def crcByte (c : Nat) (b : Byte) : Nat :=
  let c := c ^^^ b.toNat
  crcBit (crcBit (crcBit (crcBit (crcBit (crcBit (crcBit (crcBit c)))))))

/-- CRC-32C of a byte list (R6). -/
def crc32c (bs : List Byte) : Nat := bs.foldl crcByte 0xFFFFFFFF ^^^ 0xFFFFFFFF

/-- One byte of the CRC-16 of R381: polynomial 0x1021, most significant bit first. -/
def crc16Byte (c : Nat) (b : Byte) : Nat :=
  (List.range 8).foldl (fun c _ => if 0x8000 ≤ c then (2 * c) % 65536 ^^^ 0x1021 else 2 * c) (c ^^^ (b.toNat * 256))

/-- The check of DRAM block `n` with these bytes (R381). -/
def blockCheck (n : Nat) (bs : List Byte) : BitVec 16 := BitVec.ofNat 16 ((bs ++ leBytes 4 n).foldl crc16Byte 0xFFFF)

/-- One step of the CRC-32 of Ethernet, reflected (polynomial PRESUMED from IEEE 802.3, assumption log entry 85). -/
def fcsBit (c : Nat) : Nat := if c % 2 = 1 then (c / 2) ^^^ 0xEDB88320 else c / 2

/-- One byte of the CRC-32 of Ethernet. -/
def fcsByte (c : Nat) (b : Byte) : Nat := (List.range 8).foldl (fun c _ => fcsBit c) (c ^^^ b.toNat)

/-- The frame check sequence of a frame (R97), in the order in which its bytes are sent. -/
def fcs (bs : List Byte) : List Byte := leBytes 4 (bs.foldl fcsByte 0xFFFFFFFF ^^^ 0xFFFFFFFF)

/-- What the line carries for a frame (R97): 7 bytes of preamble, the start-of-frame delimiter, the frame and its FCS. -/
def lineBytes (bs : List Byte) : List Byte := List.replicate 7 0x55#8 ++ [0xD5#8] ++ bs ++ fcs bs

/-- The layer-2 headers of a frame. -/
structure L2 where
  da : Nat
  sa : Nat
  tags : Nat
  vid : Nat
  pcp : Nat
  third : Bool
  /-- HSR tag: number and LAN identifier -/
  hsr : Option (Nat × Nat)
  /-- EtherType after the tags and any HSR tag, and the offset of what follows it -/
  et : Nat
  off : Nat
  deriving DecidableEq, Repr

/-- Is it an EtherType of a VLAN tag? -/
def vlanType (et : Nat) : Bool := et == 0x8100 || et == 0x88A8

/-- Parse the layer-2 headers (R128). -/
def l2 (bs : List Byte) : L2 :=
  let et0 := fb bs 12 2
  let tag1 := vlanType et0
  let et1 := if tag1 then fb bs 16 2 else et0
  let tag2 := tag1 && et1 == 0x8100
  let et2 := if tag2 then fb bs 20 2 else et1
  let third := tag2 && vlanType et2
  let o := 12 + 4 * (b2n tag1 + b2n tag2)
  let isHsr := et2 == 0x892F && !third
  let tci := if tag1 then fb bs 14 2 else 0
  { da := fb bs 0 6, sa := fb bs 6 6, tags := b2n tag1 + b2n tag2, vid := tci % 4096, pcp := tci / 8192, third := third,
    hsr := if isHsr then some (fb bs (o + 4) 2, fb bs (o + 2) 2 / 4096) else none,
    et := if isHsr then fb bs (o + 6) 2 else et2, off := if isHsr then o + 8 else o + 2 }

/-- Length of the header that the LSDU size does not count: addresses, VLAN tags and EtherType (R114). -/
def lsduHdr (bs : List Byte) : Nat :=
  let h := l2 bs
  14 + 4 * h.tags

/-- The redundancy control trailer of a frame on a PRP pair (R114): number and LAN identifier. -/
def rctOf (bs : List Byte) : Option (Nat × Nat) :=
  let n := bs.length
  if 20 ≤ n ∧ fb bs (n - 2) 2 = 0x88FB ∧ fb bs (n - 4) 2 % 4096 = n - lsduHdr bs then
    some (fb bs (n - 6) 2, fb bs (n - 4) 2 / 4096) else none

/-- Append a redundancy control trailer (R114, R117); a short frame is padded to 54 bytes first, so that the trailer
stays last (PRESUMED from IEC 62439-3, assumption log entry 20). -/
def addRct (bs : List Byte) (num lan : Nat) : List Byte :=
  let bs := bs ++ List.replicate (54 - bs.length) 0#8
  bs ++ beBytes 2 num ++ beBytes 2 (lan * 4096 + (bs.length + 6 - lsduHdr bs) % 4096) ++ beBytes 2 0x88FB

/-- Insert an HSR tag before the EtherType that follows the VLAN tags (PRESUMED from IEC 62439-3, entry 20). -/
def addHsr (bs : List Byte) (num lan : Nat) : List Byte :=
  let o := lsduHdr bs - 2
  bs.take o ++ beBytes 2 0x892F ++ beBytes 2 (lan * 4096 + (bs.length + 6 - lsduHdr bs) % 4096) ++ beBytes 2 num ++ bs.drop o

/-- Remove the HSR tag of a frame. -/
def dropHsr (bs : List Byte) : List Byte :=
  let o := lsduHdr bs - 2
  if fb bs o 2 = 0x892F then bs.take o ++ bs.drop (o + 6) else bs

/-- Does an address name a group (R144)? -/
def groupAddr (a : Nat) : Bool := bit a 40

/-- The ones-complement sum of an IPv4 header of `n` 16-bit words at offset `o`. -/
def ipSum (bs : List Byte) (o n : Nat) : Nat :=
  let s := (List.range n).foldl (fun s i => s + fb bs (o + 2 * i) 2) 0
  let s := s % 65536 + s / 65536
  s % 65536 + s / 65536

/-- What the parse finds in a frame beyond layer 2 (R128, R129). -/
structure Parsed where
  kind : Nat := 0
  appid : Nat := 0
  sim : Bool := false
  proto : Nat := 0
  ipSa : Nat := 0
  ipDa : Nat := 0
  dscp : Nat := 0
  /-- 0 not fragmented, 1 first, 2 later -/
  frag : Nat := 0
  ident : Nat := 0
  mf : Bool := false
  sport : Nat := 0
  dport : Nat := 0
  si : Nat := 0
  err : Bool := false
  deriving DecidableEq, Repr

/-- An SV or GOOSE header at offset `o`: APPID, Length, reserved1 (R128). -/
def parseApp (bs : List Byte) (len o kind : Nat) : Parsed :=
  { kind := kind, appid := fb bs o 2, sim := fb bs (o + 4) 2 / 32768 == 1,
    err := decide (bs.length < o + 8) || decide (len < o + fb bs (o + 2) 2) }

/-- The first payload of an IEC 61850-90-5 session at the UDP payload offset `u` (offsets within the session header are
PRESUMED from IEC 61850-90-5, assumption log entry 21). -/
def parse905 (bs : List Byte) (u : Nat) (p : Parsed) : Parsed :=
  let si := fb bs (u + 2) 1
  if bs.length < u + 3 then { p with err := true }
  else if si < 0xA0 ∨ 0xA3 < si then p
  else
    let pl := u + 8 + fb bs (u + 3) 1
    { p with kind := 4, si := si, sim := fb bs (pl + 1) 1 != 0, appid := fb bs (pl + 2) 2,
             err := p.err || decide (bs.length < pl + 4) }

/-- An IPv4 header at offset `o` (R128). -/
def parseIp (bs : List Byte) (o : Nat) : Parsed :=
  let ihl := fb bs o 1 % 16
  let fo := fb bs (o + 6) 2
  let u := o + 4 * ihl
  let mf := bit fo 13
  let p : Parsed :=
    { kind := 5, proto := fb bs (o + 9) 1, ipSa := fb bs (o + 12) 4, ipDa := fb bs (o + 16) 4, dscp := fb bs (o + 1) 1 / 4,
      ident := fb bs (o + 4) 2, mf := mf, frag := if fo % 8192 ≠ 0 then 2 else if mf then 1 else 0,
      err := decide (bs.length < o + 20) || decide (ihl < 5) || decide (bs.length < u) || ipSum bs o (2 * ihl) != 65535 }
  if bs.length < o + 20 ∨ ihl < 5 ∨ bs.length < u ∨ fo % 8192 ≠ 0 ∨ p.proto ≠ 17 then p
  else if bs.length < u + 8 then { p with err := true }
  else
    let p := { p with sport := fb bs u 2, dport := fb bs (u + 2) 2 }
    if p.dport = 319 ∨ p.dport = 320 then { p with kind := 3 }
    else if p.dport = 102 then parse905 bs (u + 8) p else p

/-- Parse the first 128 bytes of a frame of `len` bytes (R128). -/
def parse (bs : List Byte) (len : Nat) : Parsed :=
  let bs := bs.take 128
  let h := l2 bs
  if bs.length < h.off then { err := true }
  else if h.third then {}
  else if h.et = 0x88BA then parseApp bs len h.off 1
  else if h.et = 0x88B8 then parseApp bs len h.off 2
  else if h.et = 0x88F7 then { kind := 3 }
  else if h.et = 0x0800 then parseIp bs h.off
  else if h.et = 0x86DD then { kind := 6 }
  else {}

/-- The key of R129. -/
def skimKey (bs : List Byte) (len input : Nat) (rct lanB : Bool) : Nat :=
  let h := l2 (bs.take 128)
  let p := parse bs len
  input % 32 + p.kind * 2 ^ 5 + b2n (h.tags != 0) * 2 ^ 8 + b2n (h.tags == 2) * 2 ^ 9 + h.vid * 2 ^ 10 + h.pcp * 2 ^ 22 +
    h.et * 2 ^ 25 + h.da * 2 ^ 41 + h.sa * 2 ^ 89 + p.appid * 2 ^ 137 + p.proto * 2 ^ 153 + p.ipSa * 2 ^ 161 +
    p.ipDa * 2 ^ 193 + p.sport * 2 ^ 225 + p.dport * 2 ^ 241 + p.si * 2 ^ 257 + p.dscp * 2 ^ 265 + p.frag * 2 ^ 271 +
    b2n p.sim * 2 ^ 273 + b2n rct * 2 ^ 274 + b2n lanB * 2 ^ 275 + b2n p.err * 2 ^ 276

/-! ### BER (R159, R339) -/

/-- One BER element of a byte list: tag, contents and the rest; none where it does not fit. -/
def berNext : List Byte → Option (Nat × List Byte × List Byte)
  | t :: l :: bs =>
    if l.toNat < 128 then
      if l.toNat ≤ bs.length then some (t.toNat, bs.take l.toNat, bs.drop l.toNat) else none
    else
      let n := l.toNat - 128
      let len := beNat (bs.take n)
      let bs' := bs.drop n
      if n = 0 ∨ 3 < n ∨ bs.length < n ∨ bs'.length < len then none
      else some (t.toNat, bs'.take len, bs'.drop len)
  | _ => none

/-- The elements of a constructed value; none where they do not parse.  `fuel` bounds their number. -/
def berAll : Nat → List Byte → Option (List (Nat × List Byte))
  | _, [] => some []
  | 0, _ => none
  | fuel + 1, bs =>
    match berNext bs with
    | none => none
    | some (t, c, rest) => (berAll fuel rest).map ((t, c) :: ·)

/-- The elements of a value by its bytes. -/
def ber (bs : List Byte) : Option (List (Nat × List Byte)) := berAll bs.length bs

/-- The contents of the first element with a tag. -/
def berGet (es : List (Nat × List Byte)) (tag : Nat) : Option (List Byte) := (es.find? fun e => e.1 == tag).map (·.2)

/-- A length in BER, minimal (R335). -/
def berLen (n : Nat) : List Byte :=
  if n < 128 then leBytes 1 n else if n < 256 then leBytes 1 0x81 ++ leBytes 1 n else leBytes 1 0x82 ++ beBytes 2 n

/-- An element. -/
def berEl (tag : Nat) (c : List Byte) : List Byte := leBytes 1 tag ++ berLen c.length ++ c

/-- The fewest bytes that hold an unsigned integer in BER (R335). -/
def berUInt (v : Nat) : List Byte :=
  let n := ((List.range 5).find? fun i => decide (v < 2 ^ (8 * i + 7))).getD 4
  beBytes (n + 1) v

end Sys2Proof.Machine
end

