-- ==== Sys2Proof/Machine/Float.lean ====
section
/-!
DEFINITION. The binary32 arithmetic of the separator (R263): round to nearest even, subnormal inputs and results
flushed to zero of the same sign, NaN and infinity as IEEE 754 has them, each multiply-add rounded once.
-/

namespace Sys2Proof.Machine

/-- A binary32 operand after the flush of subnormals: its value is (−1)^neg × m × 2^(e − 149), with m below 2^24. -/
inductive Fl where
  | nan
  | inf (neg : Bool)
  | fin (neg : Bool) (m e : Nat)
  deriving DecidableEq, Repr

/-- Read a word as binary32. -/
def Fl.ofWord (w : Word) : Fl :=
  let x := bits w.toNat 30 23
  let f := bits w.toNat 22 0
  let neg := w.getLsbD 31
  if x = 255 then (if f = 0 then .inf neg else .nan)
  else if x = 0 then .fin neg 0 0
  else .fin neg (f + 8388608) (x - 1)

/-- A zero of a sign. -/
def flZero (neg : Bool) : Word := if neg then 0x80000000#32 else 0#32

/-- An infinity of a sign. -/
def flInf (neg : Bool) : Word := if neg then 0xFF800000#32 else 0x7F800000#32

/-- The quiet NaN that an operation gives. -/
def flNan (x y z : Word) : Word := 0x1FF#9 ++ 1#1 ++ Config.nanPayload x y z

/-- Round num / den × 2^(e − 149), both positive, to binary32 (nearest even; flushed below the normal range). -/
def flRound (neg : Bool) (num den : Nat) (e : Int) : Word :=
  -- a first guess of the exponent of the quotient, then the one at which it lies in 2^23 .. 2^24
  let g : Int := (Nat.log2 num : Int) - (Nat.log2 den : Int) - 23
  let scale := fun (k : Int) => if 0 ≤ k then (num, den * 2 ^ k.toNat) else (num * 2 ^ (-k).toNat, den)
  let k := if (scale g).1 / (scale g).2 < 8388608 then g - 1 else g
  let (n, d) := scale k
  let q := n / d
  let r := n % d
  let up := decide (d < 2 * r) || (decide (2 * r = d) && q % 2 == 1)
  let q := if up then q + 1 else q
  let (q, k) := if q = 16777216 then (8388608, k + 1) else (q, k)
  let x := e + k + 1
  if 255 ≤ x then flInf neg
  else if x < 1 then flZero neg
  else BitVec.ofNat 32 (b2n neg * 2147483648 + x.toNat * 8388608 + (q - 8388608))

/-- x × y + z, rounded once. -/
def fma32 (x y z : Word) : Word :=
  match Fl.ofWord x, Fl.ofWord y, Fl.ofWord z with
  | .nan, _, _ => flNan x y z
  | _, .nan, _ => flNan x y z
  | _, _, .nan => flNan x y z
  | .inf a, .inf b, .inf c => if (a != b) = c then flInf c else flNan x y z
  | .inf a, .inf b, .fin _ _ _ => flInf (a != b)
  | .inf a, .fin b m _, .inf c => if m = 0 ∨ (a != b) ≠ c then flNan x y z else flInf c
  | .inf a, .fin b m _, .fin _ _ _ => if m = 0 then flNan x y z else flInf (a != b)
  | .fin a m _, .inf b, .inf c => if m = 0 ∨ (a != b) ≠ c then flNan x y z else flInf c
  | .fin a m _, .inf b, .fin _ _ _ => if m = 0 then flNan x y z else flInf (a != b)
  | .fin _ _ _, .fin _ _ _, .inf c => flInf c
  | .fin a m e, .fin b n f, .fin c k g =>
    -- everything in units of 2^-298
    let p : Int := (m * n * 2 ^ (e + f) : Nat)
    let q : Int := (k * 2 ^ (g + 149) : Nat)
    let s : Int := (if a != b then -p else p) + (if c then -q else q)
    if s = 0 then
      (if p = 0 ∧ q = 0 then flZero ((a != b) && c) else flZero false)
    else flRound (decide (s < 0)) s.natAbs 1 (-149)

/-- x × y, rounded once. -/
def fmul32 (x y : Word) : Word :=
  let s := x.getLsbD 31 != y.getLsbD 31
  fma32 x y (flZero s)

/-- Change of sign. -/
def fneg32 (x : Word) : Word := x ^^^ 0x80000000#32

/-- A complex product in binary32, added to an addend (CMUL adds a zero of the product's sign, by `fmul32`). -/
def cprod (ar ai br bi : Word) : Word × Word :=
  if Config.cmulFirst then
    (fma32 (fneg32 ai) bi (fmul32 ar br), fma32 ai br (fmul32 ar bi))
  else
    (fma32 ar br (fmul32 (fneg32 ai) bi), fma32 ar bi (fmul32 ai br))

/-- An addend plus a complex product: each multiply-add rounds once. -/
def cprodAdd (cr ci ar ai br bi : Word) : Word × Word :=
  if Config.cmulFirst then
    (fma32 (fneg32 ai) bi (fma32 ar br cr), fma32 ai br (fma32 ar bi ci))
  else
    (fma32 ar br (fma32 (fneg32 ai) bi cr), fma32 ar bi (fma32 ai br ci))

/-- A signed rational num / den in binary32. -/
def flOfRat (num : Int) (den : Nat) : Word := if num = 0 then 0#32 else flRound (decide (num < 0)) num.natAbs den 149

/-! ### Magnitude and angle (R263, FORM 0) -/

/-- A magnitude in units of 2^-149, for a finite operand. -/
def Fl.units : Fl → Nat
  | .fin _ m e => m * 2 ^ e
  | _ => 0

/-- A word of sign `neg` within 2 units in the last place of num / den: `free` chooses among the five words around the nearest one
which lie within that bound and pass `ok`. -/
def nearWord (neg : Bool) (num den : Nat) (free : Word) (ok : Nat → Bool) : Word :=
  let best := (flRound neg num den 149).toNat
  let c := best + free.toNat % 5 - 2
  let ulp := 2 ^ (Nat.log2 (num * 2 ^ 149 / den) - 23)
  let v := (Fl.ofWord (BitVec.ofNat 32 c)).units * den
  let x := num * 2 ^ 149
  let diff := if v < x then x - v else v - x
  let e := bits c 30 23
  if 1 ≤ e ∧ e ≤ 254 ∧ c / 2 ^ 31 = best / 2 ^ 31 ∧ diff * 2 ^ 20 ≤ ulp * den * (2 ^ 21 - 1) ∧ ok c = true then BitVec.ofNat 32 c
  else BitVec.ofNat 32 best

/-- The integer square root of a number below 2^(2 n). -/
def sqrtNat (n v : Nat) : Nat :=
  (List.range n).foldl (fun r i => let r' := r + 2 ^ (n - 1 - i); if r' * r' ≤ v then r' else r) 0

/-- The magnitude of a finite phasor that is not zero. -/
def magWord (re im free : Word) : Word :=
  let s := (Fl.ofWord re).units ^ 2 + (Fl.ofWord im).units ^ 2
  let j := 64 - min 64 (Nat.log2 s / 2)
  nearWord false (sqrtNat (Nat.log2 s / 2 + j + 1) (s * 2 ^ (2 * j))) (2 ^ (149 + j)) free fun _ => true

/-- The arc tangent of p / q, at most 1, as a fraction (Euler's series). -/
def atanFrac (p q : Nat) : Nat × Nat :=
  let s2 := p * p + q * q
  let (sum, _) := (List.range 110).foldl (fun (a : Nat × Nat) n =>
    let t := a.2 * (2 * (n + 1)) * (p * p) / ((2 * n + 3) * s2)
    (a.1 + t, t)) (2 ^ 96, 2 ^ 96)
  (p * q * sum, s2 * 2 ^ 96)

/-- π × 2^128. -/
def pi128 : Nat := 0x3243F6A8885A308D313198A2E03707344

/-- The magnitude of the angle of a phasor, from the magnitudes of its parts and the sign of the real one, as a fraction. -/
def angleFrac (a b : Nat) (back : Bool) : Nat × Nat :=
  if b ≤ a then
    let (n, d) := atanFrac b a
    if back then (pi128 * d - n * 2 ^ 128, 2 ^ 128 * d) else (n, d)
  else
    let (n, d) := atanFrac a b
    (if back then pi128 * d + 2 * n * 2 ^ 128 else pi128 * d - 2 * n * 2 ^ 128, 2 ^ 129 * d)

/-- The largest binary32 number below π. -/
abbrev belowPi : Nat := 0x40490FDA

/-- The angle of a finite phasor that is not zero, in (−π, π]. -/
def angWord (re im free : Word) : Word :=
  let a := (Fl.ofWord re).units
  let b := (Fl.ofWord im).units
  let (n, d) := angleFrac a b (re.getLsbD 31 && a != 0)
  if n = 0 then 0#32
  else
    let neg := im.getLsbD 31 && b != 0
    let w := nearWord neg n d free fun c => decide (c % 2 ^ 31 ≤ belowPi)
    if belowPi < w.toNat % 2 ^ 31 then BitVec.ofNat 32 (b2n neg * 2 ^ 31 + belowPi) else w

/-- Is a word a finite number? -/
def flFinite (w : Word) : Bool := bits w.toNat 30 23 != 255

/-- Magnitude and angle of a phasor that is not zero. -/
def polar (re im : Word) : Word × Word :=
  if flFinite re && flFinite im then (magWord re im (Config.outMag re im), angWord re im (Config.outAng re im))
  else (Config.outMag re im, Config.outAng re im)

end Sys2Proof.Machine
end

