-- ==== Sys2Proof/Machine/Coproc.lean ====
section
/-!
DEFINITION. The separator and strainer coprocessors and the key store (chapter 9).
-/

namespace Sys2Proof.Machine

/-! ### MAC algorithms (R264) -/

/-- Does a slot header name GMAC? -/
def hdrGmac (hdr : Nat) : Bool := bits hdr 30 29 == 1

/-- The key bytes that an algorithm uses (R266). -/
def keyBytes (hdr : Nat) (k : List Byte) : List Byte := if hdrGmac hdr && !bit hdr 26 then k.take 16 else k

/-- Tag length in bytes (R266). -/
def tagLen (hdr : Nat) : Nat :=
  match bits hdr 28 27 with
  | 0 => 8
  | 1 => 10
  | 2 => 16
  | _ => 32

/-- Start a MAC. -/
def macStart (hdr : Nat) (k : List Byte) : Nat := if hdrGmac hdr then 0 else hmacStart (keyBytes hdr k)

/-- Absorb bytes: the new state and what is short of a block. -/
def macAbsorb (hdr : Nat) (k : List Byte) (st : Nat) (bs : List Byte) : Nat × List Byte :=
  if hdrGmac hdr then absorbBlocks (ghashBlock (keyBytes hdr k)) 16 bs.length st bs
  else absorbBlocks shaBlock 64 bs.length st bs

/-- Finish a MAC: the tag, truncated to TLEN. -/
def macFinish (hdr : Nat) (k iv : List Byte) (st : Nat) (tail : List Byte) (len : Nat) : List Byte :=
  if hdrGmac hdr then (beBytes 16 (gmacFinish (keyBytes hdr k) iv st tail len % 2 ^ 128)).take (tagLen hdr)
  else (beBytes 32 (hmacFinish (keyBytes hdr k) st tail len % 2 ^ 256)).take (tagLen hdr)

/-- The MAC of a whole message. -/
def macMsg (hdr : Nat) (k iv msg : List Byte) : List Byte :=
  let (st, tail) := macAbsorb hdr k (macStart hdr k) msg
  macFinish hdr k iv st tail msg.length

/-! ### The separator -/

namespace Sep

/-- A window register. -/
def reg (p : Sep) (n : Nat) : Word := SMap.get (fun _ => 0#32) p.w n

/-- Store a window register. -/
def setReg (p : Sep) (n : Nat) (v : Word) : Sep := { p with w := SMap.set (fun _ => 0#32) p.w n v }

/-- The sum of a channel. -/
def sum (p : Sep) (c : Nat) : BitVec 80 × BitVec 80 := SMap.get (fun _ => (0#80, 0#80)) p.sums c

/-- Store a sum. -/
def setSum (p : Sep) (c : Nat) (v : BitVec 80 × BitVec 80) : Sep :=
  { p with sums := SMap.set (fun _ => (0#80, 0#80)) p.sums c v }

/-- Apply what an operation writes. -/
def apply (p : Sep) (q : SepPend) : Sep :=
  let p := q.regs.foldl (fun p (n, v) => p.setReg n v) p
  q.sums.foldl (fun p (c, a, b) => p.setSum c (a, b)) p

/-- The window as the next operation sees it: every earlier operation done (R253). -/
def view (p : Sep) : Sep := p.pend.foldl apply p

/-- Is a register's scoreboard bit set (R253)? -/
def busy (p : Sep) (n : Nat) : Bool := p.pend.any fun q => q.regs.any fun (m, _) => m == n

/-- Is the scoreboard bit of one of the registers set that an operation reads or writes? -/
def anyBusy (p : Sep) (ns : List Nat) : Bool := ns.any p.busy

/-- L of CFG; N, the window length; TBASE; HALF (R259). -/
def len (p : Sep) : Nat := bits (p.reg 0x10).toNat 10 0
def half (p : Sep) : Bool := (p.reg 0x10).getLsbD 12
def tbase (p : Sep) : Nat := bits (p.reg 0x10).toNat 25 16
def win (p : Sep) : Nat := if p.half then p.len / 2 else p.len

/-- Is a value written to CFG free of reserved fields and encodings (R259)? -/
def cfgOk (v : Word) : Bool :=
  let l := bits v.toNat 10 0
  let n := if v.getLsbD 12 then l / 2 else l
  bits v.toNat 31 26 == 0 && bits v.toNat 15 13 == 0 && !bit v.toNat 11 && decide (8 ≤ l) && decide (l ≤ 1024) &&
    decide (bits v.toNat 25 16 + n ≤ 1024)

/-- Does MFCP read this register number (R258)? -/
def readable (n : Nat) : Bool := decide (n ≤ 0x16) || (decide (0x18 ≤ n) && decide (n ≤ 0x22))

/-- Is an MTCP of value `v` to this register number one the unit takes (R252, R258)? -/
def writable (p : Sep) (n : Nat) (v : Word) : Bool :=
  if n = 0x10 then cfgOk v
  else if n = 0x11 then decide (v.toNat < p.len)
  else if n = 0x20 then decide (v.toNat < 1024)
  else decide (n ≤ 0x13) || (decide (0x18 ≤ n) && decide (n ≤ 0x22))

/-- A complex register Q (R258). -/
def q (p : Sep) (i : Nat) : Word × Word := (p.reg (0x18 + 2 * i), p.reg (0x19 + 2 * i))

end Sep

/-- The coefficient entry `i` of an engine (R260). -/
def Eng.coefAt (g : Eng) (i : Nat) : Word × Word :=
  if i < 1024 then SMap.get (fun _ => (0#32, 0#32)) g.coef i else (Config.coefBeyond (2 * i), Config.coefBeyond (2 * i + 1))

/-- The image words an operation reads: `w` of R278, as reporting addresses of R255. -/
def sepAddr (t w : Nat) : Nat := 0x06000000 + t * 0x200 + w * 4

/-- The words of the sums of a channel in the image. -/
def sumWords (c : Nat) : List Nat := (List.range 8).map fun i => 32 + c * 8 + i

namespace Byre

/-- The word at the thread's PC, for TVAL. -/
def instrAt (y : Byre) (e t : Nat) : Nat := (y.codeWord e (y.thread e t).pc).toNat

/-- The first of a list of unit storage words that fails parity (R255), by reporting address. -/
def unitParity (y : Byre) (e : Nat) : List Nat → Option (Nat × Byre)
  | [] => none
  | a :: as =>
    match y.parCheck 5 (e * 0x10000 + (a - 0x06000000)) with
    | (true, y) => some (a, y)
    | (false, y) => y.unitParity e as

/-- Does the unit refuse the instruction (R242)?  `u`: the strainer. -/
def unitRefused (y : Byre) (e t : Nat) (u : Bool) : Bool :=
  let th := y.thread e t
  let en := th.cpen.getLsbD ((if th.task then 8 else 0) + b2n u)
  let gate := if u then bit (y.rdN R.ROTA_CP_GATE_STR) (clusterOf e) else bit (y.rdN R.ROTA_CP_GATE_SEP) e
  !en || !gate

/-- Run a unit instruction unless it is refused (R242). -/
def unitOp (y : Byre) (e t : Nat) (u : Bool) (w : Nat) (f : Byre → Ends) : Ends :=
  if y.unitRefused e t u then .trap ⟨2, 0, w, 0⟩ else f y

/-- Read unit words with their parity, then go on (R255). -/
def unitRead (y : Byre) (e : Nat) (ws : List Nat) (f : Byre → Ends) : Ends :=
  match y.unitParity e ws with
  | some (a, y') => .parTrap y' ⟨8, 1, a, 0⟩
  | none => f y

/-- Unit words are written: their parity is good again. -/
def unitClear (y : Byre) (e : Nat) (as : List Nat) : Byre := as.foldl (fun y a => y.parClear 5 (e * 0x10000 + (a - 0x06000000))) y

/-- A separator operation that reads or writes the registers `ns` is not ready while one of them is busy (R253). -/
def sepReady (y : Byre) (e t : Nat) (ns : List Nat) (f : Byre → Ends) : Ends :=
  if (y.thread e t).sep.anyBusy ns then .notReady else f y

/-- A separator operation: what it writes is pending until CP_RESULT_COMMIT (R254). -/
def sepPush (y : Byre) (e t : Nat) (q : SepPend) : Ends :=
  .ok (y.onThread e t fun th => { th with sep := { th.sep with pend := th.sep.pend ++ [q] } }) .seq

/-- SDFT (R262). -/
def sdft (y : Byre) (e t mask : Nat) (adv : Bool) : Ends :=
  let p := (y.thread e t).sep.view
  let ph := (p.reg 0x11).toNat
  let hl := p.len / 2
  let (i, sg) : Nat × Int :=
    if !p.half then (p.tbase + ph, 1) else if ph < hl then (p.tbase + ph, 1) else (p.tbase + ph - hl, -1)
  let (cs, sn) := (y.engine e).coefAt i
  let chans := (List.range 8).filter fun c => bit mask c
  let upd := chans.map fun c =>
    let d : Int := if p.half then (p.reg c).toInt + (p.reg (8 + c)).toInt else (p.reg c).toInt - (p.reg (8 + c)).toInt
    let (re, im) := p.sum c
    let re' := re.toInt + sg * d * cs.toInt
    let im' := im.toInt - sg * d * sn.toInt
    let past := fun (v : Int) => decide (v < -(2 ^ 79 : Nat)) || decide ((2 ^ 79 : Nat) ≤ v)
    (c, BitVec.ofInt 80 re', BitVec.ofInt 80 im', past re' || past im')
  let wrap := upd.foldl (fun v (c, _, _, o) => if o then setBit v c else v) (p.reg 0x16).toNat
  let regs := [(0x16, BitVec.ofNat 32 wrap)]
  let (nextP, y) := if p.len = 0 then (Config.freeWord y.free, y.useFree) else (BitVec.ofNat 32 ((ph + 1) % p.len), y)
  let regs := if adv then regs ++ [(0x11, nextP)] else regs
  let ws := [0x10, 0x11, 0x16] ++ chans ++ chans.map (8 + ·)
  let addrs := (ws ++ chans.flatMap sumWords).map (sepAddr t) ++ [0x06002000 + i * 8, 0x06002004 + i * 8]
  y.sepReady e t ws fun y => y.unitRead e addrs fun y => y.sepPush e t ⟨regs, upd.map fun (c, re, im, _) => (c, re, im)⟩

/-- OUT (R263). -/
def sepOut (y : Byre) (e t ch : Nat) (form rot : Bool) : Ends :=
  let p := (y.thread e t).sep.view
  let (re, im) := p.sum ch
  let ws := [0x10] ++ if rot then [0x12, 0x13] else []
  y.sepReady e t (ws ++ [0x14, 0x15]) fun y => y.unitRead e ((ws ++ sumWords ch).map (sepAddr t)) fun y =>
    if p.win = 0 then
      (y.useFree.useFree).sepPush e t ⟨[(0x14, Config.outNoLen y.free), (0x15, Config.outNoLen (y.free + 1))], []⟩
    else
      let x := (flOfRat (re.toInt * 2) (2 ^ 30 * p.win), flOfRat (im.toInt * 2) (2 ^ 30 * p.win))
      let x := if rot then cprod x.1 x.2 (p.reg 0x12) (p.reg 0x13) else x
      let zero := x.1 &&& 0x7FFFFFFF#32 = 0#32 ∧ x.2 &&& 0x7FFFFFFF#32 = 0#32
      let r := if form then x else if zero then (0#32, 0#32) else polar x.1 x.2
      y.sepPush e t ⟨[(0x14, r.1), (0x15, r.2)], []⟩

/-- CMUL and CMAC (R261). -/
def sepMul (y : Byre) (e t qd qa qb : Nat) (acc : Bool) : Ends :=
  let p := (y.thread e t).sep.view
  let a := p.q qa
  let b := p.q qb
  let c := p.q qd
  let r := if acc then cprodAdd c.1 c.2 a.1 a.2 b.1 b.2 else cprod a.1 a.2 b.1 b.2
  let regsOf := fun (i : Nat) => [0x18 + 2 * i, 0x19 + 2 * i]
  let addrs := (regsOf qa ++ regsOf qb ++ (if acc then regsOf qd else [])).map (sepAddr t)
  y.sepReady e t (regsOf qa ++ regsOf qb ++ regsOf qd) fun y => y.unitRead e addrs fun y =>
    y.sepPush e t ⟨[(0x18 + 2 * qd, r.1), (0x19 + 2 * qd, r.2)], []⟩

/-- CCLR (R261). -/
def sepCclr (y : Byre) (e t qd : Nat) : Ends :=
  y.sepReady e t [0x18 + 2 * qd, 0x19 + 2 * qd] fun y => y.sepPush e t ⟨[(0x18 + 2 * qd, 0#32), (0x19 + 2 * qd, 0#32)], []⟩

/-- CLRS (R261). -/
def sepClrs (y : Byre) (e t mask : Nat) : Ends :=
  let p := (y.thread e t).sep.view
  let chans := (List.range 8).filter fun c => bit mask c
  let wrap := (List.range 8).foldl (fun v c => if bit (p.reg 0x16).toNat c && !bit mask c then setBit v c else v) 0
  y.sepReady e t [0x16] fun y => y.sepPush e t ⟨[(0x16, BitVec.ofNat 32 wrap)], chans.map fun c => (c, 0#80, 0#80)⟩

/-! ### The key store -/

/-- Live word `w` of a slot (R266). -/
def keyWord (y : Byre) (bank slot w : Nat) : Nat := (SMap.get (fun _ => 0#32) y.keys (bank * 0x2000 + slot * 0x20 + w)).toNat

/-- Store a word of a slot in both copies, whose parity is good again. -/
def setKeyWord (y : Byre) (bank slot w v : Nat) : Byre :=
  let y := { y with keys := SMap.set (fun _ => 0#32) y.keys (bank * 0x2000 + slot * 0x20 + w) (BitVec.ofNat 32 v) }
  (y.parClear 6 (bank * 2 * 0x10000 + slot * 0x80 + w * 4)).parClear 6 ((bank * 2 + 1) * 0x10000 + slot * 0x80 + w * 4)

/-- A slot's header. -/
def keyHdr (y : Byre) (bank slot : Nat) : Nat := y.keyWord bank slot 0

/-- Is key `k` of a slot header valid? -/
def hdrKey (hdr k : Nat) : Bool := bit hdr (23 + k)

/-- Read words of a slot with the parity of copy A and, where one fails, of copy B (R276): the reporting address of a word that
copy B could not give either. -/
def keyParity (y : Byre) (bank slot : Nat) (ws : List Nat) : Option Nat × Byre :=
  let at_ := fun (copy w : Nat) => (bank * 2 + copy) * 0x10000 + slot * 0x80 + w * 4
  let fails := fun (y : Byre) (copy : Nat) => ws.foldl (fun (acc : Option Nat × Byre) w =>
    let (f, y') := acc.2.parCheck 6 (at_ copy w)
    (if f ∧ acc.1.isNone then some w else acc.1, y')) (none, y)
  match fails y 0 with
  | (none, y) => (none, y)
  | (some _, y) =>
    match fails y 1 with
    | (none, y) => (none, y.inc R.ROTA_CNT_KEY_PARITY_FIX)
    | (some w, y) => (some (0x06008000 + slot * 0x80 + w * 4), y.inc R.ROTA_CNT_KEY_PARITY_LOST)

/-- Read the material of key `k` of a slot (R276): the bytes, or the reporting address of a word that could not be read. -/
def keyRead (y : Byre) (bank slot k : Nat) : (List Byte × Option Nat) × Byre :=
  let ws := (List.range 8).map fun i => 8 + 8 * k + i
  match y.keyParity bank slot ws with
  | (none, y) => ((ws.flatMap fun w => leBytes 4 (y.keyWord bank slot w), none), y)
  | (some a, y) => (([], some a), y)

/-- Read the header of a slot and the material of key `k`, where the header has it valid (R276). -/
def slotRead (y : Byre) (bank slot k : Nat) : (List Byte × Option Nat) × Byre :=
  match y.keyParity bank slot [0] with
  | (some a, y) => (([], some a), y)
  | (none, y) => if bit (y.keyHdr bank slot) 31 && hdrKey (y.keyHdr bank slot) k then y.keyRead bank slot k else (([], none), y)

/-- The check value of a key (R266): the first 3 bytes. -/
def kcv (hdr : Nat) (k : List Byte) : Nat :=
  if hdrGmac hdr then aesBlock (keyBytes hdr k) (List.replicate 16 0#8) % 2 ^ 128 / 2 ^ 104
  else beNat ((macMsg (2 * 2 ^ 29 + 3 * 2 ^ 27) k [] []).take 3)

/-! ### The strainer -/

/-- Set the first error since BEGIN (R274). -/
def strErr (s : Str) (c : Nat) : Str := if s.err = 0 then { s with err := c } else s

/-- One window register. -/
def strReg (s : Str) (n : Nat) : Word := SMap.get (fun _ => 0#32) s.w n

/-- Store one window register; a write clears its poison (R255). -/
def strSet (s : Str) (n : Nat) (v : Word) : Str :=
  { s with w := SMap.set (fun _ => 0#32) s.w n v, poison := s.poison.filter fun q => q.1 != n }

/-- The bytes of window registers `lo` to `lo + n − 1` (R271). -/
def strBytes (s : Str) (lo n : Nat) : List Byte := (List.range n).flatMap fun i => leBytes 4 (strReg s (lo + i)).toNat

/-- Write bytes into registers from `lo` up. -/
def strPut (s : Str) (lo : Nat) (bs : List Byte) (n : Nat) : Str :=
  (List.range n).foldl (fun s i => strSet s (lo + i) (BitVec.ofNat 32 (leNat ((bs.drop (4 * i)).take 4)))) s

/-- Poison registers with the reporting address of a word that could not be read (R255). -/
def strPoison (y : Byre) (s : Str) (ns : List Nat) (a : Nat) : Str × Byre :=
  ({ s with poison := (s.poison.filter fun q => !ns.contains q.1) ++ ns.map fun n => (n, a) }, y.incBy R.ROTA_CNT_CP_POISON ns.length)

/-- TAG0 to TAG7. -/
abbrev tagRegs : List Nat := (List.range 8).map (0x10 + ·)

/-- The key that CTL selects (R271). -/
def ctlKey (hdr ctl : Nat) : Nat :=
  match bits ctl 9 8 with
  | 0 => b2n (bit hdr 25)
  | 1 => 0
  | _ => 1

/-- BEGIN (R272, R274): owner, key, initialisation vector and MAC state.  A key that cannot be read poisons the tag (R276). -/
def strBegin (y : Byre) (s : Str) (q : StrPend) : Str × Byre :=
  if s.active ∧ s.owner ≠ q.thr then (s, y)
  else
    let slot := bits q.ctl 7 0
    let hdr := y.keyHdr y.bank slot
    let k := ctlKey hdr q.ctl
    let s := { s with owner := q.thr, active := true, done := false, err := 0, count := 0, mlen := 0, tail := [],
                      swaps := y.rdN R.CHURN_CNT_SWAP, hdr := hdr, key := [], iv := q.iv, keyBad := none, stBad := none, mac := 0,
                      poison := s.poison.filter (·.1 != 0x1E) }
    match y.slotRead y.bank slot k with
    | ((_, some a), y) => y.strPoison { s with err := 6, keyBad := some a } tagRegs a
    | ((bs, none), y) =>
      if !bit hdr 31 then ({ s with err := 1 }, y)
      else if !hdrKey hdr k then ({ s with err := 2 }, y)
      else ({ s with key := bs, mac := macStart hdr bs }, y)

/-- The image words of the running MAC: its state and the message length (R277). -/
def macWords (hdr : Nat) : List Nat :=
  ((if hdrGmac hdr then List.range 4 else List.range 8).map (32 + ·) ++ [40, 41]).map fun w => 0x06004000 + w * 4

/-- Bytes that a block of an algorithm has. -/
def macBlk (hdr : Nat) : Nat := if hdrGmac hdr then 16 else 64

/-- UPD (R272, R273): the last bytes of a GMAC message go into the accumulator as a block filled up with zeros; those of an HMAC
message wait for FIN.  A word of the MAC state that fails parity poisons COUNT now and the tag later (R255). -/
def strUpd (y : Byre) (e : Nat) (s : Str) (q : StrPend) : Str × Byre :=
  if s.active ∧ s.owner ≠ q.thr then (strErr s 4, y)
  else if !s.active ∨ s.done ∨ s.tail ≠ [] then (strErr s 3, y)
  else
    let n := macBlk s.hdr
    let bs := q.block.take q.len
    let fill := if hdrGmac s.hdr then List.replicate ((n - q.len % n) % n) 0#8 else []
    let (st, _) := macAbsorb s.hdr s.key s.mac (bs ++ fill)
    let s := { s with mac := st, tail := bs.drop (q.len / n * n), mlen := (s.mlen + q.len) % 2 ^ 64, count := (s.count + q.len) % 2 ^ 32,
                      poison := s.poison.filter (·.1 != 0x1E) }
    match y.unitParity e (macWords s.hdr) with
    | some (a, y) => y.strPoison { s with stBad := some a } [0x1E] a
    | none => (s, y)

/-- FIN (R272, R274): a tag that rests on a word that could not be read is poisoned (R255, R276). -/
def strFin (y : Byre) (e : Nat) (s : Str) (q : StrPend) : Str × Byre :=
  if s.active ∧ s.owner ≠ q.thr then (strErr s 4, y)
  else if !s.active ∨ s.done then (strErr s 3, y)
  else
    let s := if s.swaps ≠ y.rdN R.CHURN_CNT_SWAP then strErr s 5 else s
    let tag := if s.err = 0 then macFinish s.hdr s.key s.iv s.mac (if hdrGmac s.hdr then [] else s.tail) s.mlen else []
    let old := s.poison
    let s := { strPut s 0x10 tag 8 with done := true }
    match s.keyBad with
    | some _ => ({ s with poison := old }, y)
    | none =>
      match s.stBad, y.unitParity e (macWords s.hdr ++ [0x06004000 + 42 * 4]) with
      | some a, _ => y.strPoison s tagRegs a
      | none, some (a, y) => y.strPoison s tagRegs a
      | none, none => (s, y)

/-- Carry out one queued operation of a window (R272, R273). -/
def strRun (y : Byre) (e : Nat) (s : Str) (q : StrPend) : Str × Byre :=
  match q.op with
  | 1 => y.strBegin s q
  | 2 => y.strUpd e s q
  | 3 => y.strFin e s q
  | _ => (strErr s 4, y)

/-- The image words that an operation has written. -/
def strWrote (s : Str) (q : StrPend) : List Nat :=
  let st := (List.range 10).map (32 + ·)
  (match q.op with
   | 1 => [28, 29, 42] ++ st
   | 2 => [28, 29] ++ if s.stBad.isSome then [] else st
   | 3 => 28 :: tagRegs
   | _ => [28]).map fun w => 0x06004000 + w * 4

/-- Is a window register's scoreboard bit set (R253, R272)? -/
def strBusy (s : Str) (n : Nat) : Bool :=
  s.pend.any fun q => n == 0x1D || (n == 0x1E && (q.op == 1 || q.op == 2)) ||
    (decide (0x10 ≤ n) && decide (n ≤ 0x17) && q.op == 3)

/-- STAT of a window (R271). -/
def strStat (s : Str) : Nat := s.owner + b2n s.active * 8 + b2n s.done * 16 + s.err * 256

/-- A strainer register number's image word (R277). -/
def strImg (n : Nat) : Nat :=
  if n ≤ 0x17 then n else if n ≤ 0x1A then n else if n = 0x1C then 27 else if n = 0x1D then 28 else 29

/-- A window's value of a register for MFCP. -/
def strRead (s : Str) (n : Nat) : Option Word :=
  if n ≤ 0x1A ∨ n = 0x1C then some (strReg s n)
  else if n = 0x1D then some (BitVec.ofNat 32 (strStat s))
  else if n = 0x1E then some (BitVec.ofNat 32 s.count)
  else none

/-- The window words that a strainer operation reads before it retires (R255): its own registers, and the MAC state where no queued
operation is to write it first. -/
def strReads (s : Str) (op len : Nat) : List Nat :=
  let own := match op with
    | 1 => [24, 25, 26, 27]
    | 2 => List.range ((len + 3) / 4)
    | _ => []
  own.map (fun w => 0x06004000 + w * 4) ++ if op == 1 || !s.pend.isEmpty then [] else macWords s.hdr

/-- Queue a strainer operation, the words it reads checked for parity (R255). -/
def strPush (y : Byre) (e t op len : Nat) : Ends :=
  let s := (y.engine e).str
  y.unitRead e (strReads s op len) fun y =>
    let q : StrPend := ⟨op, t, len, strBytes s 0 16, strBytes s 0x18 3, (strReg s 0x1C).toNat⟩
    let g := y.engine e
    .ok (y.setEngine e { g with str := { g.str with pend := g.str.pend ++ [q] } }) .seq

/-- MFCP of the separator (R252, R255, R258). -/
def mfcpSep (y : Byre) (e t n : Nat) (dx : Fin 16) (w : Nat) : Ends :=
  let th := y.thread e t
  let p := th.sep
  if !Sep.readable n then .trap ⟨1, 0, w, 0⟩
  else if p.busy n then .notReady
  else
    let addr := if n < 0x20 then [sepAddr t n] else if n = 0x20 then []
      else [0x06002000 + p.taddr * 8 + (if n = 0x22 then 4 else 0)]
    let c := (y.engine e).coefAt p.taddr
    let v := if n < 0x20 then p.reg n else if n = 0x20 then BitVec.ofNat 32 p.taddr else if n = 0x21 then c.1 else c.2
    y.unitRead e addr fun y => .ok (y.onThread e t fun th => th.setD dx v) .seq

/-- MTCP to the separator (R252, R258 to R260). -/
def mtcpSep (y : Byre) (e t n : Nat) (v : Word) (w : Nat) : Ends :=
  let th := y.thread e t
  let p := th.sep
  if !p.view.writable n v then .trap ⟨1, 0, w, 0⟩
  else if th.task ∧ 0x20 ≤ n then .trap ⟨6, 0, w, 0⟩
  else if p.busy n then .notReady
  else if n = 0x20 then .ok (y.setThread e t { th with sep := { p with taddr := v.toNat } }) .seq
  else if n = 0x21 then .ok (y.setThread e t { th with sep := { p with tcos := v } }) .seq
  else if n = 0x22 then
    let g := y.engine e
    let y := (y.setEngine e { g with coef := SMap.set (fun _ => (0#32, 0#32)) g.coef p.taddr (p.tcos, v) }).unitClear e
      [0x06002000 + p.taddr * 8, 0x06002004 + p.taddr * 8]
    .ok (y.setThread e t { th with sep := { p with taddr := (p.taddr + 1) % 1024 } }) .seq
  else .ok ((y.setThread e t { th with sep := p.setReg n v }).unitClear e [sepAddr t n]) .seq

/-- MFCP of the strainer (R252, R255, R271). -/
def mfcpStr (y : Byre) (e t n : Nat) (dx : Fin 16) (w : Nat) : Ends :=
  let s := (y.engine e).str
  match strRead s n with
  | none => .trap ⟨1, 0, w, 0⟩
  | some v =>
    if strBusy s n then .notReady
    else
      match s.poison.find? fun q => q.1 == n with
      | some (_, a) => .trap ⟨8, 1, a, 0⟩
      | none => y.unitRead e [0x06004000 + strImg n * 4] fun y => .ok (y.onThread e t fun th => th.setD dx v) .seq

/-- MTCP to the strainer (R252, R271, R273). -/
def mtcpStr (y : Byre) (e t n : Nat) (v : Word) (w : Nat) : Ends :=
  let g := y.engine e
  let ctlOk := bits v.toNat 31 10 == 0 && bits v.toNat 7 0 != 255 && bits v.toNat 9 8 != 3
  let ok := decide (n ≤ 0x0F) || (decide (0x18 ≤ n) && decide (n ≤ 0x1A)) || (n == 0x1C && ctlOk)
  if !ok then .trap ⟨1, 0, w, 0⟩
  else
    let (o, a) := strOwner g.str
    if a ∧ o ≠ t then
      .ok (y.setEngine e { g with str := { g.str with pend := g.str.pend ++ [⟨0, t, 0, [], [], 0⟩] } }) .seq
    else .ok ((y.setEngine e { g with str := strSet g.str n v }).unitClear e [0x06004000 + strImg n * 4]) .seq

/-- The oldest result of a separator window commits (R254): the words it writes get good parity. -/
def sepCommit (y : Byre) (e t : Nat) : Byre :=
  match (y.thread e t).sep.pend with
  | [] => y
  | q :: qs =>
    (y.onThread e t fun th => { th with sep := { th.sep.apply q with pend := qs } }).unitClear e
      ((q.regs.map (·.1) ++ q.sums.flatMap fun c => sumWords c.1).map (sepAddr t))

/-- The oldest operation of a strainer window is finished and commits (R254). -/
def strCommit (y : Byre) (e : Nat) : Byre :=
  let g := y.engine e
  match g.str.pend with
  | [] => y
  | q :: qs =>
    let (s, y) := y.strRun e { g.str with pend := qs } q
    (y.setEngine e { y.engine e with str := s }).unitClear e (strWrote s q)

/-- The parity marks of a unit's storage go with what it holds (R257). -/
def unitDark (y : Byre) (e : Nat) (strGate : Bool) : Byre :=
  let keep := fun (p : Nat × Nat) => !(p.1 == 5 && p.2 / 0x10000 == e && decide (0x4000 ≤ p.2 % 0x10000) == strGate)
  { y with badPar := y.badPar.filter keep, softPar := y.softPar.filter keep }

/-- Close the gates that a write turns off: those units hold no state (R257). -/
def gateWrite (y : Byre) (strGate : Bool) (v : Nat) : Byre :=
  if strGate then
    (List.range 4).foldl (fun y c =>
      if bit (y.rdN R.ROTA_CP_GATE_STR) c && !bit v c then
        (List.range 8).foldl (fun y i => (y.setEngine (8 * c + i) { y.engine (8 * c + i) with str := Str.zero }).unitDark (8 * c + i) true) y
      else y) y |>.wrN R.ROTA_CP_GATE_STR (v % 16)
  else
    (List.range 32).foldl (fun y e =>
      if bit (y.rdN R.ROTA_CP_GATE_SEP) e && !bit v e then
        let y := (y.setEngine e { y.engine e with coef := [] }).unitDark e false
        (List.range 8).foldl (fun y t => y.onThread e t fun th => { th with sep := Sep.zero }) y
      else y) y |>.wrN R.ROTA_CP_GATE_SEP v

/-! ### Key commands (R265, R266) -/

/-- Is a header free of reserved fields and encodings (R266)? -/
def keyHdrOk (h : Nat) : Bool := bits h 22 0 == 0 && (!bit h 31 || bits h 30 29 == 1 || bits h 30 29 == 2)

/-- The result of a key command. -/
def keyDone (y : Byre) (r : Nat) : Byre := y.set F.ROTA_KEY_STATUS_RESULT r

/-- Read header, identifiers and check values. -/
def keySlotRead (y : Byre) : Byre :=
  let bank := y.get F.ROTA_KEY_CMD_BANK
  let slot := y.get F.ROTA_KEY_CMD_SLOT
  let hdr := y.keyHdr bank slot
  let y := ((y.wrN R.ROTA_KEY_HDR hdr).wrN R.ROTA_KEY_ID0 (y.keyWord bank slot 1)).wrN R.ROTA_KEY_ID1 (y.keyWord bank slot 2)
  let chk := fun (y : Byre) (k : Nat) =>
    if bit hdr 31 && hdrKey hdr k then
      let ((bs, bad), y) := y.keyRead bank slot k
      (if bad.isSome then 0 else kcv hdr bs, y)
    else (0, y)
  let (v0, y) := chk y 0
  let (v1, y) := chk y 1
  ((y.wrN R.ROTA_KEY_KCV0 v0).wrN R.ROTA_KEY_KCV1 v1).keyDone 0

/-- Write header and identifiers. -/
def keyHeaderWrite (y : Byre) : Byre :=
  let bank := y.get F.ROTA_KEY_CMD_BANK
  let slot := y.get F.ROTA_KEY_CMD_SLOT
  let h := y.rdN R.ROTA_KEY_HDR
  if !keyHdrOk h then y.keyDone 5
  else
    let y := ((y.setKeyWord bank slot 0 h).setKeyWord bank slot 1 (y.rdN R.ROTA_KEY_ID0)).setKeyWord bank slot 2 (y.rdN R.ROTA_KEY_ID1)
    (y.tableWritten bank).keyDone 0

/-- Write the material of a key from KEY_DATA. -/
def keyMaterialWrite (y : Byre) : Byre :=
  let bank := y.get F.ROTA_KEY_CMD_BANK
  let slot := y.get F.ROTA_KEY_CMD_SLOT
  let k := y.get F.ROTA_KEY_CMD_KEY
  let y := (List.range 8).foldl (fun y i =>
    y.setKeyWord bank slot (8 + 8 * k + i) (y.rdN (R.ROTA_KEY_DATA i))) y
  (y.tableWritten bank).keyDone 0

/-- Invalidate a slot. -/
def keyInvalidate (y : Byre) : Byre :=
  let bank := y.get F.ROTA_KEY_CMD_BANK
  let slot := y.get F.ROTA_KEY_CMD_SLOT
  let y := y.setKeyWord bank slot 0 (insBits (y.keyHdr bank slot) 31 31 0)
  (y.tableWritten bank).keyDone 0

/-- The operation that BYx_ROTA_KEY_CMD names. -/
def keyGo (y : Byre) : Byre :=
  match y.get F.ROTA_KEY_CMD_OP with
  | 0 => y.keySlotRead
  | 1 => y.keyHeaderWrite
  | 2 => y.keyMaterialWrite
  | _ => y.keyInvalidate

end Byre

/-- MFCP (R241, R252). -/
def execMfcp (b : Fin 6) (e : Fin 32) (t : Fin 8) (unit : Bool) (dx : Fin 16) (reg : BitVec 6) (s : State) :
    Host.Outcome State Fault Refusal :=
  .next (s.engineOp b e t (.mfcp b e t unit dx reg) fun y =>
    y.unitOp e t unit (y.instrAt e t) fun y => if unit then y.mfcpStr e t reg.toNat dx (y.instrAt e t) else y.mfcpSep e t reg.toNat dx (y.instrAt e t))

/-- MTCP (R241, R252). -/
def execMtcp (b : Fin 6) (e : Fin 32) (t : Fin 8) (unit : Bool) (dx : Fin 16) (reg : BitVec 6) (s : State) :
    Host.Outcome State Fault Refusal :=
  .next (s.engineOp b e t (.mtcp b e t unit dx reg) fun y =>
    y.unitOp e t unit (y.instrAt e t) fun y => let v := (y.thread e t).d[dx]
      if unit then y.mtcpStr e t reg.toNat v (y.instrAt e t) else y.mtcpSep e t reg.toNat v (y.instrAt e t))

/-- SDFT (R262). -/
def execSdft (b : Fin 6) (e : Fin 32) (t : Fin 8) (mask : BitVec 8) (adv : Bool) (s : State) :
    Host.Outcome State Fault Refusal :=
  .next (s.engineOp b e t (.sdft b e t mask adv) fun y =>
    y.unitOp e t false (y.instrAt e t) fun y => y.sdft e t mask.toNat adv)

/-- OUT (R263). -/
def execOut (b : Fin 6) (e : Fin 32) (t : Fin 8) (ch : Fin 8) (form rot : Bool) (s : State) :
    Host.Outcome State Fault Refusal :=
  .next (s.engineOp b e t (.out b e t ch form rot) fun y =>
    y.unitOp e t false (y.instrAt e t) fun y => y.sepOut e t ch form rot)

/-- CMUL (R261). -/
def execCmul (b : Fin 6) (e : Fin 32) (t : Fin 8) (qd qa qb : Fin 4) (s : State) :
    Host.Outcome State Fault Refusal :=
  .next (s.engineOp b e t (.cmul b e t qd qa qb) fun y =>
    y.unitOp e t false (y.instrAt e t) fun y => y.sepMul e t qd qa qb false)

/-- CMAC (R261). -/
def execCmac (b : Fin 6) (e : Fin 32) (t : Fin 8) (qd qa qb : Fin 4) (s : State) :
    Host.Outcome State Fault Refusal :=
  .next (s.engineOp b e t (.cmac b e t qd qa qb) fun y =>
    y.unitOp e t false (y.instrAt e t) fun y => y.sepMul e t qd qa qb true)

/-- CCLR (R261). -/
def execCclr (b : Fin 6) (e : Fin 32) (t : Fin 8) (qd : Fin 4) (s : State) :
    Host.Outcome State Fault Refusal :=
  .next (s.engineOp b e t (.cclr b e t qd) fun y =>
    y.unitOp e t false (y.instrAt e t) fun y => y.sepCclr e t qd)

/-- CLRS (R261). -/
def execClrs (b : Fin 6) (e : Fin 32) (t : Fin 8) (mask : BitVec 8) (s : State) :
    Host.Outcome State Fault Refusal :=
  .next (s.engineOp b e t (.clrs b e t mask) fun y =>
    y.unitOp e t false (y.instrAt e t) fun y => y.sepClrs e t mask.toNat)

/-- BEGIN (R272). -/
def execBegin (b : Fin 6) (e : Fin 32) (t : Fin 8) (s : State) :
    Host.Outcome State Fault Refusal :=
  .next (s.engineOp b e t (.begin b e t) fun y =>
    y.unitOp e t true (y.instrAt e t) fun y => y.strPush e t 1 0)

/-- UPD (R272, R273). -/
def execUpd (b : Fin 6) (e : Fin 32) (t : Fin 8) (len : BitVec 7) (s : State) :
    Host.Outcome State Fault Refusal :=
  .next (s.engineOp b e t (.upd b e t len) fun y =>
    y.unitOp e t true (y.instrAt e t) fun y => y.strPush e t 2 len.toNat)

/-- FIN (R272, R274). -/
def execFin (b : Fin 6) (e : Fin 32) (t : Fin 8) (s : State) :
    Host.Outcome State Fault Refusal :=
  .next (s.engineOp b e t (.fin b e t) fun y =>
    y.unitOp e t true (y.instrAt e t) fun y => y.strPush e t 3 0)

/-- DROP (R272, R275): the owner's release abandons the queued operations. -/
def execDrop (b : Fin 6) (e : Fin 32) (t : Fin 8) (s : State) :
    Host.Outcome State Fault Refusal :=
  .next (s.engineOp b e t (.drop b e t) fun y =>
    y.unitOp e t true (y.instrAt e t) fun y => 
      .ok (if Byre.strOwner (y.engine e).str = (t.val, true) then y.strRelease e t else y) .seq)

/-- CP_RESULT_COMMIT (R254): the oldest pending result of the thread's separator window, or of its engine's strainer
window, commits. -/
def execCpResultCommit (b : Fin 6) (e : Fin 32) (t : Fin 8) (unit : Bool) (s : State) :
    Host.Outcome State Fault Refusal :=
  .next (if s.engOn b e then s.onByre b fun y => if unit then y.strCommit e else y.sepCommit e t else s)

/-- CP_GATE_WRITE (R257): `strGate` names BYx_ROTA_CP_GATE_STR.  A write that changes a gate is applied in HELD, READY or TEST
only. -/
def execCpGateWrite (b : Fin 6) (m : Master) (strGate : Bool) (v : Word) (s : State) : Host.Outcome State Fault Refusal :=
  let off := if strGate then R.ROTA_CP_GATE_STR else R.ROTA_CP_GATE_SEP
  let g := if strGate then v.toNat % 16 else v.toNat
  .next (s.lockedWrite b m off (fun y => y.rdN off != g && !y.idle) fun y => y.gateWrite strGate g)

/-- A write of BYx_ROTA_KEY_CMD: all but reads of the live bank of a RUNNING or DEGRADED byre are locked (R19, R265). -/
def State.keyCmd (s : State) (b : Fin 6) (m : Master) (v : Nat) : State :=
  s.goWrite b m R.ROTA_KEY_CMD v (fun y => y.get F.ROTA_KEY_CMD_OP != 0 && y.lockedBank F.ROTA_KEY_CMD_BANK) (fun y => y.keyDone 1)
    Byre.keyGo

/-- The word of BYx_ROTA_KEY_CMD with GO. -/
def keyCmdWord (op : Nat) (bank key : Bool) (slot : BitVec 8) : Nat :=
  2147483648 + op * 2 ^ 29 + b2n bank * 2 ^ 28 + b2n key * 2 ^ 27 + slot.toNat

/-- KEY_SLOT_READ (R265, R266). -/
def execKeySlotRead (b : Fin 6) (m : Master) (bank : Bool) (slot : BitVec 8) (s : State) : Host.Outcome State Fault Refusal :=
  .next (s.keyCmd b m (keyCmdWord 0 bank ((s.byre b).flag F.ROTA_KEY_CMD_KEY) slot))

/-- KEY_HEADER_WRITE (R265, R266). -/
def execKeyHeaderWrite (b : Fin 6) (m : Master) (bank : Bool) (slot : BitVec 8) (s : State) :
    Host.Outcome State Fault Refusal :=
  .next (s.keyCmd b m (keyCmdWord 1 bank ((s.byre b).flag F.ROTA_KEY_CMD_KEY) slot))

/-- KEY_MATERIAL_WRITE (R265, R266). -/
def execKeyMaterialWrite (b : Fin 6) (m : Master) (bank key : Bool) (slot : BitVec 8) (s : State) :
    Host.Outcome State Fault Refusal :=
  .next (s.keyCmd b m (keyCmdWord 2 bank key slot))

/-- KEY_SLOT_INVALIDATE (R265). -/
def execKeySlotInvalidate (b : Fin 6) (m : Master) (bank : Bool) (slot : BitVec 8) (s : State) :
    Host.Outcome State Fault Refusal :=
  .next (s.keyCmd b m (keyCmdWord 3 bank ((s.byre b).flag F.ROTA_KEY_CMD_KEY) slot))

end Sys2Proof.Machine
end

