-- ==== Sys2Proof/Machine/Locks.lean ====
section
/-!
DEFINITION. The lock units of the byres and of the creamery (R306 to R311, R426).
-/

namespace Sys2Proof.Machine

/-- Identity of a master (R306, R311); the masters that have none are `none`. -/
def lockId : Src → Option Nat
  | .thread e t => some (e * 8 + t)
  | .mgmt .mp => some 0x100
  | .mgmt .jtag => some 0x101
  | .mgmt .bar0 => some 0x102
  | .mgmt _ => none

/-- The rights bit of a master at a byre's lock unit. -/
def lockRight : Src → Option Nat
  | .thread e _ => some (clusterOf e)
  | .mgmt .mp => some 4
  | .mgmt .jtag => some 5
  | .mgmt _ => none

/-- The rights bit of a master at the creamery's lock unit (R426). -/
def crmLockRight : Src → Option Nat
  | .mgmt .mp => some 0
  | .mgmt .jtag => some 1
  | .mgmt .bar0 => some 2
  | _ => none

/-- What an acquire does to a lock word that the master may use: the word, and what is counted (R307). -/
inductive Acq where
  | won
  | held
  | spoof
  deriving DecidableEq, Repr

/-- Judge an acquire: identity `id`, written value `v`, and whether the lock is held. -/
def acqJudge (id v : Nat) (held : Bool) : Acq := if v % 512 ≠ id then .spoof else if held then .held else .won

namespace Byre

/-- May the master use the lock's group (R306)? -/
def lockAllowed (y : Byre) (src : Src) (l : Nat) : Bool :=
  (lockRight src).elim false fun r => bit (y.rdN (R.LOCK_GRP_RIGHTS (l / 16))) r

/-- Wake every waiter of a lock: LOCK latches and the registration ends (R308). -/
def wakeWaiters (y : Byre) (l : Nat) : Byre :=
  let ws := y.waiters.filter fun q => q.2 == l + 1
  ws.foldl (fun y q => { y.latchEv (q.1 / 8) (q.1 % 8) 2 with waiters := SMap.set (fun _ => 0) y.waiters q.1 0 }) y

/-- An acquire (R306, R307, R309). -/
def lockAcquire (y : Byre) (src : Src) (l v : Nat) : Byre :=
  match lockId src with
  | none => y.inc R.LOCK_CNT_DENIED
  | some id =>
    if !y.lockAllowed src l then y.inc R.LOCK_CNT_DENIED
    else
      match acqJudge id v (y.flag (F.LOCK_ACQ_HELD l)) with
      | .spoof => y.inc R.LOCK_CNT_SPOOF
      | .won => (y.put (F.LOCK_ACQ_HELD l) true).set (F.LOCK_ACQ_OWNER l) id
      | .held =>
        match src with
        | .thread _ _ => { y with waiters := SMap.set (fun _ => 0) y.waiters id (l + 1) }
        | .mgmt _ => y

/-- A release (R308). -/
def lockRelease (y : Byre) (src : Src) (l : Nat) : Byre :=
  match lockId src with
  | none => y.inc R.LOCK_CNT_DENIED
  | some id =>
    if !y.lockAllowed src l then y.inc R.LOCK_CNT_DENIED
    else if y.flag (F.LOCK_ACQ_HELD l) ∧ y.get (F.LOCK_ACQ_OWNER l) = id then
      (((y.put (F.LOCK_ACQ_HELD l) false).set (F.LOCK_ACQ_OWNER l) 0).put (F.LOCK_ACQ_ORPHAN l) false).wakeWaiters l
    else
      let y := y.inc R.LOCK_CNT_BAD_RELEASE
      if y.flag F.LOCK_ERR_CAP_VALID then y
      else ((y.set F.LOCK_ERR_CAP_LOCK l).set F.LOCK_ERR_CAP_MASTER id).put F.LOCK_ERR_CAP_VALID true

/-- The read of an acquire word by a master (R306, R307). -/
def lockRead (y : Byre) (src : Src) (l : Nat) : Nat × Byre :=
  let v := y.rdN (R.LOCK_ACQ l) % 2 ^ 31
  if y.lockAllowed src l then (v, y) else (v + 2 ^ 31, y.inc R.LOCK_CNT_DENIED)

/-- A master is reset (R310): its locks are freed with ORPHAN set, their waiters woken, its own registration ended. -/
def masterReset (y : Byre) (id : Nat) : Byre :=
  let y := { y with waiters := SMap.set (fun _ => 0) y.waiters id 0 }
  (List.range 256).foldl (fun y l =>
    if y.flag (F.LOCK_ACQ_HELD l) && y.get (F.LOCK_ACQ_OWNER l) == id then
      ((((y.put (F.LOCK_ACQ_HELD l) false).set (F.LOCK_ACQ_OWNER l) 0).put (F.LOCK_ACQ_ORPHAN l) true).inc
        R.LOCK_CNT_ORPHAN).wakeWaiters l
    else y) y

/-- Every lock free with ORPHAN 0, as byre reset leaves them (R310). -/
def locksClear (y : Byre) : Byre :=
  { (List.range 256).foldl (fun y l => y.wrN (R.LOCK_ACQ l) 0) y with waiters := [] }

end Byre

namespace Creamery

/-- An acquire at the creamery's lock unit (R311, R426). -/
def lockAcquire (c : Creamery) (src : Src) (l v : Nat) : Creamery :=
  match lockId src, crmLockRight src with
  | some id, some r =>
    if !bit (c.rdN (R.CRM_LOCK_GRP_RIGHTS (l / 16))) r then c
    else
      match acqJudge id v (c.flag (F.CRM_LOCK_ACQ_HELD l)) with
      | .won => (c.put (F.CRM_LOCK_ACQ_HELD l) true).set (F.CRM_LOCK_ACQ_OWNER l) id
      | _ => c
  | _, _ => c

/-- A release at the creamery's lock unit. -/
def lockRelease (c : Creamery) (src : Src) (l : Nat) : Creamery :=
  match lockId src, crmLockRight src with
  | some id, some r =>
    if bit (c.rdN (R.CRM_LOCK_GRP_RIGHTS (l / 16))) r && c.flag (F.CRM_LOCK_ACQ_HELD l) && c.get (F.CRM_LOCK_ACQ_OWNER l) == id
    then ((c.put (F.CRM_LOCK_ACQ_HELD l) false).set (F.CRM_LOCK_ACQ_OWNER l) 0).put (F.CRM_LOCK_ACQ_ORPHAN l) false
    else c
  | _, _ => c

/-- A master of the creamery's lock unit is reset (R310, R311). -/
def masterReset (c : Creamery) (id : Nat) : Creamery :=
  (List.range 64).foldl (fun c l =>
    if c.flag (F.CRM_LOCK_ACQ_HELD l) && c.get (F.CRM_LOCK_ACQ_OWNER l) == id then
      ((c.put (F.CRM_LOCK_ACQ_HELD l) false).set (F.CRM_LOCK_ACQ_OWNER l) 0).put (F.CRM_LOCK_ACQ_ORPHAN l) true
    else c) c

end Creamery

namespace State

/-- An access to the creamery's lock unit (R426). -/
def crmLockOp (s : State) (src : Src) (f : Creamery → Creamery) : State :=
  match src with
  | .thread _ _ => s
  | .mgmt m => if s.shut m then s else s.onCrm f

/-- A lock access to byre `b`: threads reach the unit directly, management through the bus (R311, R19). -/
def lockOp (s : State) (b : Fin 6) (src : Src) (off : Nat) (f : Byre → Byre) : State :=
  match src with
  | .thread _ _ => s.onFab b f
  | .mgmt m => s.mgmtWrite b m off f

end State

/-- LOCK_ACQUIRE (R307); `crm` names the creamery's unit, whose lock is `l` modulo 64. -/
def execLockAcquire (b : Fin 6) (crm : Bool) (src : Src) (l : Fin 256) (v : Word) (s : State) :
    Host.Outcome State Fault Refusal :=
  .next (if crm then s.crmLockOp src fun c => c.lockAcquire src (l % 64) v.toNat
    else s.lockOp b src (R.LOCK_ACQ l) fun y => y.lockAcquire src l v.toNat)

/-- LOCK_RELEASE (R308). -/
def execLockRelease (b : Fin 6) (crm : Bool) (src : Src) (l : Fin 256) (s : State) : Host.Outcome State Fault Refusal :=
  .next (if crm then s.crmLockOp src fun c => c.lockRelease src (l % 64)
    else s.lockOp b src (R.LOCK_REL l) fun y => y.lockRelease src l)

end Sys2Proof.Machine
end

