-- ==== Sys2Proof/Machine/Rota.lean ====
section
/-!
DEFINITION. The rota (chapter 7): starting and stopping engines, waits, placement, ingress entries and post queues.
-/

namespace Sys2Proof.Machine

/-- Parity spaces of the structures of R474 that the rota reads: ingress entry, ready-list entry. -/
abbrev spIng : Nat := 7
abbrev spReady : Nat := 24

namespace Byre

/-- Lane `l` of word `w` of a schedule bank (R62). -/
def laneAddr (bank w l : Nat) : Nat := 0xD00000 + bank * 0x80000 + w * 32 + l * 4

/-- A lane's value. -/
def lane (y : Byre) (bank w l : Nat) : Nat := y.ldw (laneAddr bank w l)

/-- SERVO_EP of the live bank header (R65). -/
def servoEp (y : Byre) : Nat := y.lane y.bank 0 5 % 256

/-- Word `w` of ingress entry `i` (R211). -/
def ingWord (y : Byre) (bank i w : Nat) : Nat := (SMap.get (fun _ => 0#32) y.rota.ing (bank * 4096 + i * 4 + w)).toNat

/-- Is a thread, numbered e × 8 + t, bound (R197)? -/
def isBound (y : Byre) (k : Nat) : Bool :=
  y.servoEp == k ||
    y.rota.ing.any fun q => q.1 / 4096 == y.bank && q.1 % 4 == 0 && bit q.2.toNat 31 && bit q.2.toNat 23 &&
      y.ingWord y.bank (q.1 % 4096 / 4) 2 % 256 == k

/-- Is a thread free (R197)?  `cl` says which clusters are on. -/
def isFree (y : Byre) (cl : Nat → Bool) (e t : Nat) : Bool :=
  let th := y.thread e t
  cl (clusterOf e) && th.released && !th.halted && th.op.isNone && !y.badEng e && !y.isBound (e * 8 + t) &&
    th.wait.elim false fun m => m.getLsbD 0

/-- Free threads of an engine, lowest first. -/
def freeThreads (y : Byre) (cl : Nat → Bool) (e : Nat) : List Nat := (List.range 8).filter fun t => y.isFree cl e t

/-- The engine of a list with the most free threads, the lower number winning a tie (R206); none without a free thread. -/
def mostFree (y : Byre) (cl : Nat → Bool) (es : List Nat) : Option Nat :=
  let best := es.foldl (fun (b : Nat × Option Nat) e =>
    let n := (y.freeThreads cl e).length
    if b.1 < n then (n, some e) else b) (0, none)
  best.2

/-- Where an operation goes now (R206), and the counter of the step that chose it. -/
def choose (y : Byre) (cl : Nat → Bool) (a : Nat) (o : OpEnt) : Option (Nat × Nat) :=
  if y.freeThreads cl a ≠ [] then some (a, R.ROTA_CNT_PLACE_AFFINE)
  else
    let inCl := if 1 ≤ o.spill then y.mostFree cl (clusterEngines a) else none
    match inCl with
    | some e => some (e, R.ROTA_CNT_PLACE_CLUSTER)
    | none =>
      if o.spill = 2 then (y.mostFree cl (List.range 32)).map fun e => (e, R.ROTA_CNT_PLACE_BYRE) else none

/-- D2 of a plan operation at placement (R201). -/
def predMask (y : Byre) (o : OpEnt) : Nat :=
  (List.range 4).foldl (fun v n =>
    let p := (o.preds[n]?).getD 0xFFFF
    if p != 0xFFFF && (y.endedSt o.tick p).elim false (· != 0) then setBit v n else v) 0

/-- Put an operation on a thread (R201, R239): the wait for dispatch ends and the thread starts at ENTRY. -/
def place (y : Byre) (o : OpEnt) (e t : Nat) : Byre :=
  let y := y.leaveList o
  let y := (y.inc (R.ROTA_ENG_CNT_OPS e))
  let d2 := if o.cls = 2 then o.info else y.predMask o
  let k := if o.cls = 2 then y.tu.cur.k else o.tick.k
  y.onThread e t fun th =>
    let th := (((th.setD 0 (BitVec.ofNat 32 o.id)).setD 1 (BitVec.ofNat 32 o.d1)).setD 2 (BitVec.ofNat 32 d2)).setD 3
      (BitVec.ofNat 32 k)
    let optask := th.status.getLsbD 4
    { th with
      status := (th.status &&& 0x30#6) ||| (if optask then 1#6 else 0#6)
      pc := BitVec.ofNat 16 o.entry
      slot := none
      wait := none
      ev := th.ev &&& 0x1E#5
      op := some ⟨o, o.budget, 0, false⟩ }

/-- Insert an entry by class and readiness (R206). -/
def insOp (o : OpEnt) : List OpEnt → List OpEnt
  | [] => [o]
  | p :: ps => if p.cls < o.cls ∨ (p.cls = o.cls ∧ p.ready.getD 0 ≤ o.ready.getD 0) then p :: insOp o ps else o :: p :: ps

/-- The ready entries in the order of R206. -/
def readyOps (y : Byre) : List OpEnt := (y.rota.ents.filter (·.ready.isSome)).foldl (fun l o => insOp o l) []

/-- Try the ready entries in order and place the first that finds a thread; operations that reach no good engine are
withdrawn on the way (R206, R477). -/
def placeFirst (cl : Nat → Bool) : List OpEnt → Byre → Byre
  | [], y => y
  | o :: os, y =>
    let (a, y) := y.affinity o
    if o.cls != 2 && (reach a o).all y.badEng then placeFirst cl os ((y.withdraw o).inc R.CHURN_CNT_BAD_WITHDRAW)
    else
      match y.choose cl a o with
      | none => placeFirst cl os y
      | some (e, cnt) =>
        match y.freeThreads cl e with
        | [] => y
        | t :: _ => (y.inc cnt).place o e t

/-- OPERATION_PLACE: one placement, if any (R206). -/
def placeOp (y : Byre) (cl : Nat → Bool) : Byre :=
  let (bad, y) := y.parCheck spReady 0
  if bad then y.detectFatal 1 0 0 else placeFirst cl y.readyOps y

/-! ### Engines -/

/-- START (R195). -/
def engineStart (y : Byre) (e : Nat) : Byre :=
  let y := { y.setEngine e { y.engine e with on := true } with engCyc := SMap.set (fun _ => 0) y.engCyc e (y.cycle e) }
  let y := (List.range 8).foldl (fun y t => y.setThread e t Thr.zero) y
  y.onThread e 0 fun th => { th with released := true, pc := BitVec.ofNat 16 (y.get (F.ROTA_ENG_VECTOR_VECTOR e)) }

/-- A thread is stopped (R196): its operation, if any, ends; retired coprocessor results commit (R254), its strainer
window is released (R275) and its locks are freed (R310). -/
def threadStop (y : Byre) (e t : Nat) : Byre :=
  let y := y.endOp e t 5
  let y := y.strRelease e t
  let y := y.onThread e t fun th =>
    { th with released := false, wait := none, slot := none, halted := false, termDue := false, ev := 0#5,
              sep := { th.sep.view with pend := [] } }
  y.masterReset (e * 8 + t)

/-- STOP (R196). -/
def engineStop (y : Byre) (e : Nat) : Byre :=
  let y := y.when (y.engine e).on fun y => y.idleTo e (y.cycle e)
  let y := (List.range 8).foldl (fun y t => y.threadStop e t) y
  y.setEngine e { y.engine e with on := false, str := strFreed (y.engine e).str }

/-- SIGNAL (R192, R198). -/
def signal (y : Byre) (e mask : Nat) : Byre :=
  (List.range 8).foldl (fun y t => if bit mask t then y.latchEv e t 1 else y) y

/-- A waiting thread wakes on a masked event (R198). -/
def wfeWake (y : Byre) (e t : Nat) : Byre :=
  y.onThread e t fun th =>
    match th.wait with
    | some m => if th.ev &&& m ≠ 0#5 then th.wake false else th
    | none => th

/-- Every waiting thread of the byre is released by tick (R199, R200), and the lock waiters' registrations end (R309). -/
def releaseByTick (y : Byre) : Byre :=
  let y := y.thr.foldl (fun y q =>
    let e := q.1 / 8
    let t := q.1 % 8
    let th := y.thread e t
    if th.wait.isNone then y
    else
      let y := y.inc R.ROTA_CNT_REL_TICK
      let y := y.onThread e t fun th => { th.wake true with op := th.op.map fun r => { r with rel := r.rel + 1 } }
      match (y.thread e t).op with
      | some r =>
        if 2 ≤ r.rel then
          (y.inc R.ROTA_CNT_REL_REPEAT).event 0x41 (leBytes 2 r.ent.id ++ [BitVec.ofNat 8 e, BitVec.ofNat 8 t])
        else y
      | none => y) y
  { y with waiters := [] }

/-! ### Ingress entries and post queues -/

/-- HEAD_INFO and the ingress D2 (R201, R212). -/
def ingInfo (len verdict index : Nat) : Nat := len % 2048 + 2048 + verdict % 16 * 4096 + index % 65536 * 65536

/-- A frame that output 24 hands over (R209, R211, R212). -/
def ingressTake (y : Byre) (pail len rotaOp verdict index : Nat) : Byre :=
  let i := rotaOp
  let w0 := y.ingWord y.bank i 0
  if 0x3FF < i ∨ !bit w0 31 then (y.inc R.ROTA_CNT_ING_BADOP).pailReturn pail
  else
    let (bad, y) := y.parCheck spIng i
    if bad then (y.detectFatal 1 i 0).pailReturn pail
    else if bit w0 23 then
      let k := y.ingWord y.bank i 2 % 256
      let th := y.thread (k / 8) (k % 8)
      let (bad, y) := y.queueBad 1 26
      if bad ∨ 16 ≤ th.post.length then (y.inc R.ROTA_CNT_POST_DROP).pailReturn pail
      else
        let y := y.setThread (k / 8) (k % 8) { th with post := th.post ++ [(pail, ingInfo len verdict index)] }
        (y.inc R.ROTA_CNT_POST).latchEv (k / 8) (k % 8) 3
    else
      (y.inc R.ROTA_CNT_INGRESS).enterList
        { seq := 0, cls := 2, id := 0xF000 + i, d1 := pail, entry := bits w0 15 0, home := bits w0 20 16,
          spill := bits w0 22 21, budget := y.ingWord y.bank i 1, groups := 0, preds := [], tick := y.tu.cur,
          info := ingInfo len verdict index, ready := none }

/-- The head of a thread's post queue is removed (R212). -/
def postRemove (y : Byre) (e t : Nat) : Byre := y.onThread e t fun th => { th with post := th.post.drop 1 }

/-- Read an ingress entry into ING_DATA (R211). -/
def ingRead (y : Byre) : Byre :=
  let bank := y.get F.ROTA_ING_CMD_BANK
  let i := y.get F.ROTA_ING_CMD_INDEX
  ((List.range 4).foldl (fun y w => y.wrN (R.ROTA_ING_DATA w) (y.ingWord bank i w)) y).set F.ROTA_ING_STATUS_RESULT 0

/-- Is an ingress entry free of reserved bits and encodings (R211)? -/
def ingOk (w0 w2 w3 : Nat) : Bool :=
  bits w0 30 24 == 0 && bits w0 22 21 != 3 && bits w2 31 8 == 0 && w3 == 0

/-- Write an ingress entry from ING_DATA (R211, R213). -/
def ingWrite (y : Byre) : Byre :=
  let bank := y.get F.ROTA_ING_CMD_BANK
  let i := y.get F.ROTA_ING_CMD_INDEX
  let w := fun n => y.rdN (R.ROTA_ING_DATA n)
  if !ingOk (w 0) (w 2) (w 3) then y.set F.ROTA_ING_STATUS_RESULT 5
  else
    let ing := (List.range 4).foldl (fun m n => SMap.set (fun _ => 0#32) m (bank * 4096 + i * 4 + n) (BitVec.ofNat 32 (w n)))
      y.rota.ing
    ({ y with rota := { y.rota with ing := ing } }.tableWritten bank).set F.ROTA_ING_STATUS_RESULT 0

/-- The operation that BYx_ROTA_ING_CMD names. -/
def ingGo (y : Byre) : Byre := if y.flag F.ROTA_ING_CMD_OP then y.ingWrite else y.ingRead

/-- The scratch address that BYx_ROTA_IND_ADDR names. -/
def indKey (y : Byre) : Nat := y.get F.ROTA_IND_ADDR_ENGINE * 0x20000 + y.get F.ROTA_IND_ADDR_OFFSET * 4

/-- The offset moves on by one word after an access. -/
def indNext (y : Byre) : Byre := y.set F.ROTA_IND_ADDR_OFFSET ((y.get F.ROTA_IND_ADDR_OFFSET + 1) % 2 ^ 15)

/-- IND_DATA read (R190): the scratch word, PERR on a parity detection. -/
def indRead (y : Byre) : Byre × Nat :=
  let k := y.indKey
  let (bad, y) := y.parCheck 1 k
  let y := if bad then y.put F.ROTA_IND_STATUS_PERR true else y
  (y.indNext, (Mem.ldw y.scratch k).toNat)

/-- IND_DATA write (R190). -/
def indWrite (y : Byre) (v : Word) : Byre :=
  let k := y.indKey
  ({ y with scratch := Mem.stw y.scratch k v }.parClear 1 k).indNext

/-- An encoding that the chapter leaves undefined, or a unit's refusal of it (R220, R242). -/
def undefinedTrap (y : Byre) (e t : Nat) : Ends :=
  let w := y.instrAt e t
  let m := bits w 31 26
  if 0x3C ≤ m then .trap ⟨2, 0, w, 0⟩
  else if 0x38 ≤ m ∧ y.unitRefused e t (0x3A ≤ m) then .trap ⟨2, 0, w, 0⟩
  else .trap ⟨1, 0, w, 0⟩

end Byre

namespace State

/-- Which clusters of a byre are on. -/
def clusterOn (s : State) (b : Fin 6) (c : Nat) : Bool := s.on b (domCL + c)

/-- A write of the word `v` to BYx_ROTA_ENG_CTRL: START, then STOP (R195, R196), which are applied in HELD, READY or TEST only. -/
def engCtrl (s : State) (b : Fin 6) (m : Master) (e : Fin 32) (v : Nat) : State :=
  s.lockedWrite b m (R.ROTA_ENG_CTRL e) (fun y => bits v 31 30 != 0 && !y.idle) fun y =>
    (y.when (bit v 31 && s.clusterOn b (clusterOf e)) fun y => y.engineStart e).when (bit v 30) fun y => y.engineStop e

end State

/-! ### Commands -/

/-- ENGINE_START (R195). -/
def execEngineStart (b : Fin 6) (m : Master) (e : Fin 32) (s : State) : Host.Outcome State Fault Refusal :=
  .next (s.engCtrl b m e 0x80000000)

/-- ENGINE_STOP (R196). -/
def execEngineStop (b : Fin 6) (m : Master) (e : Fin 32) (s : State) : Host.Outcome State Fault Refusal :=
  .next (s.engCtrl b m e 0x40000000)

/-- SIGNAL_WRITE (R192, R198): a thread of engine `e` writes the mask to SIGNAL. -/
def execSignalWrite (b : Fin 6) (e : Fin 32) (mask : BitVec 8) (s : State) : Host.Outcome State Fault Refusal :=
  .next (if s.engOn b e then s.onByre b fun y => y.signal e mask.toNat else s)

/-- WFE_WAKE (R198). -/
def execWfeWake (b : Fin 6) (e : Fin 32) (t : Fin 8) (s : State) : Host.Outcome State Fault Refusal :=
  .next (if s.engOn b e then s.onByre b fun y => y.wfeWake e t else s)

/-- OPERATION_PLACE (R201, R206). -/
def execOperationPlace (b : Fin 6) (s : State) : Host.Outcome State Fault Refusal :=
  .next (s.onFab b fun y => y.placeOp (s.clusterOn b))

/-- POST_HEAD_REMOVE (R212). -/
def execPostHeadRemove (b : Fin 6) (e : Fin 32) (t : Fin 8) (s : State) : Host.Outcome State Fault Refusal :=
  .next (if s.engOn b e then s.onByre b fun y => y.postRemove e t else s)

/-- BUDGET_OVERRUN (R202): the thread is about to issue with no budget left. -/
def execBudgetOverrun (b : Fin 6) (e : Fin 32) (t : Fin 8) (s : State) : Host.Outcome State Fault Refusal :=
  .next (if s.engOn b e then s.onByre b fun y =>
    let th := y.thread e t
    if y.mayIssue e t && Byre.budgetSpent th then (y.takeSlot e t).budgetOverrun e t else y
  else s)

/-- UNDEFINED_INSTRUCTION (R220, R242). -/
def execUndefinedInstruction (b : Fin 6) (e : Fin 32) (t : Fin 8) (s : State) : Host.Outcome State Fault Refusal :=
  .next (if s.engOn b e then s.onByre b fun y =>
    let th := y.thread e t
    if y.mayIssue e t && (decodeEng b e t (y.codeWord e th.pc)).isNone then y.issue e t fun y => y.undefinedTrap e t else y
  else s)

/-- A write of BYx_ROTA_ING_CMD: an entry write that names the live bank of a RUNNING or DEGRADED byre is locked (R19, R213). -/
def State.ingCmd (s : State) (b : Fin 6) (m : Master) (v : Nat) : State :=
  s.goWrite b m R.ROTA_ING_CMD v (fun y => y.flag F.ROTA_ING_CMD_OP && y.lockedBank F.ROTA_ING_CMD_BANK)
    (fun y => y.set F.ROTA_ING_STATUS_RESULT 1) Byre.ingGo

/-- ING_ENTRY_READ (R211). -/
def execIngEntryRead (b : Fin 6) (m : Master) (bank : Bool) (i : Fin 1024) (s : State) : Host.Outcome State Fault Refusal :=
  .next (s.ingCmd b m (2147483648 + b2n bank * 2 ^ 29 + i))

/-- ING_ENTRY_WRITE (R211, R213). -/
def execIngEntryWrite (b : Fin 6) (m : Master) (bank : Bool) (i : Fin 1024) (s : State) : Host.Outcome State Fault Refusal :=
  .next (s.ingCmd b m (2147483648 + 1073741824 + b2n bank * 2 ^ 29 + i))

/-- IND_DATA_READ (R17, R190). -/
def execIndDataRead (b : Fin 6) (m : Master) (s : State) : Host.Outcome State Fault Refusal :=
  .next (s.mgmtRead b m R.ROTA_IND_DATA Byre.indRead)

/-- IND_DATA_WRITE (R190). -/
def execIndDataWrite (b : Fin 6) (m : Master) (v : Word) (s : State) : Host.Outcome State Fault Refusal :=
  .next (s.idleWrite b m R.ROTA_IND_DATA fun y => y.indWrite v)

end Sys2Proof.Machine
end

