-- ==== Sys2Proof/Machine/Ports.lean ====
section
/-!
DEFINITION. Ports (chapter 4): reception, link state, transmission from priority queues, and the tally ring.
-/

namespace Sys2Proof.Machine

/-- Parity spaces of the structures of R474 used here: duplicate filter, switch cell. -/
abbrev spDup : Nat := 11
abbrev spCell : Nat := 12

namespace Byre

/-! ### Lines -/

/-- A byte time of the port's line, in tenths of ns (R111). -/
def byteTime (y : Byre) (p : Nat) : Nat :=
  match y.get (F.SW_PORT_STATUS_SPEED p) with
  | 0 => 8000
  | 1 => 800
  | 2 => 80
  | _ => 8

/-- Time on the port's line of `n` bytes, ns, rounded up. -/
def lineNs (y : Byre) (p n : Nat) : Nat := (n * y.byteTime p + 9) / 10

/-- Is the port up (R98)? -/
def portUp (y : Byre) (p : Nat) : Bool := y.flag (F.SW_PORT_STATUS_LINK p)

/-- The port's line. -/
def lineAt (y : Byre) (p : Nat) : Line := SMap.get (fun _ => ⟨none, 0, 0, 0, 0, []⟩) y.line p

/-- Set the port's line. -/
def setLine (y : Byre) (p : Nat) (l : Line) : Byre := { y with line := SMap.set (fun _ => ⟨none, 0, 0, 0, 0, []⟩) y.line p l }

/-- A priority queue (R109). -/
def outQ (y : Byre) (p q : Nat) : List Tx := SMap.get (fun _ => []) y.outq (p * 8 + q)

/-- Replace a priority queue. -/
def setOutQ (y : Byre) (p q : Nat) (l : List Tx) : Byre := { y with outq := SMap.set (fun _ => []) y.outq (p * 8 + q) l }

/-- Depth of a priority queue. -/
def qDepth (y : Byre) (p q : Nat) : Nat :=
  bits (y.rdN (if q < 4 then R.SW_PORT_QDEPTH0 p else R.SW_PORT_QDEPTH1 p)) (8 * (q % 4) + 7) (8 * (q % 4))

/-- The pair of a port whose MODE is not off, and whether the port is its PORT_B (R113). -/
def pairOf (y : Byre) (p : Nat) : Option (Nat × Bool) :=
  ((List.range 11).find? fun n => y.get (F.SW_PAIR_MODE n) != 0 &&
    (y.get (F.SW_PAIR_PORT_A n) == p || y.get (F.SW_PAIR_PORT_B n) == p)).map fun n => (n, y.get (F.SW_PAIR_PORT_B n) == p)

/-- Is the port PORT_B of a pair? -/
def lanB (y : Byre) (p : Nat) : Bool := (y.pairOf p).elim false (·.2)

/-- The other port of a pair. -/
def mate (y : Byre) (n : Nat) (isB : Bool) : Nat := if isB then y.get (F.SW_PAIR_PORT_A n) else y.get (F.SW_PAIR_PORT_B n)

/-- The port and the other port of its pair, as an output mask. -/
def ownMask (y : Byre) (p : Nat) : Nat :=
  match y.pairOf p with
  | some (n, isB) => setBit (2 ^ p) (y.mate n isB)
  | none => 2 ^ p

/-- The board delay of a register of BYx_TIME_ING_DLY or EGR_DLY at the instant `c` of `clk`, ns (R61). -/
def boardDelay (y : Byre) (off c : Nat) : Int := sgn 16 (y.dlyWord off c % 65536) / 16

/-- A port's stamp for the instant `t` (R34): within 4 ns. -/
def stampAt (y : Byre) (t : Nat) (d : Int) : Nat × Byre :=
  ((((t : Int) + (Config.stampErr y.free % 9 : Nat) - 4 + d)).toNat, y.useFree)

/-- The short form of an instant (R31). -/
def short (t : Nat) : Nat := t / 1000000000 % 2 ^ 32 * 2 ^ 32 + t % 1000000000

/-- Add to an octet counter, LO and HI (R126). -/
def addOct (y : Byre) (lo hi n : Nat) : Byre :=
  let v := y.rdN hi * 2 ^ 32 + y.rdN lo + n
  (y.wrN lo (v % 2 ^ 32)).wrN hi (v / 2 ^ 32 % 2 ^ 32)

/-! ### Pails that somebody still holds (R321, R337) -/

/-- Does a calendar, a committed result, a publication, a line or a waiting frame hold the pail? -/
def pailBusy (y : Byre) (off : Nat) : Bool :=
  (y.cal.any fun q => decide (q.1 < 32) && q.2.any fun c => c.pail == off && c.len != 0) ||
  (y.results.any fun q => decide (2 ≤ q.2.kind) && q.2.pail == off) ||
  (y.pubSt.any fun q => q.2.elim false fun s => s.pail == off) ||
  (y.line.any fun q => q.2.tx.elim false fun t => t.pail == off) ||
  (y.inq.any fun f => f.keep && f.pail == off)

/-- The hardware is done with a pail: it returns unless somebody still holds it. -/
def letGo (y : Byre) (off : Nat) : Byre :=
  if y.pailBusy off then y else { y with pailNo := y.pailNo.filter fun q => q.1 / 16 != off }.pailReturn off

/-! ### The tally ring -/

/-- The 128 bytes of a record (R120, R121). -/
def tallyBytes (bs : List Byte) (stamp port point : Nat) (lanB : Bool) (len cls queue : Nat) (sched : Bool) (drop : Nat)
    (seq : Option Nat) : List Byte :=
  let m := port % 32 + point * 2 ^ 5 + b2n lanB * 2 ^ 7 + len % 4096 * 2 ^ 8 + cls % 256 * 2 ^ 20 + queue % 8 * 2 ^ 28 +
    b2n sched * 2 ^ 31 + drop % 256 * 2 ^ 32 + seq.getD 0 % 65536 * 2 ^ 40 + b2n seq.isSome * 2 ^ 56
  (bs ++ List.replicate 64 0#8).take 64 ++ leBytes 8 (short stamp) ++ leBytes 8 m ++ List.replicate 48 0#8

/-- A record joins the capture queue of 64, or is lost (R123). -/
def tallyPush (y : Byre) (rec_ : List Byte) : Byre :=
  if !y.flag F.SW_TALLY_CTRL_EN then y
  else
    let (q, lost) := pushQ 64 y.tallyQ rec_
    let y := { y with tallyQ := q }
    if lost then y.inc R.SW_CNT_TALLY_DROP else y

/-- A drop record (R119, R122). -/
def tallyDrop (y : Byre) (bs : List Byte) (stamp port len cls queue reason : Nat) (seq : Option Nat) : Byre :=
  if y.flag F.SW_TALLY_CTRL_DROP_EN then
    y.tallyPush (tallyBytes bs stamp port 2 (y.lanB port) len cls queue false reason seq)
  else y

/-- Sampling of R119: one in `n`; the n-th of each n is taken (DESIGN CHOICE, assumption log entry 22). -/
def sample (y : Byre) (key n : Nat) : Bool × Byre :=
  if n = 0 then (false, y)
  else
    let c := SMap.get (fun _ => 0) y.smp key + 1
    (decide (n ≤ c), { y with smp := SMap.set (fun _ => 0) y.smp key (if n ≤ c then 0 else c) })

/-- Is the tally ring's tanker able to write its vat slot, or is the ring in DRAM (R123)? -/
def tallyTarget (y : Byre) (a : Nat) : Bool :=
  y.flag F.SW_TALLY_CTRL_TARGET || y.bankOpen (a / 0x40000) (0x10 + y.get F.SW_TALLY_CTRL_TANKER)

/-! ### Transmission -/

/-- Where the PTP header of a frame starts, and the UDP header where there is one (R128). -/
def ptpAt (bs : List Byte) : Option (Nat × Option Nat) :=
  let h := l2 bs
  if h.et = 0x88F7 then some (h.off, none)
  else if h.et = 0x0800 then
    let p := parseIp bs h.off
    let u := h.off + 4 * (fb bs h.off 1 % 16)
    if p.kind = 3 then some (u + 8, some u) else none
  else none

/-- Length of a PTP message without its TLVs, by messageType (PRESUMED from IEEE 1588-2019, entry 23). -/
def ptpBody (ty : Nat) : Nat :=
  match ty with
  | 0 | 1 | 8 => 44
  | 11 => 64
  | _ => 54

/-- Does the message at `o` carry the AUTHENTICATION TLV of Annex P? -/
def ptpSecured (bs : List Byte) (o : Nat) : Bool :=
  let fin := min bs.length (o + fb bs (o + 2) 2)
  let rec go : Nat → Nat → Bool
    | 0, _ => false
    | fuel + 1, a => decide (a + 4 ≤ fin) && (fb bs a 2 == 0x8009 || go fuel (a + 4 + fb bs (a + 2) 2))
  go 64 (o + ptpBody (fb bs o 1 % 16))

/-- Replace bytes of a frame from an offset. -/
def patch (bs : List Byte) (o : Nat) (new : List Byte) : List Byte := bs.take o ++ new ++ bs.drop (o + new.length)

/-- The correction of PTP event messages on transmission (R35): residence time in a transparent clock, and for a one-step Sync or
Pdelay_Resp of the byre's own the time since the instant in its body (layout PRESUMED from IEEE 1588-2019, entry 23). -/
def ptpFix (y : Byre) (p : Nat) (tx : Tx) (eg : Nat) (bs : List Byte) : List Byte :=
  match ptpAt bs with
  | none => bs
  | some (o, u) =>
    let ty := fb bs o 1 % 16
    let tc := bit (y.rdN R.TIME_TC_EN) p && decide (p < 20) && decide (tx.input < 20) && bit (y.rdN R.TIME_TC_EN) tx.input
    let own := tx.input == 24 && (ty == 0 || ty == 3) && !y.flag F.TIME_CTRL_TWO_STEP_TX && !bit (fb bs (o + 6) 1) 1
    let d : Int := if tc && decide (ty < 4) then (eg : Int) - tx.stamp
      else if own then (eg : Int) - (fb bs (o + 34) 6 * 1000000000 + fb bs (o + 38 + 2) 4 : Nat) else 0
    if d = 0 then bs
    else
      let c := (sgn 64 (fb bs (o + 8) 8) + d * 65536) % (2 ^ 64 : Nat)
      let bs := patch bs (o + 8) (beBytes 8 c.toNat)
      match u with
      | some u => patch bs (u + 6) [0#8, 0#8]
      | none => bs

/-- The words of a pail that a frame occupies. -/
def pailWords (pail off len : Nat) : List Nat :=
  (List.range ((off % 4 + len + 3) / 4)).map fun i => pail + off / 4 * 4 + 4 * i

/-- Read the parity of a list of vat words: does any fail? -/
def anyParity (y : Byre) : List Nat → Bool × Byre
  | [] => (false, y)
  | a :: as =>
    let (bad, y) := y.parCheck 0 a
    let (rest, y) := y.anyParity as
    (bad || rest, y)

/-- A frame has left the line (R34, R35, R97): its egress stamp, by the board delay at its start-of-frame delimiter (R61), and what
the line carried. -/
def onLine (y : Byre) (p : Nat) (tx : Tx) (good : Bool) : Nat × Byre :=
  let l := y.lineAt p
  let eg := ((l.start : Int) + y.boardDelay (R.TIME_EGR_DLY p) l.sfd).toNat
  (eg, { y with sent := SMap.set (fun _ => ⟨0, [], true⟩) y.sent p ⟨l.start, lineBytes (y.ptpFix p tx eg l.bytes), good⟩ })

/-- The frame without preamble and FCS that a port has put on its line last. -/
def sentFrame (y : Byre) (p : Nat) : List Byte :=
  let bs := (SMap.get (fun _ => ⟨0, [], true⟩) y.sent p).bytes
  (bs.drop 8).take (bs.length - 12)

/-- A frame has left the line complete, or ends with a coding error where `good` is false (R119, R126, R294). -/
def txDone (y : Byre) (p : Nat) (tx : Tx) (good : Bool) : Byre :=
  let (eg, y) := y.onLine p tx good
  let y := y.setLine p { y.lineAt p with tx := none, bytes := [] }
  let y := if good then
      ((y.inc (R.SW_PORT_CNT_TX_FRAMES p)).addOct (R.SW_PORT_CNT_TX_OCT_LO p) (R.SW_PORT_CNT_TX_OCT_HI p) (max tx.len 60 + 4))
    else y
  let y := if good && tx.mirror then
      let (take, y) := y.sample (p * 2 + 1) (y.get (F.SW_PORT_TALLY_TX_N p))
      if take then
        y.tallyPush (tallyBytes (y.sentFrame p) eg p 1 (y.lanB p) (max tx.len 60 + 4) tx.cls tx.queue tx.sched 0 tx.seq)
      else y
    else y
  y.letGo tx.pail

/-- Account for the frames whose transmission has ended by now. -/
def settle (y : Byre) : Byre :=
  (List.range 24).foldl (fun y p =>
    let l := y.lineAt p
    match l.tx with
    | some tx => if l.fin ≤ y.now then y.txDone p tx true else y
    | none => y) y

/-- Put a frame on the line with its timestamp point at the instant `t` (R97, R294): the preamble starts 8 byte times before. -/
def txStart (y : Byre) (p : Nat) (tx : Tx) (t : Nat) (edit : List Byte → List Byte) : Byre :=
  let (bad, y) := y.anyParity (pailWords tx.pail tx.off tx.len)
  let (st, y) := y.stampAt t 0
  let bs := edit (y.vatRead (tx.pail + tx.off) tx.len)
  let n := max tx.len 60 + 4
  let y := y.setLine p ⟨some tx, st, t + y.lineNs p n, t + y.lineNs p (n + 12), y.tu.clk + (t - y.now),
    bs ++ List.replicate (60 - bs.length) 0#8⟩
  if bad then ((y.inc R.PAIL_CNT_DATA_PARITY).inc R.PAIL_CNT_TX_PARITY).txDone p tx false else y

/-- The instant from which no priority-queue frame starts because of the port's next calendar entry (R110). -/
def guarded (y : Byre) (p : Nat) : Bool :=
  (SMap.get (fun _ => []) y.cal p).any fun c => decide (c.l ≤ y.now + y.get (F.SW_PORT_GUARD_GUARD_NS p))

/-- PRIORITY_FRAME_TRANSMIT (R109, R110). -/
def prioTx (y : Byre) (p : Nat) : Byre :=
  let y := y.settle
  let l := y.lineAt p
  if !y.portUp p || l.tx.isSome || decide (y.now < l.free) || y.guarded p then y
  else
    match (List.range 8).reverse.find? fun q => !(y.outQ p q).isEmpty with
    | none => y
    | some q =>
      match y.outQ p q with
      | [] => y
      | tx :: rest => (y.setOutQ p q rest).txStart p tx (y.now + y.lineNs p 8) id

/-! ### Link state -/

/-- A Tugus link at rest. -/
def tugZero : TugLink := ⟨0, false, [0, 0, 0, 0], 0, [], 0, false, 0, false, false, 0, [], 0, 0, 0, []⟩

/-- Link `l`. -/
def tugAt (y : Byre) (l : Nat) : TugLink := SMap.get (fun _ => tugZero) y.tug l

/-- Change link `l`. -/
def onTug (y : Byre) (l : Nat) (f : TugLink → TugLink) : Byre :=
  { y with tug := SMap.set (fun _ => tugZero) y.tug l (f (y.tugAt l)) }

/-- A link's port comes up: INIT (R351). -/
def linkUp (y : Byre) (l : Nat) : Byre :=
  let tot := (List.range 4).map fun v => y.get (F.TUG_LINK_RX_CRED_TOTAL l v)
  (y.set (F.TUG_LINK_STATUS_STATE l) 1).onTug l fun k => { tugZero with tot := tot, out := k.out, evtAt := k.evtAt }

/-- A link's port goes down (R351, R355): the retry buffer is discarded and counted, and the credits of both directions end. -/
def linkDown (y : Byre) (l : Nat) : Byre :=
  let y := y.incBy (R.TUG_LINK_CNT_DOWN_LOST l) (y.tugAt l).retry.length
  let y := (y.set (F.TUG_LINK_STATUS_STATE l) 0).put (F.TUG_LINK_STATUS_PEER l) false
  let y := (List.range 4).foldl (fun y v =>
    let y := ((y.set (F.TUG_LINK_TX_CRED_AVAIL l v) 0).set (F.TUG_LINK_TX_CRED_OUT l v) 0).set (F.TUG_LINK_TX_CRED_TOTAL l v) 0
    (y.set (F.TUG_LINK_RX_CRED_RET_PEND l v) 0).set (F.TUG_LINK_RX_CRED_HELD l v) 0) y
  let y := { y with canPail := y.canPail.filter fun q => (q.2 - 1) / 4 != l,
                    ctlRx := List.map (fun (q : List Byte × Option Nat) => (q.1, if q.2 = some l then none else q.2)) y.ctlRx }
  y.onTug l fun k => { tugZero with out := k.out, evtAt := k.evtAt }

/-- Does the port's line negotiate (R98)? -/
def negotiates (y : Byre) (p : Nat) : Bool :=
  y.flag (F.SW_PORT_CTRL_ANEG_EN p) && (y.get (F.SW_PORT_CTRL_LINE p) == 1 || y.get (F.SW_PORT_CTRL_LINE p) == 2)

/-- A port's conditions have held for `held` ns: it goes up once that is UP_MS (R98, R101).  SGMII takes its speed from negotiation,
or from FORCE_SPEED (R94). -/
def portUpEvt (y : Byre) (p speed held : Nat) : Byre :=
  if !y.flag (F.SW_PORT_CTRL_ADMIN_UP p) || y.get (F.SW_PORT_CTRL_LINE p) == 0 || y.portUp p then y
  else
    let y := (y.put (F.SW_PORT_STATUS_PCS_LOCK p) true).put (F.SW_PORT_STATUS_REMOTE_FAULT p) false
    let y := (y.put (F.SW_PORT_STATUS_ANEG_DONE p) (y.negotiates p)).put (F.SW_PORT_STATUS_ANEG_FAIL p) false
    if held < y.get F.SW_LINK_TIMING_UP_MS * 1000000 then y
    else
      let sp := match y.get (F.SW_PORT_CTRL_LINE p) with
        | 1 => 2
        | 2 => if y.flag (F.SW_PORT_CTRL_ANEG_EN p) then min speed 2 else y.get (F.SW_PORT_CTRL_FORCE_SPEED p)
        | 3 => 1
        | _ => 3
      let y := (y.set (F.SW_PORT_STATUS_SPEED p) sp).put (F.SW_PORT_STATUS_LINK p) true
      if 22 ≤ p then y.linkUp (p - 22) else y

/-- The stamp of a drop record (R119): the frame's ingress stamp, or the drop instant for a frame that no port received. -/
def dropAt (y : Byre) (input stamp : Nat) : Nat := if input < 24 then stamp else y.now

/-- Flush a list of queued frames of a port (R99). -/
def flush (y : Byre) (p : Nat) (txs : List Tx) : Byre :=
  txs.foldl (fun y tx =>
    let y := (y.inc (R.SW_PORT_CNT_TX_FLUSH p)).tallyDrop (y.vatRead (tx.pail + tx.off) (min tx.len 64)) (y.dropAt tx.input tx.stamp) p
      (tx.len + 4) tx.cls tx.queue 7 tx.seq
    y.letGo tx.pail) y

/-- What happens to a port's line (R94, R98): ADMIN_UP is 0; lock or negotiation is lost; a local or a remote fault (for 100BASE-FX
a far-end fault) begins; negotiation has found a partner without full duplex; the remote fault ends. -/
inductive LinkLoss where
  | admin | lock | aneg | localFault | remoteFault | noDuplex | faultEnds
  deriving DecidableEq, Repr

/-- What it leaves in the status (R94). -/
def lossStatus (y : Byre) (p : Nat) : LinkLoss → Byre
  | .lock => (y.put (F.SW_PORT_STATUS_PCS_LOCK p) false).put (F.SW_PORT_STATUS_ANEG_DONE p) false
  | .aneg => if y.negotiates p then y.put (F.SW_PORT_STATUS_ANEG_DONE p) false else y
  | .remoteFault => y.put (F.SW_PORT_STATUS_REMOTE_FAULT p) true
  | .faultEnds => y.put (F.SW_PORT_STATUS_REMOTE_FAULT p) false
  | .noDuplex =>
    if y.negotiates p then (y.put (F.SW_PORT_STATUS_ANEG_DONE p) false).put (F.SW_PORT_STATUS_ANEG_FAIL p) true else y
  | _ => y

/-- Does it take the port down after `held` ns (R98)?  Only lines that negotiate need negotiation, and only 10GBASE-R
needs a line without fault. -/
def lossDowns (y : Byre) (p held : Nat) (why : LinkLoss) : Bool :=
  let long := decide (y.get F.SW_LINK_TIMING_DOWN_US * 1000 ≤ held)
  match why with
  | .admin => !y.flag (F.SW_PORT_CTRL_ADMIN_UP p)
  | .lock => long
  | .aneg | .noDuplex => long && y.negotiates p
  | .localFault | .remoteFault => long && y.get (F.SW_PORT_CTRL_LINE p) == 4
  | .faultEnds => false

/-- A port goes down (R99); `part` says that a frame is partly received.  The drop record of that frame holds no bytes and LENGTH 0 (DESIGN CHOICE: R119 to R121 do not say what the record of a
frame without an end holds, assumption log entry 85). -/
def portDrop (y : Byre) (p : Nat) (part : Bool) : Byre :=
  let y := y.settle
  if !y.portUp p then y
  else
    let y := ((y.put (F.SW_PORT_STATUS_LINK p) false).put (F.SW_PORT_STATUS_DOWN_EVT p) true).inc (R.SW_PORT_CNT_LINK_DOWN p)
    let y := (List.range 8).foldl (fun y q => (y.setOutQ p q []).flush p (y.outQ p q)) y
    let y := match (y.lineAt p).tx with
      | some tx =>
        let y := ((y.inc (R.SW_PORT_CNT_TX_ABORT p)).onLine p tx false).2
        (y.setLine p ⟨none, 0, y.now, y.now, 0, []⟩).letGo tx.pail
      | none => y
    let y := if 22 ≤ p then y.linkDown (p - 22) else y
    if part then
      (y.inc (R.SW_PORT_CNT_RX_FCS p)).tallyDrop [] y.now p 0 0 0 1 none
    else y

/-- Something has happened to a port's line `held` ns ago (R94, R98). -/
def portDownEvt (y : Byre) (p : Nat) (why : LinkLoss) (held : Nat) (part : Bool) : Byre :=
  let y := y.lossStatus p why
  if y.lossDowns p held why then y.portDrop p part else y

/-! ### Tally ring -/

/-- The address of a ring slot. -/
def tallySlot (y : Byre) (n : Nat) : Nat := y.rdN R.SW_TALLY_BASE * 128 + n * 128

/-- A record goes into a ring slot, in vat or DRAM, by the function that writes DRAM. -/
def tallyStore (y : Byre) (dram : Byre → Nat → List Byte → Byre) (a : Nat) (r : List Byte) : Byre :=
  if y.flag F.SW_TALLY_CTRL_TARGET then dram y a r else y.vatWrite a r

/-- TALLY_RECORD_WRITE (R123). -/
def tallyWrite (y : Byre) (dram : Byre → Nat → List Byte → Byre) : Byre :=
  match y.tallyQ with
  | [] => y
  | r :: rest =>
    let w := y.get F.SW_TALLY_WR_WR
    let a := y.tallySlot w
    if !y.flag F.SW_TALLY_CTRL_EN || !y.tallyTarget a then y
    else
      let (bad, y) := { y with tallyQ := rest }.queueBad 2 24
      if bad then y.inc R.SW_CNT_TALLY_DROP
      else
        let size := 2 ^ y.get F.SW_TALLY_CTRL_SIZE_LOG2
        let rd := y.get F.SW_TALLY_RD_RD
        let full := (w + 1) % size == rd
        if full && !y.flag F.SW_TALLY_CTRL_MODE then y.inc R.SW_CNT_TALLY_DROP
        else
          let y := { y.tallyStore dram a r with tallyNew := y.tallyNew + 1 }
          let y := y.set F.SW_TALLY_WR_WR ((w + 1) % size)
          if full then (y.set F.SW_TALLY_RD_RD ((rd + 1) % size)).inc R.SW_CNT_TALLY_OVR else y

/-- TALLY_RD_ADVANCE (R123, R192). -/
def tallyAdvance (y : Byre) (v : Nat) : Byre :=
  y.set F.SW_TALLY_RD_RD ((y.get F.SW_TALLY_RD_RD + v) % 2 ^ y.get F.SW_TALLY_CTRL_SIZE_LOG2)

end Byre

namespace State

/-- A step of a port: its power domain and the FAB domain are on. -/
def onPort (s : State) (b : Fin 6) (p : Nat) (f : Byre → Byre) : State :=
  if s.on b (portDom p) then s.onFab b f else s

end State

/-- PRIORITY_FRAME_TRANSMIT (R109). -/
def execPriorityFrameTransmit (b : Fin 6) (p : Fin 22) (dt : Nat) (s : State) : Host.Outcome State Fault Refusal :=
  .next (s.onPort b p fun y => (y.advance dt).prioTx p)

/-- PORT_UP (R98): lock, negotiation and line have been good for `dt.held` ns; `speed` is what SGMII negotiation found. -/
def execPortUp (b : Fin 6) (p : Fin 24) (dt : LineTime) (speed : BitVec 2) (s : State) : Host.Outcome State Fault Refusal :=
  .next (s.onPort b p fun y => (y.advance dt.dt).portUpEvt p speed.toNat dt.held)

/-- What happens to the line, by the operand of PORT_DOWN. -/
def lossOf (why : BitVec 3) : Byre.LinkLoss :=
  match why.toNat with
  | 0 => .admin
  | 1 => .lock
  | 2 => .aneg
  | 3 => .localFault
  | 4 => .remoteFault
  | 5 => .noDuplex
  | _ => .faultEnds

/-- PORT_DOWN (R94, R98, R99): what has happened to the port's line, `dt.held` ns ago. -/
def execPortDown (b : Fin 6) (p : Fin 24) (dt : LineTime) (why : BitVec 3) (part : Bool) (s : State) :
    Host.Outcome State Fault Refusal :=
  .next (s.onPort b p fun y => (y.advance dt.dt).portDownEvt p (lossOf why) dt.held part)

/-- OCTET_LO_READ (R126): HI is latched in the same access. -/
def execOctetLoRead (b : Fin 6) (m : Master) (p : Fin 24) (tx : Bool) (s : State) : Host.Outcome State Fault Refusal :=
  let lo := if tx then R.SW_PORT_CNT_TX_OCT_LO p else R.SW_PORT_CNT_RX_OCT_LO p
  .next (s.mgmtRead b m lo fun y =>
    ({ y with octHi := SMap.set (fun _ => 0) y.octHi (lo + 4) (y.rdN (lo + 4)) }, y.rdN lo))

end Sys2Proof.Machine
end

