-- ==== Sys2Proof/Machine/Cells.lean ====
section
/-!
DEFINITION. The switch core (R102 to R108): frames in the input queues, and cells on their way through middle queues and
resequencers, slot by slot.
-/

namespace Sys2Proof.Machine

namespace Byre

/-! ### Frames in their queues -/

/-- Frames in a switch input's queue (R96). -/
def inLen (y : Byre) (i : Nat) : Nat := (y.inq.filter (·.input == i)).length

/-- Depth of a switch input's queue (R96). -/
def inDepth (y : Byre) (i : Nat) : Nat := if i < 24 then y.get (F.SW_PORT_CTRL_IN_QDEPTH i) else 64

/-- A frame in a pail, not classified yet. -/
def newFrame (y : Byre) (pail len input stamp : Nat) : Frame :=
  { pail := pail, off := 0, len := len, input := input, stamp := stamp, arr := y.tu.clk, rct := none, hsr := false, stage := 0, ord := 0,
    act0 := 0, act1 := 0, act2 := 0, hit := 0, index := 0, slot := 255, alg := 0, rotaOp := 0xFFFF, verdict := 0, dead := false, excess := false,
    ringKeep := 0, ringBare := 0, keep := false }

/-- Replace a waiting frame. -/
def setFrame (y : Byre) (f : Frame) : Byre :=
  { y with inq := y.inq.map fun g => if g.pail == f.pail && g.input == f.input then f else g }

/-- A waiting frame is done with: it leaves its queue, and its pail returns. -/
def endFrame (y : Byre) (f : Frame) : Byre :=
  let y := { y with inq := y.inq.filter fun g => !(g.pail == f.pail && g.input == f.input) }
  if f.keep then y.letGo f.pail else y.pailReturn f.pail

/-- The bytes of a frame in its pail. -/
def frameBytes (y : Byre) (f : Frame) : List Byte := y.vatRead (f.pail + f.off) f.len

/-- Read the parity of a list of vat words (R24): those that fail. -/
def badWords (y : Byre) : List Nat → List Nat × Byre
  | [] => ([], y)
  | a :: as =>
    let (bad, y) := y.parCheck 0 a
    let (r, y) := y.badWords as
    (if bad then a :: r else r, y)

/-! ### Credits (R105) -/

/-- Return credits of an output (R105). -/
def creditBack (y : Byre) (o n : Nat) : Byre :=
  let d := SMap.get (fun _ => 0) y.deficit o
  let r := min n d
  let y := { y with deficit := SMap.set (fun _ => 0) y.deficit o (d - r) }
  y.set (F.SW_CREDIT_FREE o) (y.get (F.SW_CREDIT_FREE o) + (n - r))

/-- Cells that hold a credit for an output, wherever they are (R108). -/
def credHeld (y : Byre) (o : Nat) : Nat := (y.cells.filter (·.out == o)).length

/-- A write of TOTAL (R105): reserved outside its limits. -/
def creditTotal (y : Byre) (o v : Nat) : Byre :=
  let sum := ((List.range 32).map fun i => if i = o then v else y.get (F.SW_CREDIT_TOTAL i)).sum
  let ok := decide (sum ≤ 8192) && (if o < 28 then decide (32 ≤ v) && decide (v ≤ 1024) else v == 0)
  if !ok then y.rsvWrite 2 (R.SW_CREDIT o)
  else
    let old := y.get (F.SW_CREDIT_TOTAL o)
    let net := y.get (F.SW_CREDIT_FREE o) + v
    let owe := old + SMap.get (fun _ => 0) y.deficit o
    let y := y.set (F.SW_CREDIT_TOTAL o) v
    let y := (y.set (F.SW_CREDIT_FREE o) (net - owe))
    { y with deficit := SMap.set (fun _ => 0) y.deficit o (owe - net) }

/-- May cells of an output leave its resequencer now (R185, R209)?  The press counts the frames that it has been promised. -/
def outOpen (y : Byre) (o : Nat) : Bool :=
  y.st == stFAULTED || !((o == 24 && y.flag F.ROTA_STATUS_ING_HELD) ||
    (o == 25 && decide (64 ≤ y.pressq.length + (y.copies.filter fun c => c.out == 25 && c.got == c.cells).length)))

/-! ### A slot (R103 to R106) -/

/-- Replace a copy. -/
def setCopy (y : Byre) (c : Copy) : Byre := { y with copies := y.copies.map fun d => if d.id == c.id then c else d }

/-- The output that input `i` serves in this slot (R104): the next in turn with a cell to send and a free credit. -/
def nextOut (y : Byre) (i : Nat) : Option Nat :=
  ((List.range 32).map fun n => (SMap.get (fun _ => 0) y.served i + 1 + n) % 32).find? fun o =>
    y.get (F.SW_CREDIT_FREE o) != 0 && y.copies.any fun c => c.fr.input == i && c.out == o && c.sent != c.cells

/-- One cell of a copy enters the core and takes a credit (R103, R104): its 64 bytes are read from the pail, and a word that fails
parity is counted and stays marked in the copy (R294). -/
def enterCell (y : Byre) (c : Copy) (m : Nat) : Byre :=
  let i := c.fr.input
  let a := c.fr.pail + c.fr.off + 64 * c.sent
  let n := min 64 (c.fr.len - 64 * c.sent)
  let (bad, y) := y.badWords ((List.range ((a % 4 + n + 3) / 4)).map fun k => a / 4 * 4 + 4 * k)
  let y := if bad.isEmpty then y else y.inc R.PAIL_CNT_DATA_PARITY
  let c := { c with sent := c.sent + 1, data := c.data ++ y.vatRead a n,
                    bad := c.bad ++ bad.map fun w => w - (c.fr.pail + c.fr.off) }
  let k := i * 32 + c.out
  let no := SMap.get (fun _ => 0) y.cellNo k
  let y := { y.setCopy c with cellNo := SMap.set (fun _ => 0) y.cellNo k ((no + 1) % 64),
                              served := SMap.set (fun _ => 0) y.served i c.out,
                              cells := y.cells ++ [(⟨c.id, i, c.out, no, some m⟩ : Cell)] }
  y.set (F.SW_CREDIT_FREE c.out) (y.get (F.SW_CREDIT_FREE c.out) - 1)

/-- Input `i` sends at most one cell, to middle queue `m`. -/
def cellIn (y : Byre) (i m : Nat) : Byre :=
  match y.nextOut i with
  | none => y
  | some o =>
    match y.copies.find? fun c => c.fr.input == i && c.out == o && c.sent != c.cells with
    | none => y
    | some c => y.enterCell c m

/-- A cell leaves the resequencer of its output (R104): its credit returns; a cell for a port that is down is discarded (R100), as
is one whose parity fails (R474) and one for outputs 24 and 25 of a FAULTED byre (R469). -/
def releaseCell (y : Byre) (x : Cell) : Byre :=
  let o := x.out
  let (bad, y) := y.parCheck spCell o
  let k := x.inp * 32 + o
  let y := ({ y with cells := y.cells.erase x,
                     cellDue := SMap.set (fun _ => 0) y.cellDue k ((x.seq + 1) % 64) }).creditBack o 1
  match y.copies.find? fun c => c.id == x.copy with
  | none => y
  | some c =>
    let c := { c with got := c.got + 1 }
    if o < 24 && !y.portUp o then
      let y := y.inc R.SW_CNT_CELL_DISCARD
      let y := if c.lost = 1 then y else y.inc (R.SW_PORT_CNT_TX_FLUSH o)
      y.setCopy { c with lost := 1 }
    else if y.st = stFAULTED ∧ (o = 24 ∨ o = 25) then (y.inc R.SW_CNT_CELL_DISCARD).setCopy { c with lost := 3 }
    else if bad then (y.detect 2 o 0).setCopy { c with lost := if c.lost = 0 then 2 else c.lost }
    else y.setCopy c

/-- The resequencer of an output releases what is in sequence (R106). -/
def resequence (o : Nat) : Nat → Byre → Byre
  | 0, y => y
  | fuel + 1, y =>
    match y.cells.find? fun x => x.out == o && x.mid.isNone && x.seq == SMap.get (fun _ => 0) y.cellDue (x.inp * 32 + o) with
    | none => y
    | some x => resequence o fuel (y.releaseCell x)

/-- Middle queue `m` sends its oldest cell for output `o`, and the resequencer releases what is in sequence. -/
def cellOut (y : Byre) (m o : Nat) : Byre :=
  if !y.outOpen o then y
  else
    match y.cells.find? fun x => x.out == o && x.mid == some m with
    | none => resequence o y.cells.length y
    | some x =>
      let y := { y with cells := y.cells.map fun z => if z == x then { x with mid := none } else z }
      resequence o y.cells.length y

/-- Frames whose last copy has entered the core end, and their pails return (R108). -/
def doneFrames (y : Byre) : Byre :=
  (y.inq.filter fun f => f.stage == 3 &&
    !(y.copies.any fun c => c.fr.pail == f.pail && c.fr.input == f.input && c.sent != c.cells)).foldl endFrame y

/-- A slot of the switch core (R103): in slot t input i is connected to middle queue (i + t) mod 32, and middle queue m to output
(m + t) mod 32.  Outputs are served before inputs, and each in the order of their index (DESIGN CHOICE: the rules do not say in which
order the connections of one slot act, assumption log entry 85). -/
def coreSlot (y : Byre) : Byre :=
  let t := y.slotNo % 32
  let y := (List.range 28).foldl (fun y o => y.cellOut ((o + 32 - t) % 32) o) y
  let y := (List.range 28).foldl (fun y i => y.cellIn i ((i + t) % 32)) y
  { y with slotNo := y.slotNo + 1 }.doneFrames

/-- Slots until nothing is left to do or `stop` holds, at most `fuel`. -/
def coreRun (stop : Byre → Bool) : Nat → Byre → Byre
  | 0, y => y
  | fuel + 1, y => if stop y then y else coreRun stop fuel y.coreSlot

/-- More slots than the copies now in the core can need while their outputs are open (R107). -/
def coreFuel (y : Byre) : Nat := 192 + 4 * (y.copies.map fun c => c.cells - c.got).sum

/-- The switch core runs to the present: one slot every 4 ns (R103). -/
def coreTo (y : Byre) : Byre :=
  let n := y.tu.clk / 4 - y.slotNo
  let still := fun (y : Byre) => y.copies.all fun c => c.got == c.cells
  let z := coreRun still (min n y.coreFuel) y
  { z with slotNo := max z.slotNo (y.tu.clk / 4) }

end Byre

end Sys2Proof.Machine
end

