-- ==== Sys2Proof/Machine/Receive.lean ====
section
/-!
DEFINITION. Reception at a port (R95, R96, R114, R126).
-/

namespace Sys2Proof.Machine

namespace Byre

/-- The redundancy information of a frame by its port (R114). -/
def rctInfo (y : Byre) (p : Nat) (bs : List Byte) : Option (Nat × Nat) × Bool :=
  match y.pairOf p with
  | none => (none, false)
  | some (n, _) => if y.get (F.SW_PAIR_MODE n) = 2 then ((l2 bs).hsr, true) else (rctOf bs, false)

/-- The first failing check of R95: its counter and its drop reason (R122); `good` says that the FCS is correct and that
no coding error lies inside the frame. -/
def rxCheck (y : Byre) (p : Nat) (bs : List Byte) (good : Bool) : Option (Nat × Nat) :=
  if bs.length + 4 < 64 then some (R.SW_PORT_CNT_RX_RUNT p, 2)
  else if y.get (F.SW_PORT_CTRL_MAX_FRAME p) < bs.length + 4 then some (R.SW_PORT_CNT_RX_OVERSIZE p, 3)
  else if !good then some (R.SW_PORT_CNT_RX_FCS p, 1)
  else if (l2 bs).et = 0x8808 then some (R.SW_PORT_CNT_RX_PAUSE p, 10)
  else none

/-- What the metadata of a pail keeps of its frame's redundancy information (R114). -/
def setTag (y : Byre) (off : Nat) (t : Option (Nat × Nat)) : Byre := { y with pailTag := SMap.set (fun _ => none) y.pailTag off t }

/-- A frame is stored in a pail (R95, R114, R126): its counts, its stamp, and the number and LAN that its pail keeps. -/
def storeFrame (y : Byre) (p off : Nat) (bs : List Byte) : Byre :=
  let n := bs.length + 4
  let (rct, _) := y.rctInfo p bs
  let wrong := rct.elim false fun (_, lan) => lan != (if y.lanB p then 0xB else 0xA)
  let y := if wrong then y.inc (R.SW_PORT_CNT_RCT_ERR p) else y
  let y := (y.inc (R.SW_PORT_CNT_RX_FRAMES p)).addOct (R.SW_PORT_CNT_RX_OCT_LO p) (R.SW_PORT_CNT_RX_OCT_HI p) n
  (y.pailWrite off bs).setTag off rct

/-- A stored frame joins the port's input queue, or is dropped (R96). -/
def joinQueue (y : Byre) (p off st : Nat) (bs : List Byte) : Byre :=
  if y.inDepth p ≤ y.inLen p then
    ((y.inc (R.SW_PORT_CNT_RX_INQ p)).tallyDrop bs st p (bs.length + 4) 0 0 5 none).pailReturn off
  else
    let (rct, hsr) := y.rctInfo p bs
    { y with inq := y.inq ++ [{ y.newFrame off bs.length p st with rct := rct, hsr := hsr }] }

/-- A frame's last byte arrives (R95, R96): `bs` is the frame without its FCS. -/
def frameRx (y : Byre) (p : Nat) (bs : List Byte) (good : Bool) : Byre :=
  if !y.portUp p then y
  else
    let n := bs.length + 4
    let y := y.coreTo
    let ago := n * y.byteTime p / 10
    let (st, y) := y.stampAt (y.now - ago) (-(y.boardDelay (R.TIME_ING_DLY p) (y.tu.clk - ago)))
    let (bad, y) := y.queueBad 2 p
    match if bad then some (R.SW_PORT_CNT_RX_FCS p, 1) else y.rxCheck p bs good with
    | some (cnt, why) => (y.inc cnt).tallyDrop bs st p n 0 0 why none
    | none =>
      match y.alloc p bs.length with
      | (none, y) => (y.inc (R.SW_PORT_CNT_RX_NOPAIL p)).tallyDrop bs st p n 0 0 4 none
      | (some off, y) => (y.storeFrame p off bs).joinQueue p off st bs

end Byre

/-- FRAME_RECEIVE (R95, R96): the last byte of a frame arrives `dt` ns after the byre's last step. -/
def execFrameReceive (b : Fin 6) (p : Fin 22) (dt : Nat) (bytes : List Byte) (good : Bool) (s : State) :
    Host.Outcome State Fault Refusal :=
  .next (s.onPort b p fun y => (y.advance dt).frameRx p bytes good)

end Sys2Proof.Machine
end

