-- ==== Sys2Proof/Machine/Emu.lean ====
section
/-!
DEFINITION. The exact-match unit (R137 to R149): lookup, insertion and deletion, sweeping, learning and notes.
-/

namespace Sys2Proof.Machine

/-- Parity space of exact-match entries. -/
abbrev spEmu : Nat := 10

namespace EmuEnt

/-- The empty entry. -/
def zero : EmuEnt := ⟨0, 0, 0, 0, 0, 0, 0, 0⟩

/-- Key type. -/
def kt (e : EmuEnt) : Nat := bits e.w0 3 0

/-- INDEX. -/
def index (e : EmuEnt) : Nat := bits e.w5 27 16

/-- The output port of a forwarding entry. -/
def port (e : EmuEnt) : Nat := bits e.w5 20 16

def lastSeen (e : EmuEnt) : Nat := bits e.w3 15 0
def static (e : EmuEnt) : Bool := bit e.w3 16
def learned (e : EmuEnt) : Bool := bit e.w3 17
def actEn (e : EmuEnt) : Bool := bit e.w3 18
def retire (e : EmuEnt) : Bool := bit e.w3 19
def keySlot (e : EmuEnt) : Nat := bits e.w6 7 0
def alg (e : EmuEnt) : Nat := bits e.w6 9 8
def rotaOp (e : EmuEnt) : Nat := bits e.w6 31 16

/-- Do two entries have one key? -/
def sameKey (e f : EmuEnt) : Bool := e.w0 == f.w0 && e.w1 == f.w1 && e.w2 == f.w2

/-- A key as an entry with nothing else. -/
def key (w0 w1 w2 : Nat) : EmuEnt := ⟨w0, w1, w2, 0, 0, 0, 0, 0⟩

/-- The forwarding key of an address and VLAN (R144, R147). -/
def fwdKey (a vid : Nat) : EmuEnt := key 3 (a % 2 ^ 32) (a / 2 ^ 32 % 65536 + vid % 4096 * 65536)

/-- Word `n`. -/
def word (e : EmuEnt) (n : Nat) : Nat := ([e.w0, e.w1, e.w2, e.w3, e.w4, e.w5, e.w6, e.w7][n]?).getD 0

/-- Free of reserved values, reserved bits and LEARNED, as an insert asks (R138, R141). -/
def ok (e : EmuEnt) : Bool :=
  let routed := bit e.w0 4
  decide (1 ≤ e.kt) && decide (e.kt ≤ 3) && bits e.w0 15 5 == 0 && (routed || bits e.w2 31 28 == 0) && bits e.w3 31 20 == 0 &&
  !e.learned && bits e.w5 15 14 == 0 && bits e.w5 31 28 == 0 && bits e.w6 15 10 == 0 && e.alg != 3 &&
  (e.kt != 2 || decide (e.index ≤ 2047)) &&
  (e.kt != 3 || (!routed && bits e.w0 31 16 == 0 && bits e.w5 27 21 == 0 && decide (e.port ≤ 21) && e.keySlot == 0 &&
    e.alg == 0 && e.rotaOp == 0))

end EmuEnt

namespace Byre

/-- The entry at a location. -/
def emuAt (y : Byre) (loc : Nat) : EmuEnt := SMap.get (fun _ => EmuEnt.zero) y.emu loc

/-- The counts that follow an entry: OVF_USED, and COUNT of its port for a learned one (R148). -/
def emuCounts (y : Byre) (loc : Nat) (e : EmuEnt) (up : Bool) : Byre :=
  let mv := fun (y : Byre) (f : Fld) => if up then y.set f (y.get f + 1) else y.set f (y.get f - 1)
  let y := if 65536 ≤ loc ∧ e.kt ≠ 0 then mv y F.EMU_OVF_USED_USED else y
  if e.learned ∧ e.port < 22 then mv y (F.EMU_LRN_COUNT_COUNT e.port) else y

/-- Write a location; its parity is renewed and the counts of entries follow. -/
def emuPut (y : Byre) (loc : Nat) (e : EmuEnt) : Byre :=
  let y := (y.emuCounts loc (y.emuAt loc) false).emuCounts loc e true
  { y with emu := SMap.set (fun _ => EmuEnt.zero) y.emu loc e }.parClear spEmu loc

/-- The bucket of a key (R137). -/
def emuBucket (y : Byre) (k : EmuEnt) : Nat :=
  (crc32c (leBytes 4 k.w0 ++ leBytes 4 k.w1 ++ leBytes 4 k.w2) ^^^ y.get F.EMU_SEED_SEED) % 16384

/-- The occupied locations of the overflow store. -/
def emuOvf (y : Byre) : List Nat := (y.emu.filter fun q => decide (65536 ≤ q.1)).map (·.1)

/-- The four ways of a bucket. -/
def emuWays (b : Nat) : List Nat := (List.range 4).map (b * 4 + ·)

/-- Read the parity of locations: those that fail. -/
def emuParity (y : Byre) : List Nat → List Nat × Byre
  | [] => ([], y)
  | l :: ls =>
    let (bad, y) := y.parCheck spEmu l
    let (r, y) := y.emuParity ls
    (if bad then l :: r else r, y)

/-- The tick identity against an entry's activation (R139): is the current tick at or after it? -/
def emuReached (y : Byre) (e : EmuEnt) : Bool :=
  let s := y.nearSec e.w4
  let k := bits e.w5 13 0
  y.tu.rate != 0 && y.tu.issued && (decide (s < y.tu.cur.s) || (s == y.tu.cur.s && decide (k ≤ y.tu.cur.k)))

/-- Is an entry active (R139)? -/
def emuActive (y : Byre) (e : EmuEnt) : Bool := !e.actEn || y.emuReached e

/-- The order of activations: ACT_EN 0 is earliest. -/
def emuOrder (y : Byre) (e : EmuEnt) : Nat := if e.actEn then 1 + y.nearSec e.w4 * 16384 + bits e.w5 13 0 else 0

/-- The locations of a key's entries. -/
def emuCands (y : Byre) (k : EmuEnt) : List Nat :=
  (emuWays (y.emuBucket k) ++ y.emuOvf).filter fun l => (y.emuAt l).kt != 0 && (y.emuAt l).sameKey k

/-- Of some locations the active one with the latest activation. -/
def emuLatest (y : Byre) (ls : List Nat) : Option Nat :=
  (ls.filter fun l => y.emuActive (y.emuAt l)).foldl (fun (b : Option Nat) l =>
    match b with
    | none => some l
    | some c => if y.emuOrder (y.emuAt c) < y.emuOrder (y.emuAt l) then some l else some c) none

/-- now16 (R145): 1/64 s. -/
def now16 (y : Byre) : Nat := y.now * 64 / 1000000000 % 65536

/-- A frame lookup (R139, R474): the location hit. -/
def emuLookup (y : Byre) (k : EmuEnt) : Option Nat × Byre :=
  let y := y.inc R.EMU_CNT_LOOKUP
  let (bad, y) := y.emuParity (emuWays (y.emuBucket k) ++ y.emuOvf)
  let y := bad.foldl (fun y l => y.detect 4 l 0) y
  match y.emuLatest ((y.emuCands k).filter fun l => !bad.contains l) with
  | none => (none, y.inc R.EMU_CNT_MISS)
  | some l => if (y.emuAt l).retire then (none, y.inc R.EMU_CNT_MISS) else (some l, y)

/-- Count a hit in HITS (R139): all that a forwarding hit does (R144). -/
def emuCount (y : Byre) (l : Nat) : Byre :=
  let e := y.emuAt l
  { y with emu := SMap.set (fun _ => EmuEnt.zero) y.emu l { e with w7 := (e.w7 + 1) % 2 ^ 32 } }

/-- A hit's effect on the entry (R139): LAST_SEEN and HITS. -/
def emuHit (y : Byre) (l : Nat) : Byre :=
  let y := y.emuCount l
  let e := y.emuAt l
  { y with emu := SMap.set (fun _ => EmuEnt.zero) y.emu l { e with w3 := insBits e.w3 15 0 y.now16 } }

/-- Where a new entry of a key goes (R142). -/
def emuFree (y : Byre) (k : EmuEnt) : Option Nat :=
  match (emuWays (y.emuBucket k)).find? fun l => (y.emuAt l).kt == 0 with
  | some l => some l
  | none =>
    if 1024 ≤ y.emuOvf.length then none
    else (List.range 1024).map (65536 + ·) |>.find? fun l => (y.emuAt l).kt == 0

/-! ### Management commands (R141, R474) -/

/-- The entry in BYx_EMU_ENTn. -/
def emuEnt (y : Byre) : EmuEnt :=
  let w := fun n => y.rdN (R.EMU_ENT n)
  ⟨w 0, w 1, w 2, w 3, w 4, w 5, w 6, w 7⟩

/-- Show an entry in BYx_EMU_ENTn. -/
def emuShow (y : Byre) (e : EmuEnt) : Byre := (List.range 8).foldl (fun y n => y.wrN (R.EMU_ENT n) (e.word n)) y

/-- Answer a command. -/
def emuDone (y : Byre) (r loc : Nat) : Byre := (y.set F.EMU_CMD_STATUS_RESULT r).set F.EMU_CMD_STATUS_LOC loc

/-- Is an entry out of reach of inserts and deletes because MK1 is 1 (R141)? -/
def emuOwn (y : Byre) (e : EmuEnt) : Bool := e.kt == 3 && e.learned && y.flag F.EMU_CTRL_MK1

/-- Meet the parity of every entry that a command examines: a detection changes nothing and answers 0x3. -/
def emuChecked (y : Byre) (ls : List Nat) (f : Byre → Byre) : Byre :=
  let (bad, y) := y.emuParity ls
  match bad with
  | [] => f y
  | l :: _ => (bad.foldl (fun y l => y.detect 4 l 0) y).emuDone 3 l

/-- Is an activation in the future (R141)? -/
def emuFuture (y : Byre) (e : EmuEnt) : Bool := e.actEn && !y.emuReached e && y.tu.rate != 0

/-- Place an entry at a free location. -/
def emuPlace (y : Byre) (e : EmuEnt) : Byre :=
  match y.emuFree e with
  | none => (y.inc R.EMU_CNT_INSERT_FULL).emuDone 2 0
  | some l => (y.emuPut l e).emuDone 0 l

/-- Insert (R141, R142).  An entry that replaces others goes where R142 puts an insert once they are gone: the lowest free way
(DEDUCED, assumption log entry 43).  Of two active entries of the key, the one activated earlier gives way. -/
def emuInsert (y : Byre) : Byre :=
  let e := y.emuEnt
  if !e.ok then (y.rsvWrite 4 R.EMU_CMD).emuDone 5 0
  else
    y.emuChecked (emuWays (y.emuBucket e) ++ y.emuOvf) fun y =>
      let cs := (y.emuCands e).filter fun l => !y.emuOwn (y.emuAt l)
      if y.live then
        if !y.emuFuture e then y.emuDone 4 0
        else
          match cs.find? fun l => !y.emuActive (y.emuAt l) with
          | some l => (y.emuPut l EmuEnt.zero).emuPlace e
          | none =>
            match cs with
            | a :: b :: _ =>
              (y.emuPut (if y.emuOrder (y.emuAt a) ≤ y.emuOrder (y.emuAt b) then a else b) EmuEnt.zero).emuPlace e
            | _ => y.emuPlace e
      else (cs.foldl (fun y l => y.emuPut l EmuEnt.zero) y).emuPlace e

/-- Delete by key. -/
def emuDelete (y : Byre) : Byre :=
  let e := y.emuEnt
  y.emuChecked (emuWays (y.emuBucket e) ++ y.emuOvf) fun y =>
    let cs := (y.emuCands e).filter fun l => !y.emuOwn (y.emuAt l)
    if y.live then
      match cs.find? fun l => y.emuFuture (y.emuAt l) with
      | some l => (y.emuPut l EmuEnt.zero).emuDone 0 l
      | none => y.emuDone 4 0
    else
      match cs with
      | [] => y.emuDone 1 0
      | l :: _ => (cs.foldl (fun y l => y.emuPut l EmuEnt.zero) y).emuDone 0 l

/-- Read by key: the entry a lookup would hit, else any of the key's (R139, R141). -/
def emuReadKey (y : Byre) : Byre :=
  let e := y.emuEnt
  y.emuChecked (emuWays (y.emuBucket e) ++ y.emuOvf) fun y =>
    let cs := y.emuCands e
    match (y.emuLatest cs).orElse fun _ => cs.head? with
    | none => y.emuDone 1 0
    | some l => (y.emuShow (y.emuAt l)).emuDone 0 l

/-- Read by location. -/
def emuReadLoc (y : Byre) : Byre :=
  let l := y.get F.EMU_CMD_LOC
  y.emuChecked [l] fun y => (y.emuShow (y.emuAt l)).emuDone 0 l

/-- Delete all of one key type. -/
def emuDeleteAll (y : Byre) : Byre :=
  let kt := y.emuEnt.kt
  if y.live then y.emuDone 4 0
  else
    y.emuChecked (y.emu.map (·.1)) fun y =>
      let ls := (y.emu.map (·.1)).filter fun l => (y.emuAt l).kt == kt && !y.emuOwn (y.emuAt l)
      (ls.foldl (fun y l => y.emuPut l EmuEnt.zero) y).emuDone 0 (ls.head?.getD 0)

/-- The operation that BYx_EMU_CMD names. -/
def emuGo (y : Byre) : Byre :=
  match y.get F.EMU_CMD_OP with
  | 0 => y.emuInsert
  | 1 => y.emuDelete
  | 2 => y.emuReadKey
  | 3 => y.emuReadLoc
  | _ => y.emuDeleteAll

/-! ### Notes (R149) -/

/-- The oldest note as NOTE0 to NOTE2 show it. -/
def noteShow (y : Byre) : Byre :=
  match y.notes with
  | [] => ((y.wrN (R.EMU_NOTE0) 0).wrN (R.EMU_NOTE1) 0).wrN R.EMU_NOTE2 0
  | (a, vid, p, ev) :: _ =>
    ((y.wrN R.EMU_NOTE0 (a % 2 ^ 32)).wrN R.EMU_NOTE1 (a / 2 ^ 32 % 65536 + vid * 65536)).wrN R.EMU_NOTE2
      (2147483648 + ev * 32 + p)

/-- Post a note: 0 learned, 1 moved, 2 aged out. -/
def note (y : Byre) (a vid p ev : Nat) : Byre :=
  if y.flag F.EMU_CTRL_MK1 then y
  else
    let (q, lost) := pushQ 256 y.notes (a, vid, p, ev)
    let y := { y with notes := q }.noteShow
    if lost then y.inc R.EMU_CNT_NOTE_DROP else y

/-- Remove the oldest note. -/
def noteRemove (y : Byre) : Byre := { y with notes := y.notes.drop 1 }.noteShow

/-! ### Sweeping (R145) -/

/-- Is the active entry at `l` superseded by another active entry of its key? -/
def emuSuperseded (y : Byre) (l : Nat) : Bool :=
  let e := y.emuAt l
  y.emuActive e && (y.emuCands e).any fun l' => l' != l && y.emuActive (y.emuAt l') &&
    decide (y.emuOrder e < y.emuOrder (y.emuAt l'))

/-- Does a sweep delete the entry at `l` as the first two cases of R145 say? -/
def emuGone (y : Byre) (l : Nat) : Bool :=
  let e := y.emuAt l
  y.emuSuperseded l || (e.retire && y.emuActive e)

/-- Is the entry aged? -/
def emuAged (y : Byre) (l : Nat) : Bool :=
  let e := y.emuAt l
  !e.static && decide (y.get F.EMU_CTRL_AGE_LIMIT < (y.now16 + 65536 - e.lastSeen) % 65536)

/-- Sweep one location. -/
def emuSweepAt (gone : List Nat) (y : Byre) (l : Nat) : Byre :=
  let e := y.emuAt l
  if e.kt = 0 then y
  else
    let (bad, y') := y.parCheck spEmu l
    if bad then (y'.detect 4 l 0).emuPut l EmuEnt.zero
    else if gone.contains l then (y'.emuPut l EmuEnt.zero).inc R.EMU_CNT_SUPERSEDED
    else if y'.emuAged l then
      let y := (y'.emuPut l EmuEnt.zero).inc R.EMU_CNT_AGED
      if e.learned then y.note (e.w1 + bits e.w2 15 0 * 2 ^ 32) (bits e.w2 27 16) e.port 2 else y
    else y'

/-- Sweep `n` buckets from `first` (R145), with the overflow entries whose keys hash there. -/
def emuSweep (y : Byre) (first n : Nat) : Byre :=
  let inR := fun b => decide ((b + 16384 - first % 16384) % 16384 < n)
  let ls := (y.emu.map (·.1)).filter fun l => inR (if l < 65536 then l / 4 else y.emuBucket (y.emuAt l))
  ls.foldl (emuSweepAt (ls.filter y.emuGone)) y

/-! ### Learning (R147, R148) -/

/-- Tokens spent of a port's bucket, in 1/10⁹, now. -/
def lrnSpent (y : Byre) (p : Nat) : Nat :=
  let (d, t) := SMap.get (fun _ => (0, 0)) y.lrn p
  d - y.get (F.EMU_LRN_CFG_RATE p) * (y.tu.clk - t)

/-- Take a token, if there is one. -/
def lrnToken (y : Byre) (p : Nat) : Option Byre :=
  let d := y.lrnSpent p
  if y.get (F.EMU_LRN_CFG_RATE p) * 1000000000 < d + 1000000000 then none
  else some { y with lrn := SMap.set (fun _ => (0, 0)) y.lrn p (d + 1000000000, y.tu.clk) }

/-- A learned entry (R138, R147). -/
def lrnEntry (y : Byre) (a vid p : Nat) : EmuEnt :=
  let k := EmuEnt.fwdKey a vid
  { k with w3 := y.now16 + 2 ^ 17, w5 := p * 65536 }

/-- Source learning of an address on port `p` (R147, R148): false where the frame must be dropped or flooded. -/
def learn (y : Byre) (p a vid : Nat) : Bool × Byre :=
  let k := EmuEnt.fwdKey a vid
  match y.emuLookup k with
  | (some l, y) =>
    let e := y.emuAt l
    if e.port = p then (true, y.emuHit l)
    else if e.learned && !e.static then
      match y.lrnToken p with
      | none => (false, y.inc (R.EMU_CNT_LEARN_RATE))
      | some y =>
        let y := y.emuHit l
        (true, ((y.emuPut l { y.emuAt l with w5 := insBits e.w5 27 16 p }).inc R.EMU_CNT_LEARN_MOVE).note a vid p 1)
    else (true, y.inc R.EMU_CNT_LEARN_CONFLICT)
  | (none, y) =>
    if y.get (F.EMU_LRN_CFG_LIMIT p) ≤ y.get (F.EMU_LRN_COUNT_COUNT p) then (false, y.inc R.EMU_CNT_LEARN_LIMIT)
    else
      match y.lrnToken p with
      | none => (false, y.inc R.EMU_CNT_LEARN_RATE)
      | some y' =>
        match y.emuFree k with
        | none => (false, y.inc R.EMU_CNT_LEARN_FULL)
        | some l => (true, ((y'.emuPut l (y'.lrnEntry a vid p)).inc R.EMU_CNT_LEARN).note a vid p 0)

end Byre

namespace State

/-- A write of BYx_EMU_CMD (R17, R141): an insert or delete that answers 0x4 is a write that R19 does not allow. -/
def emuCmd (s : State) (b : Fin 6) (m : Master) (v : Nat) : State :=
  s.goWrite b m R.EMU_CMD v (fun y => y.emuGo.get F.EMU_CMD_STATUS_RESULT == 4) (fun y => y.emuDone 4 0) Byre.emuGo

end State

/-- The word of BYx_EMU_CMD with GO. -/
def emuCmdWord (op loc : Nat) : Nat := 2147483648 + op * 2 ^ 28 + loc

/-- EMU_INSERT (R141). -/
def execEmuInsert (b : Fin 6) (m : Master) (s : State) : Host.Outcome State Fault Refusal := .next (s.emuCmd b m (emuCmdWord 0 0))

/-- EMU_DELETE_BY_KEY (R141). -/
def execEmuDeleteByKey (b : Fin 6) (m : Master) (s : State) : Host.Outcome State Fault Refusal := .next (s.emuCmd b m (emuCmdWord 1 0))

/-- EMU_READ_BY_KEY (R141). -/
def execEmuReadByKey (b : Fin 6) (m : Master) (s : State) : Host.Outcome State Fault Refusal := .next (s.emuCmd b m (emuCmdWord 2 0))

/-- EMU_READ_BY_LOCATION (R141). -/
def execEmuReadByLocation (b : Fin 6) (m : Master) (loc : BitVec 17) (s : State) : Host.Outcome State Fault Refusal :=
  .next (s.emuCmd b m (emuCmdWord 3 loc.toNat))

/-- EMU_DELETE_ALL_KT (R141). -/
def execEmuDeleteAllKt (b : Fin 6) (m : Master) (s : State) : Host.Outcome State Fault Refusal := .next (s.emuCmd b m (emuCmdWord 4 0))

/-- NOTE_REMOVE (R149): a write of 1 to VALID of BYx_EMU_NOTE2. -/
def execNoteRemove (b : Fin 6) (m : Master) (s : State) : Host.Outcome State Fault Refusal :=
  .next (s.mgmtWrite b m R.EMU_NOTE2 Byre.noteRemove)

end Sys2Proof.Machine
end

