-- ==== Sys2Proof/Machine/Skim.lean ====
section
/-!
DEFINITION. The skimmer and the path of a frame (R127 to R136, R143, R144), the duplicate filter and rings (R115 to R118),
in-line authentication (R268, R270), the subscription monitor's verdict (R339, R340), and the switch core (R102 to R109).
-/

namespace Sys2Proof.Machine

/-- Parity spaces of skimmer and fragment table entries, and of subscription states. -/
abbrev spSkim : Nat := 8
abbrev spFrag : Nat := 9
abbrev spSub : Nat := 17

/-- An entry with nothing in it. -/
def SkimEnt.zero : SkimEnt := ⟨0, 0, 0, 0, 0⟩

/-- Action fields (R131). -/
def actQueue (f : Frame) : Nat := bits f.act0 10 8
def actMirror (f : Frame) : Bool := bit f.act0 11
def actAuth (f : Frame) : Nat := bits f.act0 13 12
def actFwd (f : Frame) : Nat := bits f.act0 15 14
def actLookup (f : Frame) : Nat := bits f.act0 17 16
def actTemplate (f : Frame) : Nat := bits f.act0 23 18
def actLearn (f : Frame) : Bool := bit f.act0 24
def actDest (f : Frame) : Nat := bits f.act1 27 0

/-- Is a default action word free of reserved bits and encodings (R134)? -/
def actWordOk (n w : Nat) : Bool :=
  match n with
  | 0 => bits w 31 25 == 0 && bits w 13 12 != 3 && bits w 15 14 != 2 && bits w 17 16 != 3
  | 1 => bits w 31 28 == 0
  | _ => bits w 30 16 == 0

namespace Byre

/-! ### Skimmer banks (R133, R134) -/

/-- The entry `i` of a bank. -/
def skimAt (y : Byre) (bank i : Nat) : SkimEnt := SMap.get (fun _ => SkimEnt.zero) y.skim (bank * 4096 + i)

/-- Store an entry. -/
def skimPut (y : Byre) (bank i : Nat) (e : SkimEnt) : Byre :=
  ({ y with skim := SMap.set (fun _ => SkimEnt.zero) y.skim (bank * 4096 + i) e }.parClear spSkim (bank * 0x2000 + i)).tableWritten bank

/-- The value and mask registers of BYx_SKIM_ENT. -/
def skimWide (y : Byre) (off : Nat → Nat) : Nat := (List.range 10).foldl (fun v n => v + y.rdN (off n) * 2 ^ (32 * n)) 0

/-- Show an entry. -/
def skimShow (y : Byre) (e : SkimEnt) : Byre :=
  let y := (List.range 10).foldl (fun y n =>
    (y.wrN (R.SKIM_ENT_KEY n) (e.value / 2 ^ (32 * n) % 2 ^ 32)).wrN (R.SKIM_ENT_MASK n) (e.mask / 2 ^ (32 * n) % 2 ^ 32)) y
  ((y.wrN (R.SKIM_ENT_ACT 0) e.act0).wrN (R.SKIM_ENT_ACT 1) e.act1).wrN (R.SKIM_ENT_ACT 2) e.act2

/-- May an entry be written (R134)? -/
def skimOk (e : SkimEnt) : Bool :=
  e.value &&& e.mask == e.value && decide (e.mask < 2 ^ 277) && actWordOk 0 e.act0 && actWordOk 1 e.act1 && actWordOk 2 e.act2

/-- Write the entry that the registers hold (R134). -/
def skimWrite (y : Byre) (bank i : Nat) : Byre :=
  let e : SkimEnt := ⟨y.skimWide R.SKIM_ENT_KEY, y.skimWide R.SKIM_ENT_MASK, y.rdN (R.SKIM_ENT_ACT 0), y.rdN (R.SKIM_ENT_ACT 1),
    y.rdN (R.SKIM_ENT_ACT 2)⟩
  if skimOk e then y.skimPut bank i e else y.rsvWrite 3 R.SKIM_ENT_CMD

/-- The operation that BYx_SKIM_ENT_CMD names. -/
def skimGo (y : Byre) : Byre :=
  let bank := y.get F.SKIM_ENT_CMD_BANK
  let i := y.get F.SKIM_ENT_CMD_INDEX
  match y.get F.SKIM_ENT_CMD_OP with
  | 0 => y.skimShow (y.skimAt bank i)
  | 1 => y.skimWrite bank i
  | _ => y.skimPut bank i SkimEnt.zero

/-- A detection among the live bank's entries and default action (R474): the index, the default action as 4,096. -/
def skimParity (y : Byre) : Option Nat × Byre :=
  let inB := fun (q : Nat × Nat) => q.1 == spSkim && q.2 / 0x2000 == y.bank
  match y.badPar.find? inB with
  | some q => (some (q.2 % 0x2000), y)
  | none =>
    match y.softPar.find? inB with
    | some q => (some (q.2 % 0x2000), { y with softPar := y.softPar.filter (· != q) })
    | none => (none, y)

/-- The action of a key in the live bank, and whether it is the default action (R130). -/
def skimAction (y : Byre) (key : Nat) : (Nat × Nat × Nat) × Bool :=
  match y.skim.find? fun q => q.1 / 4096 == y.bank && bit q.2.act2 31 && (key ^^^ q.2.value) &&& q.2.mask == 0 with
  | some q => ((q.2.act0, q.2.act1, q.2.act2), false)
  | none => ((y.rdN (R.SKIM_DEF y.bank 0), y.rdN (R.SKIM_DEF y.bank 1), y.rdN (R.SKIM_DEF y.bank 2)), true)

/-! ### Copies (R108, R114, R117, R118) -/

/-- A copy of a frame for output `o`. -/
def mkCopy (y : Byre) (f : Frame) (id o mode pair num : Nat) : Copy :=
  { id := id, fr := f, out := o, mode := mode, pair := pair, num := num, req := SMap.get (fun _ => 0) y.charge f.pail - 1,
    cells := max 1 ((f.len + 63) / 64), sent := 0, got := 0, lost := 0, data := [], bad := [] }

/-- Clear the bits of an output mask that another mask has. -/
def lessMask (m k : Nat) : Nat := (List.range 28).foldl (fun v o => if bit m o && !bit k o then setBit v o else v) 0

/-- Both ports of a pair as an output mask. -/
def pairMask (y : Byre) (n : Nat) : Nat := setBit (2 ^ y.get (F.SW_PAIR_PORT_A n)) (y.get (F.SW_PAIR_PORT_B n))

/-- Is the pair on, and does an output mask name a port of it? -/
def pairNamed (y : Byre) (mask n : Nat) : Bool :=
  y.get (F.SW_PAIR_MODE n) != 0 && (bit mask (y.get (F.SW_PAIR_PORT_A n)) || bit mask (y.get (F.SW_PAIR_PORT_B n)))

/-- Is the output the INTERLINK of a RedBox? -/
def isInterlink (y : Byre) (o : Nat) : Bool :=
  (List.range 11).any fun n => y.get (F.SW_PAIR_MODE n) != 0 && y.get (F.SW_PAIR_ROLE n) == 1 && y.get (F.SW_PAIR_INTERLINK n) == o

/-- A frame goes to pair `n` as two copies of one number (R117). -/
def pairCopies (f : Frame) (acc : List Copy × Byre) (n : Nat) : List Copy × Byre :=
  let y := acc.2
  let num := SMap.get (fun _ => 0) y.pairSeq n
  (acc.1 ++ [y.mkCopy f y.copyNo (y.get (F.SW_PAIR_PORT_A n)) 2 n num, y.mkCopy f (y.copyNo + 1) (y.get (F.SW_PAIR_PORT_B n)) 2 n num],
    { y with pairSeq := SMap.set (fun _ => 0) y.pairSeq n ((num + 1) % 65536), copyNo := y.copyNo + 2 })

/-- A frame goes to the outputs of a mask in one mode each. -/
def plainCopies (f : Frame) (mode : Nat → Nat) (mask : Nat) (acc : List Copy × Byre) : List Copy × Byre :=
  ((List.range 28).filter fun o => bit mask o).foldl (fun acc o =>
    (acc.1 ++ [acc.2.mkCopy f acc.2.copyNo o (mode o) 0 0], { acc.2 with copyNo := acc.2.copyNo + 1 })) acc

/-- The copies of a frame (R108, R114, R117, R118): ring forwarding with the tag kept, INTERLINK without trailer or tag, pairs with a
number, and the other outputs, of which engine ingress, the host path and interlinks have trailer and tag removed.  An output or a
pair that R118 has served is not served again by the destinations (DEDUCED from its "once", assumption log entry 85). -/
def mkCopies (y : Byre) (f : Frame) (mask keepMask bareMask : Nat) : List Copy × Byre :=
  let acc := plainCopies f (fun _ => 0) keepMask ([], y)
  let acc := plainCopies f (fun _ => 1) bareMask acc
  let ring := (List.range 11).foldl (fun m n => if y.pairNamed keepMask n then m ||| y.pairMask n else m) (keepMask ||| bareMask)
  let rest := lessMask mask ring
  let ns := (List.range 11).filter (y.pairNamed rest)
  let acc := ns.foldl (pairCopies f) acc
  let rest := lessMask rest (ns.foldl (fun m n => m ||| y.pairMask n) 0)
  plainCopies f (fun o => b2n (o == 24 || o == 27 || y.isInterlink o)) rest acc

/-- Hand a frame over to the core with these outputs (R127 stage 7): without outputs it ends. -/
def sendCopies (y : Byre) (f : Frame) (mask : Nat) : Byre :=
  let (cs, y) := y.mkCopies f mask f.ringKeep f.ringBare
  if cs.isEmpty then y.endFrame f else { y.setFrame { f with stage := 3 } with copies := y.copies ++ cs }

/-! ### Destinations (R144, R148) -/

/-- The outputs that the forwarding lookup names (R139, R144): never an engine or the press, which only DEST reaches (R131). -/
def fwdMask (y : Byre) (f : Frame) (da vid : Nat) : Nat × Byre :=
  let own := if f.input < 24 then y.ownMask f.input else 0
  let flood := fun (y : Byre) => (List.range 28).foldl (fun v o =>
    if bit (y.get F.SKIM_FLOOD_OUTPUTS) o && !bit own o && o != 24 && o != 25 then setBit v o else v) 0
  if f.excess || groupAddr da then (flood y, y)
  else
    match y.emuLookup (EmuEnt.fwdKey da vid) with
    | (none, y) => (flood y, y)
    | (some l, y) =>
      let o := (y.emuAt l).port
      let y := y.emuCount l
      if bit own o then (0, y.inc R.EMU_CNT_FWD_FILTER) else if o = 24 ∨ o = 25 then (0, y) else (2 ^ o, y)

/-- Stage 7 for a frame. -/
def stage7 (y : Byre) (f : Frame) : Byre :=
  if f.dead then y.sendCopies f 0
  else
    let h := l2 (y.vatRead (f.pail + f.off) (min f.len 128))
    let fwd := actFwd f
    let d := if fwd = 1 then 0 else actDest f
    if fwd = 0 ∧ !f.excess then y.sendCopies f d
    else
      let (m, y) := y.fwdMask f h.da h.vid
      y.sendCopies f (m ||| d)

/-- Release the frames of an input in the order in which they entered (R106, R270). -/
def releaseInput (i : Nat) : Nat → Byre → Byre
  | 0, y => y
  | fuel + 1, y =>
    match y.inq.find? fun f => f.input == i && f.stage != 3 with
    | none => y
    | some f => if f.stage = 2 then releaseInput i fuel (y.stage7 f) else y

/-- A frame has passed or left the stages before the last: it waits for its turn. -/
def toStage2 (y : Byre) (f : Frame) : Byre :=
  releaseInput f.input (y.inq.length + 1) (y.setFrame { f with stage := 2 })

/-- Retransmissions that wait enter switch input 24 as far as it has room (R96, R337): the skimmer does not classify them. -/
def retxEnter : Nat → Byre → Byre
  | 0, y => y
  | fuel + 1, y =>
    match y.retxq with
    | [] => y
    | (_, f) :: rest =>
      if 64 ≤ y.inLen 24 then y
      else retxEnter fuel (({ y with retxq := rest, inq := y.inq ++ [f] }.inc R.CAL_CNT_PUB_RETX).toStage2 f)

/-- Input 24 may have room again. -/
def retxGo (y : Byre) : Byre := retxEnter y.retxq.length y

/-! ### The subscription monitor (R339, R340) -/

/-- The entry of a subscription in a bank. -/
def subWord (y : Byre) (bank n w : Nat) : Nat := (SMap.get (fun _ => 0#32) y.subTab (bank * 0x1000 + n * 2 + w)).toNat

/-- The state of a subscription. -/
def subState (y : Byre) (n : Nat) : SubSt := SMap.get (fun _ => ⟨0, 0, 0, 0, 0⟩) y.subSt n

/-- Set the state of a subscription. -/
def setSub (y : Byre) (n : Nat) (s : SubSt) : Byre := { y with subSt := SMap.set (fun _ => ⟨0, 0, 0, 0, 0⟩) y.subSt n s }

/-- A LIVE subscription whose deadline has passed becomes EXPIRED (R340). -/
def subExpire (y : Byre) (n : Nat) : Byre :=
  let s := y.subState n
  if s.st = 1 ∧ s.deadline < y.now then
    let y := (y.setSub n { s with st := 2 }).inc R.CAL_CNT_SUB_EXPIRED
    if bit (y.subWord y.bank n 0) 29 then y.event 0x45 (leBytes 2 n) else y
  else y

/-- The fields of a goosePdu that the monitor reads: timeAllowedtoLive, stNum, sqNum, confRev, ndsCom (tags PRESUMED from
IEC 61850-8-1, assumption log entry 24). -/
def goosePdu (bs : List Byte) : Option (Nat × Nat × Nat × Nat × Bool) :=
  let h := l2 bs
  match berNext ((bs.drop (h.off + 8)).take (fb bs (h.off + 2) 2 - 8)) with
  | some (0x61, c, _) =>
    match ber c with
    | none => none
    | some es =>
      match berGet es 0x81, berGet es 0x85, berGet es 0x86, berGet es 0x88 with
      | some a, some b, some d, some e => some (beNat a, beNat b, beNat d, beNat e, (berGet es 0x89).elim false fun v => beNat v != 0)
      | _, _, _, _ => none
  | _ => none

/-- The monitor's verdict on a GOOSE frame (R339): none drops it. -/
def subVerdict (y : Byre) (f : Frame) : Option Nat × Byre :=
  let n := f.index % 2048
  let w0 := y.subWord y.bank n 0
  let (bad, y) := y.parCheck spSub n
  let y := if bad then (y.detect 11 n 0).setSub n { y.subState n with st := 0 } else y
  let y := y.subExpire n
  if !bit w0 31 then (none, y.inc R.CAL_CNT_SUB_PARSE)
  else
    let s := y.subState n
    let put := fun (y : Byre) (v : Nat) => y.setSub n { y.subState n with verdict := v }
    match goosePdu (y.frameBytes f) with
    | none => (none, (put y 0xA).inc R.CAL_CNT_SUB_PARSE)
    | some (tal, st, sq, rev, nds) =>
      let want := y.subWord y.bank n 1
      if want ≠ 0 ∧ rev ≠ want then (some 8, (put y 8).inc R.CAL_CNT_SUB_CONFREV)
      else if nds then (some 9, put y 9)
      else
        let upd := fun (y : Byre) (v : Nat) => y.setSub n ⟨1, v, st, sq, f.stamp + tal * 1000000⟩
        if s.st ≠ 1 then
          let y := if s.st = 2 ∧ f.stamp ≤ s.deadline then y.inc R.CAL_CNT_SUB_RECOVER else y
          (some 1, upd y 1)
        else if st ≠ s.stNum then (some 2, upd y 2)
        else if sq ≠ s.sqNum then (if bit w0 30 then some 3 else none, upd y 3)
        else (none, (put y 4).inc R.CAL_CNT_SUB_STALE)

/-- What follows authentication: the monitor's verdict for a subscription, then stage 7. -/
def afterAuth (y : Byre) (f : Frame) : Byre :=
  if f.hit = 2 then
    match y.subVerdict f with
    | (none, y) => y.toStage2 { f with dead := true }
    | (some v, y) => y.toStage2 { f with verdict := v }
  else y.toStage2 f

/-! ### Authentication (R268) -/

/-- A failure of authentication: counted, captured, dropped. -/
def authFail (y : Byre) (f : Frame) (reason cnt : Nat) : Byre :=
  let y := if cnt = 0 then y else y.inc cnt
  let y := if y.flag F.ROTA_AUTH_FAIL_CAP_VALID then y
    else
      let y := (y.put F.ROTA_AUTH_FAIL_CAP_VALID true).set F.ROTA_AUTH_FAIL_CAP_REASON reason
      let y := (y.put F.ROTA_AUTH_FAIL_CAP_KT (f.hit == 2)).put F.ROTA_AUTH_FAIL_CAP_LAN_B (y.lanB f.input)
      (y.set F.ROTA_AUTH_FAIL_CAP_PORT f.input).set F.ROTA_AUTH_FAIL_CAP_INDEX f.index
  y.toStage2 { f with dead := true }

/-- Entry to the in-line queue: checks 1 and 2 of R268. -/
def authEnter (y : Byre) (strOpen : Bool) (f : Frame) : Byre :=
  if !strOpen then y.authFail f 7 R.ROTA_CNT_AUTH_UNAVAIL
  else if 64 ≤ (y.inq.filter (·.stage == 1)).length then y.authFail f 6 R.ROTA_CNT_AUTH_QFULL
  else { y.setFrame { f with stage := 1, ord := y.authNo } with authNo := y.authNo + 1 }

/-- The valid key of a slot with an identifier. -/
def authKey (y : Byre) (bank slot id : Nat) : Option Nat :=
  (List.range 2).find? fun k => hdrKey (y.keyHdr bank slot) k && y.keyWord bank slot (1 + k) == id

/-- Checks 3 to 8 of R268.  Words of the slot that cannot be read fail the frame where they are needed (R276). -/
def authCheck (y : Byre) (f : Frame) : Byre :=
  let bank := y.bank
  match y.keyParity bank f.slot [0] with
  | (some _, y) => y.authFail f 8 0
  | (none, y) =>
  let hdr := y.keyHdr bank f.slot
  if !bit hdr 31 then y.authFail f 5 R.ROTA_CNT_AUTH_SLOT
  else if f.alg ≠ bits hdr 30 29 then y.authFail f 3 R.ROTA_CNT_AUTH_ALG
  else
    match Config.authExt (y.frameBytes f) with
    | none => y.authFail f 1 R.ROTA_CNT_AUTH_NOEXT
    | some (mlen, id, iv, covered, mac) =>
      if mlen ≠ tagLen hdr then y.authFail f 1 R.ROTA_CNT_AUTH_NOEXT
      else
        match y.keyParity bank f.slot [1, 2] with
        | (some _, y) => y.authFail f 8 0
        | (none, y) =>
        match y.authKey bank f.slot id with
        | none => y.authFail f 2 R.ROTA_CNT_AUTH_KEYID
        | some k =>
          match y.keyRead bank f.slot k with
          | ((_, some _), y) => y.authFail f 8 0
          | ((key, none), y) =>
            if beNat (macMsg hdr key iv covered) = mac then (y.inc R.ROTA_CNT_AUTH_PASS).afterAuth f
            else y.authFail f 4 R.ROTA_CNT_AUTH_TAG

/-- The head of the in-line queue: the first of its frames in order of entry (R269). -/
def authHead (y : Byre) : Option Frame :=
  (y.inq.filter (·.stage == 1)).foldl (fun (m : Option Frame) f =>
    match m with
    | none => some f
    | some g => if f.ord < g.ord then some f else some g) none

/-- INLINE_AUTH: a strainer takes the head of the in-line queue.  Where no strainer is open any more, check 1 fails for it then
(DEDUCED from the order of the checks, assumption log entry 90). -/
def inlineAuth (y : Byre) (strOpen : Bool) : Byre :=
  match y.authHead with
  | none => y
  | some f => if strOpen then y.authCheck f else y.authFail f 7 R.ROTA_CNT_AUTH_UNAVAIL

/-! ### Duplicates and rings (R115 to R118) -/

/-- The entry of a way of the duplicate filter. -/
def dupAt (y : Byre) (i : Nat) : Option DupEnt := SMap.get (fun _ => none) y.dup i

/-- Is an entry younger than FORGET_MS at the instant `c` of `clk`?  An entry of exactly that age counts as older (DESIGN CHOICE: R116
names neither, assumption log entry 85). -/
def dupYoung (y : Byre) (c : Nat) (e : DupEnt) : Bool := decide (c < e.time + y.get F.SW_DUP_CFG_FORGET_MS * 1000000)

/-- Read the parity of the ways of a bucket: those that can be read. -/
def dupWays (y : Byre) : List Nat → List Nat × Byre
  | [] => ([], y)
  | i :: is =>
    let (bad, y) := y.parCheck spDup i
    let y := if bad then y.detect 2 i 0 else y
    let (r, y) := y.dupWays is
    (if bad then r else i :: r, y)

/-- Look a key up in the duplicate filter for a frame that arrived at `c` (R116), and enter it where it is new and `add` holds. -/
def dupCheck (y : Byre) (pair sa seq c : Nat) (add : Bool) : Bool × Byre :=
  let b := Config.dupBucket pair sa seq % 1024
  let (ways, y) := y.dupWays ((List.range 4).map (b * 4 + ·))
  let young := fun i => (y.dupAt i).elim false (y.dupYoung c)
  if ways.any fun i => young i && (y.dupAt i).elim false fun e => e.pair == pair && e.sa == sa && e.seq == seq then (true, y)
  else if !add then (false, y)
  else
    let put := fun (y : Byre) (i : Nat) =>
      { y with dup := SMap.set (fun _ => none) y.dup i (some ⟨pair, sa, seq, c⟩) }
    match ways.find? fun i => !young i with
    | some i => (false, put y i)
    | none =>
      let old := ways.foldl (fun (m : Option Nat) i =>
        match m with
        | none => some i
        | some j => if ((y.dupAt i).elim 0 (·.time)) < (y.dupAt j).elim 0 (·.time) then some i else m) none
      match old with
      | some i => (false, (put y i).inc R.SW_CNT_DUP_EVICT)
      | none => (false, y)

/-- Does the other port of the pair, with the lower index, hold a copy that arrived in the same cycle and has not reached the filter
yet (R116)?  That copy is then the first. -/
def twinFirst (y : Byre) (n : Nat) (f : Frame) (sa seq : Nat) : Bool :=
  y.inq.any fun g => g.stage == 0 && decide (g.input < f.input) && g.arr == f.arr && (y.pairOf g.input).map (·.1) == some n &&
    g.rct.map (·.1) == some seq && (l2 (y.frameBytes g)).sa == sa

/-- What the ring and the interlink receive of a frame that is new (R118). -/
def ringMasks (y : Byre) (n : Nat) (isB : Bool) (da : Nat) : Nat × Nat :=
  let hsr := y.get (F.SW_PAIR_MODE n) == 2
  let mine := da == Config.pairMac y.num n
  let k0 := if hsr && !mine then 2 ^ y.mate n isB else 0
  let k1 := if hsr && y.get (F.SW_PAIR_ROLE n) == 2 then
      let q := y.get (F.SW_PAIR_PEER n)
      setBit (setBit k0 (y.get (F.SW_PAIR_PORT_A q))) (y.get (F.SW_PAIR_PORT_B q))
    else k0
  (k1, if y.get (F.SW_PAIR_ROLE n) == 1 then 2 ^ y.get (F.SW_PAIR_INTERLINK n) else 0)

/-- Stage 3: none where the frame ends here. -/
def stage3 (y : Byre) (f : Frame) (h : L2) : Option Frame × Byre :=
  match y.pairOf f.input with
  | none => (some f, y)
  | some (n, isB) =>
    match f.rct with
    | none =>
      let (k, b) := y.ringMasks n isB h.da
      (some { f with ringKeep := if f.hsr then 0 else k, ringBare := b }, y)
    | some (seq, _) =>
      if f.hsr ∧ h.sa = Config.pairMac y.num n then
        (none, y.tallyDrop (y.frameBytes f) f.stamp f.input (f.len + 4) (bits f.act0 7 0) (actQueue f) 9 (some seq))
      else
        let add := actTemplate f == 0
        let (dup, y) := if add && y.twinFirst n f h.sa seq then (true, y) else y.dupCheck n h.sa seq f.arr add
        if dup ∧ add then
          (none, (y.inc (R.SW_PORT_CNT_DUP_DROP f.input)).tallyDrop (y.frameBytes f) f.stamp f.input (f.len + 4) (bits f.act0 7 0)
            (actQueue f) 8 (some seq))
        else if dup then (some f, y)
        else
          let (k, b) := y.ringMasks n isB h.da
          (some { f with ringKeep := k, ringBare := b }, y)

/-! ### Fragments (R135, R136) -/

/-- The entries of the fragment table that can be read; those that cannot are freed (R474). -/
def fragScan (y : Byre) : Byre :=
  (y.frag.map (·.1)).foldl (fun y i =>
    let (bad, y) := y.parCheck spFrag i
    if bad then { y.detect 3 i 0 with frag := SMap.set (fun _ => none) y.frag i none } else y) y

/-- The entry of a key. -/
def fragFind (y : Byre) (key : Nat) : Option (Nat × FragEnt) :=
  y.frag.findSome? fun q => q.2.bind fun e => if e.key = key then some (q.1, e) else none

/-- What a fragment's action applies: TEMPLATE and LOOKUP ignored, DEST bit 25 cleared. -/
def fragAct (f : Frame) (a : Nat × Nat × Nat) : Frame :=
  { f with act0 := insBits a.1 23 16 0, act1 := insBits a.2.1 25 25 0, act2 := a.2.2 }

/-- Set an entry of the fragment table. -/
def fragPut (y : Byre) (i : Nat) (e : Option FragEnt) : Byre := { y with frag := SMap.set (fun _ => none) y.frag i e }

/-- Stage 2: none where the frame is dropped. -/
def stage2 (y : Byre) (f : Frame) (p : Parsed) (a : Nat × Nat × Nat) (dflt : Bool) : Option Frame × Byre :=
  let cntDef := fun (y : Byre) => if dflt then y.inc R.SKIM_CNT_DEFAULT else y
  if p.frag = 0 then (some { f with act0 := a.1, act1 := a.2.1, act2 := a.2.2 }, cntDef y)
  else
    let y := y.fragScan
    let key := p.ipSa + p.ipDa * 2 ^ 32 + p.ident * 2 ^ 64 + p.proto * 2 ^ 80
    if p.frag = 1 then
      let y := cntDef y
      let e : FragEnt := ⟨key, a.1, a.2.1, a.2.2, y.tu.clk⟩
      match y.fragFind key with
      | some (i, _) => (some (fragAct f a), (y.fragPut i (some e)).inc R.SKIM_CNT_FRAG_REPLACE)
      | none =>
        match (List.range 256).find? fun i => (SMap.get (fun _ => none) y.frag i).isNone with
        | some i => (some (fragAct f a), (y.fragPut i (some e)).inc R.SKIM_CNT_FRAG_FIRST)
        | none => (some (fragAct f a), y.inc R.SKIM_CNT_FRAG_FULL)
    else
      match y.fragFind key with
      | some (i, e) =>
        let y := if p.mf then y else y.fragPut i none
        (some (fragAct f (e.act0, e.act1, e.act2)), y.inc R.SKIM_CNT_FRAG_HIT)
      | none =>
        let y := y.inc R.SKIM_CNT_FRAG_MISS
        if y.flag F.SKIM_CTRL_FRAG_MISS_DROP then (none, y)
        else
          let d := fun n => y.rdN (R.SKIM_DEF y.bank n)
          (some (fragAct f (d 0, d 1, d 2)), y.inc R.SKIM_CNT_DEFAULT)

/-- FRAGMENT_TIMEOUT (R136). -/
def fragTimeout (y : Byre) (i : Nat) : Byre :=
  match SMap.get (fun _ => none) y.frag i with
  | none => y
  | some e =>
    let y := y.advanceClk (e.time + y.get F.SKIM_FRAG_CFG_FRAG_TIMEOUT_MS * 1000000)
    (y.fragPut i none).inc R.SKIM_CNT_FRAG_TIMEOUT

/-! ### The path of a frame (R127) -/

/-- Stages 4 to 6 of a frame that its action keeps. -/
def stages456 (y : Byre) (strOpen : Bool) (f : Frame) (h : L2) (p : Parsed) : Byre :=
  let (learned, y) := if actLearn f && decide (f.input < 22) && !groupAddr h.sa && !p.err then y.learn f.input h.sa h.vid
    else (true, y)
  if !learned && !y.flag (F.EMU_LRN_CFG_EXCESS f.input) then y.toStage2 { f with dead := true }
  else
    let f := { f with excess := !learned, rotaOp := f.act2 % 65536 }
    let lk := actLookup f
    if lk = 0 then y.toStage2 { f with act1 := insBits f.act1 25 25 0 }
    else
      let k := if p.kind = 4 then EmuEnt.key (lk + 16 + p.appid * 65536) p.ipSa p.ipDa
        else EmuEnt.key (lk + p.appid * 65536) (h.da % 2 ^ 32) (h.da / 2 ^ 32 % 65536 + h.vid * 65536)
      match y.emuLookup k with
      | (none, y) => (y.inc R.EMU_CNT_STREAM_MISS).toStage2 { f with act1 := insBits f.act1 25 25 0 }
      | (some l, y) =>
        let y := y.emuHit l
        let e := y.emuAt l
        let f := { f with hit := lk, index := e.index, slot := e.keySlot, alg := e.alg,
                          rotaOp := if e.rotaOp = 0xFFFF then f.rotaOp else e.rotaOp,
                          act1 := if lk = 1 ∧ actTemplate f ≠ 0 then f.act1 else insBits f.act1 25 25 0 }
        if actAuth f = 2 ∧ f.slot = 255 then (y.inc R.EMU_CNT_AUTH_NOKEY).toStage2 { f with dead := true }
        else if (actAuth f = 1 ∧ f.slot ≠ 255) ∨ actAuth f = 2 then y.authEnter strOpen f
        else y.afterAuth f

/-- Is a PTP message outside the supported set (R35): over UDP and IPv6, signaling or management, or with the AUTHENTICATION TLV of
Annex P (layouts PRESUMED from IEEE 1588-2019 and RFC 8200, entry 23)? -/
def ptpDrop (bs : List Byte) (p : Parsed) : Bool :=
  let h := l2 bs
  if h.et = 0x86DD then
    let port := fb bs (h.off + 42) 2
    fb bs (h.off + 6) 1 == 17 && decide (h.off + 44 ≤ bs.length) && (port == 319 || port == 320)
  else p.kind == 3 && (match ptpAt bs with
    | some (o, _) => fb bs o 1 % 16 == 12 || fb bs o 1 % 16 == 13 || ptpSecured bs o
    | none => false)

/-- FRAME_CLASSIFY: the oldest frame of an input that waits for the skimmer (R127). -/
def classify (y : Byre) (strOpen : Bool) (i : Nat) : Byre :=
  match y.inq.find? fun f => f.input == i && f.stage == 0 with
  | none => y
  | some f =>
    let y := y.coreTo
    let bs := y.frameBytes f
    let h := l2 (bs.take 128)
    let p := parse bs f.len
    let lanB := decide (i < 24) && y.lanB i
    let y := y.inc R.SKIM_CNT_LOOKUP
    let y := if p.err then y.inc R.SKIM_CNT_PARSE_ERR else y
    match y.skimParity with
    | (some ix, y) => (y.detect 3 ix 0).toStage2 { f with dead := true }
    | (none, y) =>
      if ptpDrop bs p then (y.inc R.TIME_CNT_PTP_DROP).toStage2 { f with dead := true }
      else
        let (a, dflt) := y.skimAction (skimKey bs f.len i (f.rct.isSome || h.hsr.isSome) lanB)
        match y.stage2 f p a dflt with
        | (none, y) => y.toStage2 { f with dead := true }
        | (some f, y) =>
          let gone := actFwd f == 0 && actDest f == 0
          let (keep, y) := if gone && !f.hsr then (some f, y) else y.stage3 f h
          let (take, y) := if actMirror f && decide (i < 24) then y.sample (i * 2) (y.get (F.SW_PORT_TALLY_RX_N i)) else (false, y)
          let y := if take then
              y.tallyPush (tallyBytes bs f.stamp i 0 lanB (f.len + 4) (bits f.act0 7 0) (actQueue f) false 0 (f.rct.map (·.1)))
            else y
          match keep with
          | none => y.toStage2 { f with dead := true, ringKeep := 0, ringBare := 0 }
          | some f =>
            if gone then (y.inc R.SKIM_CNT_ACT_DROP).toStage2 { f with dead := true }
            else y.stages456 strOpen f h p

/-- The rota takes the oldest frame of output 24 (R209, R211). -/
def ingressFrame (y : Byre) : Byre :=
  match y.ingq with
  | [] => y
  | (off, len, op, v, i) :: rest =>
    if y.st = stFAULTED then { y with ingq := rest }.pailReturn off
    else if y.flag F.ROTA_STATUS_ING_HELD then y
    else { y with ingq := rest }.ingressTake off len op v i

end Byre

namespace State

/-- Some strainer of the byre has an open gate and a CL domain that is on (R268). -/
def strOpen (s : State) (b : Fin 6) : Bool :=
  (List.range 4).any fun c => bit ((s.byre b).rdN R.ROTA_CP_GATE_STR) c && s.on b (domCL + c)

end State

/-- INGRESS_FRAME (R211, R212). -/
def execIngressFrame (b : Fin 6) (s : State) : Host.Outcome State Fault Refusal := .next (s.onFab b Byre.ingressFrame)

/-- CREDIT_TOTAL_WRITE (R105). -/
def execCreditTotalWrite (b : Fin 6) (m : Master) (o : Fin 32) (v : BitVec 11) (s : State) : Host.Outcome State Fault Refusal :=
  .next (s.mgmtWrite b m (R.SW_CREDIT o) fun y => y.creditTotal o v.toNat)

/-- FRAME_CLASSIFY (R127). -/
def execFrameClassify (b : Fin 6) (i : Fin 28) (s : State) : Host.Outcome State Fault Refusal :=
  .next (s.onFab b fun y => (y.classify (s.strOpen b) i).retxGo)

/-- FRAGMENT_TIMEOUT (R136). -/
def execFragmentTimeout (b : Fin 6) (i : Fin 256) (s : State) : Host.Outcome State Fault Refusal :=
  .next (s.onFab b fun y => y.fragTimeout i)

/-- INLINE_AUTH (R268). -/
def execInlineAuth (b : Fin 6) (s : State) : Host.Outcome State Fault Refusal := 
  .next (s.onFab b fun y => (y.inlineAuth (s.strOpen b)).retxGo)

/-- A write of BYx_SKIM_ENT_CMD: all but reads of the live bank of a RUNNING or DEGRADED byre are locked (R19, R150). -/
def State.skimCmd (s : State) (b : Fin 6) (m : Master) (v : Nat) : State :=
  s.goWrite b m R.SKIM_ENT_CMD v (fun y => y.get F.SKIM_ENT_CMD_OP != 0 && y.lockedBank F.SKIM_ENT_CMD_BANK) id Byre.skimGo

/-- The word of BYx_SKIM_ENT_CMD with GO. -/
def skimCmdWord (op : Nat) (bank : Bool) (i : Fin 4096) : Nat := 2147483648 + op * 2 ^ 29 + b2n bank * 2 ^ 28 + i

/-- SKIM_ENT_READ (R134). -/
def execSkimEntRead (b : Fin 6) (m : Master) (bank : Bool) (i : Fin 4096) (s : State) : Host.Outcome State Fault Refusal :=
  .next (s.skimCmd b m (skimCmdWord 0 bank i))

/-- SKIM_ENT_WRITE (R134). -/
def execSkimEntWrite (b : Fin 6) (m : Master) (bank : Bool) (i : Fin 4096) (s : State) : Host.Outcome State Fault Refusal :=
  .next (s.skimCmd b m (skimCmdWord 1 bank i))

/-- SKIM_ENT_INVALIDATE (R134). -/
def execSkimEntInvalidate (b : Fin 6) (m : Master) (bank : Bool) (i : Fin 4096) (s : State) :
    Host.Outcome State Fault Refusal :=
  .next (s.skimCmd b m (skimCmdWord 2 bank i))

end Sys2Proof.Machine
end

