-- ==== Sys2Proof/Machine/Press.lean ====
section
/-!
DEFINITION. The snapshot press (chapter 6): its tables, samples from frames and from the press port, and seal passes.
-/

namespace Sys2Proof.Machine

/-- Parity spaces of press streams, groups and templates. -/
abbrev spStream : Nat := 19
abbrev spGroup : Nat := 20
abbrev spTemplate : Nat := 21

/-- A sample as the press judges it (R160, R167): values and qualities as received, and the held copy. -/
structure Sample where
  i : Nat
  smpCnt : Nat
  synch : Nat
  stamp : Nat
  rct : Option Nat
  port : Nat
  vals : List (Nat × Nat)
  copy : Option (Nat × Nat)
  deriving DecidableEq, Repr

/-- A record as a seal decides it (R171, R173, R179). -/
structure Sealed where
  bytes : List Byte
  state : Nat
  vals : List (Nat × Nat)
  twinUsed : Bool
  notSync : Bool
  fix : Nat
  lost : Bool

/-- Quality bits (R171; the codes of validity are those of IEC 61850-7-3, assumption log entry 25). -/
abbrev qInvalid : Nat := 1
abbrev qQuest : Nat := 3

/-- Rank of a validity: good, questionable, invalid. -/
def validRank (q : Nat) : Nat := if q % 4 = 0 then 0 else if q % 4 = 3 then 1 else 2

/-- The worse validity of two (R171). -/
def worse (a b : Nat) : Nat := if validRank a < validRank b then b % 4 else a % 4

/-- Is the smpSynch value one that is aligned by arrival (R157, R161)? -/
def byArrival (s : Nat) : Bool := s == 0 || s == 3 || s == 4 || s == 255

/-- Elements of a BER value with the offsets of their contents from `base`. -/
def berPos : Nat → Nat → List Byte → Option (List (Nat × Nat × List Byte))
  | _, _, [] => some []
  | 0, _, _ => none
  | fuel + 1, base, bs =>
    match berNext bs with
    | none => none
    | some (t, c, rest) =>
      (berPos fuel (base + (bs.length - rest.length)) rest).map ((t, base + (bs.length - rest.length) - c.length, c) :: ·)

/-- The element with a tag. -/
def posGet (es : List (Nat × Nat × List Byte)) (tag : Nat) : Option (Nat × List Byte) := (es.find? fun e => e.1 == tag).map (·.2)

/-- An ASDU of a savPDU: smpCnt, confRev, smpSynch, and the sample with its offset in the frame (tags PRESUMED from
IEC 61850-9-2, assumption log entry 24). -/
def parseAsdu (base : Nat) (c : List Byte) : Option (Nat × Nat × Nat × Nat × List Byte) :=
  match berPos c.length base c with
  | none => none
  | some es =>
    match posGet es 0x82, posGet es 0x83, posGet es 0x85, posGet es 0x87 with
    | some (_, a), some (_, b), some (_, d), some (o, v) => some (beNat a, beNat b, beNat d, o, v)
    | _, _, _, _ => none

/-- All or none. -/
def allSome {α : Type} : List (Option α) → Option (List α)
  | [] => some []
  | none :: _ => none
  | some a :: r => (allSome r).map (a :: ·)

/-- The ASDUs of a frame (R159 check 2). -/
def parseSav (bs : List Byte) : Option (List (Nat × Nat × Nat × Nat × List Byte)) :=
  let o := (l2 bs).off
  let len := fb bs (o + 2) 2
  if len < 8 ∨ bs.length < o + len then none
  else
    match berPos len (o + 8) ((bs.drop (o + 8)).take (len - 8)) with
    | some ((0x60, o1, c) :: _) =>
      match berPos c.length o1 c with
      | none => none
      | some es =>
        match posGet es 0x80, posGet es 0xA2 with
        | some (_, n), some (o2, seq) =>
          match berPos seq.length o2 seq with
          | none => none
          | some as =>
            let n := beNat n
            if 1 ≤ n ∧ n ≤ 8 ∧ as.length = n ∧ (as.all fun a => a.1 == 0x30) then allSome (as.map fun a => parseAsdu a.2.1 a.2.2)
            else none
        | _, _ => none
    | _ => none

/-- Values and qualities of a sample's bytes, in network order (R164). -/
def pairsBE : Nat → List Byte → List (Nat × Nat)
  | 0, _ => []
  | n + 1, bs => (beNat (bs.take 4), beNat ((bs.drop 4).take 4)) :: pairsBE n (bs.drop 8)

/-- The bytes of values and qualities, little-endian. -/
def pairBytes (vs : List (Nat × Nat)) : List Byte := vs.flatMap fun (v, q) => leBytes 4 v ++ leBytes 4 q

/-- Values and qualities from little-endian bytes. -/
def pairsLE : Nat → List Byte → List (Nat × Nat)
  | 0, _ => []
  | n + 1, bs => (leNat (bs.take 4), leNat ((bs.drop 4).take 4)) :: pairsLE n (bs.drop 8)

/-- The ring index of a tick (R163). -/
def ringSlot (d rate : Nat) (t : Tick) : Nat := (t.k + t.s % (d + 1) * (rate % (d + 1)) % (d + 1)) % (d + 1)

namespace Byre

/-! ### The tables (R153 to R156) -/

/-- A word of a press table. -/
def pWord (y : Byre) (bank k : Nat) : Nat := (SMap.get (fun _ => 0#32) y.ptab (bank * 0x10000 + k)).toNat

/-- Word `w` of stream entry `i`. -/
def pStream (y : Byre) (bank i w : Nat) : Nat := y.pWord bank (i * 8 + w)

/-- Word `w` of group entry `g`. -/
def pGroup (y : Byre) (bank g w : Nat) : Nat := y.pWord bank (0x8000 + g * 8 + w)

/-- A template entry. -/
def pTemplate (y : Byre) (bank t : Nat) : Nat := y.pWord bank (0x8100 + t)

/-- Group fields. -/
def gEn (y : Byre) (bank g : Nat) : Bool := bit (y.pGroup bank g 0) 0
def gDepth (y : Byre) (bank g : Nat) : Nat := bits (y.pGroup bank g 0) 5 1
def gExpEn (y : Byre) (bank g : Nat) : Bool := bit (y.pGroup bank g 0) 6
def gPhForm (y : Byre) (bank g : Nat) : Bool := bit (y.pGroup bank g 0) 7
def gOwner (y : Byre) (bank g : Nat) : Nat := bits (y.pGroup bank g 0) 15 8
def gRing (y : Byre) (bank g : Nat) : Nat := bits (y.pGroup bank g 0) 21 16 * 0x40000
def gArea (y : Byre) (bank g : Nat) : Nat := bits (y.pGroup bank g 0) 29 24 * 0x40000
def gStride (y : Byre) (bank g : Nat) : Nat := bits (y.pGroup bank g 1) 23 0
def gRecLen (y : Byre) (bank g : Nat) : Nat := bits (y.pGroup bank g 2) 23 0
def gPhLen (y : Byre) (bank g : Nat) : Nat := bits (y.pGroup bank g 3) 23 0

/-- The vat offset of the slot of a tick (R163). -/
def slotAddr (y : Byre) (bank rate g : Nat) (t : Tick) : Nat :=
  y.gRing bank g + ringSlot (y.gDepth bank g) rate t * y.gStride bank g

/-- The vat banks of a group's seal area. -/
def areaBanks (y : Byre) (bank g : Nat) : List Nat :=
  let b0 := bits (y.pGroup bank g 0) 29 24
  (List.range ((y.gStride bank g + 0x3FFFF) / 0x40000)).map (b0 + ·)

/-- Does the press hold the group's seal area (R169)?  A group of stride 0 has none. -/
def areaHeld (y : Byre) (bank g : Nat) : Bool := !(y.areaBanks bank g).isEmpty && (y.areaBanks bank g).all fun k => y.bankOpen k 0

/-- The groups of a stream with the offset of its record in their slots (R154). -/
def members (y : Byre) (bank i : Nat) : List (Nat × Nat) :=
  let w := y.pStream bank i 0
  (bits w 3 1, bits (y.pStream bank i 2) 16 0 * 8) ::
    (if bit w 4 then [(bits w 7 5, bits (y.pStream bank i 3) 16 0 * 8)] else [])

/-- Values per sample of a stream. -/
def nVal (y : Byre) (bank i : Nat) : Nat := bits (y.pStream bank i 0) 12 8

/-- Are all the bits of a word outside `mask` 0? -/
def onlyBits (w mask : Nat) : Bool := w ||| mask == mask

/-- May a stream entry be stored (R154, R186)? -/
def streamOk (w : Nat → Nat) : Bool :=
  onlyBits (w 0) 0x00FFDFFF && onlyBits (w 2) 0x1FFFF && onlyBits (w 3) 0x1FFFF && onlyBits (w 5) 0xFFFF && w 6 == 0 && w 7 == 0 &&
  bits (w 0) 15 14 != 3 && (bits (w 0) 15 14 == 0 || bits (w 0) 23 16 != 0) &&
  (!bit (w 0) 0 || (decide (1 ≤ bits (w 0) 12 8) && decide (bits (w 0) 12 8 ≤ 16) && (!bit (w 0) 4 || bits (w 0) 3 1 != bits (w 0) 7 5)))

/-- May a group entry be stored (R155, R186)? -/
def groupOk (w : Nat → Nat) : Bool :=
  onlyBits (w 0) 0x3F3FFFFF && bits (w 1) 31 24 == 0 && bits (w 2) 31 24 == 0 && bits (w 3) 31 24 == 0 && w 4 == 0 && w 5 == 0 && w 6 == 0 &&
  w 7 == 0 && w 1 % 64 == 0 && w 3 % 8 == 0 && decide (1 ≤ bits (w 0) 5 1) && decide (bits (w 0) 5 1 ≤ 16) && ownerCode (bits (w 0) 15 8)

/-- May a template entry be stored (R156, R186)? -/
def templateOk (w : Nat) : Bool :=
  onlyBits w 0x1F03 && (w % 4 == 0 || (decide (1 ≤ bits w 12 8) && decide (bits w 12 8 ≤ 16))) && (w % 4 != 1 || bits w 12 8 == 8)

/-- The key and length of a table entry, where TABLE and INDEX name one. -/
def pEntry (table i : Nat) : Option (Nat × Nat) :=
  match table with
  | 0 => some (i * 8, 8)
  | 1 => if i < 8 then some (0x8000 + i * 8, 8) else none
  | 2 => if 1 ≤ i ∧ i < 64 then some (0x8100 + i, 1) else none
  | _ => none

/-- Read an entry into the data registers. -/
def pRead (y : Byre) (bank table i : Nat) : Byre :=
  match pEntry table i with
  | none => y
  | some (k, n) => ((List.range n).foldl (fun y j => y.wrN (R.PRESS_CFG_DATA j) (y.pWord bank (k + j))) y).set F.PRESS_CFG_STATUS_RESULT 0

/-- Store an entry from the data registers (R153, R186). -/
def pWrite (y : Byre) (bank table i : Nat) : Byre :=
  match pEntry table i with
  | none => y
  | some (k, n) =>
    let w := fun j => y.rdN (R.PRESS_CFG_DATA j)
    if !(if table = 0 then streamOk w else if table = 1 then groupOk w else templateOk (w 0)) then
      y.set F.PRESS_CFG_STATUS_RESULT 5
    else
      let tab := (List.range n).foldl (fun m j => SMap.set (fun _ => 0#32) m (bank * 0x10000 + k + j) (BitVec.ofNat 32 (w j))) y.ptab
      ({ y with ptab := tab }.tableWritten bank).set F.PRESS_CFG_STATUS_RESULT 0

/-- The operation that BYx_PRESS_CFG_CMD names. -/
def pGo (y : Byre) : Byre :=
  let bank := y.get F.PRESS_CFG_CMD_BANK
  let table := y.get F.PRESS_CFG_CMD_TABLE
  let i := y.get F.PRESS_CFG_CMD_INDEX
  if y.flag F.PRESS_CFG_CMD_OP then y.pWrite bank table i else y.pRead bank table i

/-! ### Placing a sample (R160 to R166) -/

/-- The tick identity of a sample (R160, R161). -/
def identity (y : Byre) (p : Sample) : Tick :=
  let rate := y.tu.rate
  let a : Int := (p.stamp : Int) - (bits (y.pStream y.bank p.i 1) 15 0 * 1000 : Nat)
  if byArrival p.synch then
    let a := a.toNat
    ⟨a / 1000000000, ((a % 1000000000 + 1) * rate - 1) / 1000000000⟩
  else ⟨((a - (p.smpCnt * 1000000000 / rate : Nat) + 500000000) / 1000000000).toNat, p.smpCnt⟩

/-- A group of the live configuration. -/
def group (y : Byre) (g : Nat) : Grp := SMap.get (fun _ => ⟨false, 0, 0, 0, 0⟩) y.grp g

/-- Replace a group. -/
def setGroup (y : Byre) (g : Nat) (q : Grp) : Byre := { y with grp := SMap.set (fun _ => ⟨false, 0, 0, 0, 0⟩) y.grp g q }

/-- What the press keeps of a membership. -/
def membAt (y : Byre) (g i : Nat) : Memb := SMap.get (fun _ => ⟨0, false, false, none, none⟩) y.memb (g * 4096 + i)

/-- Replace it. -/
def setMemb (y : Byre) (g i : Nat) (m : Memb) : Byre :=
  { y with memb := SMap.set (fun _ => ⟨0, false, false, none, none⟩) y.memb (g * 4096 + i) m }

/-- Was a tick skipped (R42)? -/
def skipped (y : Byre) (n : Nat) : Bool := y.skips.any fun r => decide (r.1 ≤ n) && decide (n < r.2)

/-- Is a tick late in a group (R162)? -/
def lateIn (y : Byre) (g : Nat) (t : Tick) : Bool :=
  let n := tickNo y.tu.rate t
  !(y.group g).on || decide (n + y.gDepth y.bank g ≤ tickNo y.tu.rate y.tu.cur) || y.skipped n || decide (n < (y.group g).first)

/-- The record of a group, tick and stream. -/
def recAt (y : Byre) (g : Nat) (t : Tick) (i : Nat) : Option PRec := y.recs.find? fun r => r.g == g && r.t == t && r.i == i

/-- Change a record. -/
def mapRec (y : Byre) (g : Nat) (t : Tick) (i : Nat) (f : PRec → PRec) : Byre :=
  { y with recs := y.recs.map fun r => if r.g == g && r.t == t && r.i == i then f r else r }

/-- The quality word that a write stores (R161, R164). -/
def writtenQ (ns : Bool) (q : Nat) : Nat :=
  let q := q % 16384
  if ns then (if q % 4 = 0 then q + qQuest else q) + 65536 else q

/-- Write a sample into the slot of one group (R163). -/
def writeSample (y : Byre) (p : Sample) (t : Tick) (ns : Bool) (g off : Nat) : Byre :=
  let a := y.slotAddr y.bank y.tu.rate g t + off
  let y := y.vatWrite (a + 16) (pairBytes (p.vals.map fun (v, q) => (v, writtenQ ns q)))
  let r : PRec := ⟨g, t, p.i, p.smpCnt, p.synch, p.stamp, p.rct, p.port, ns, false, false, p.copy, none⟩
  let y := { y with recs := y.recs ++ [r] }
  let y := (List.range (p.vals.length * 2)).foldl (fun y w => y.parClear 0 (a + 16 + 4 * w)) y
  (y.inc R.PRESS_CNT_SAMPLE).setMemb g p.i { y.membAt g p.i with seen := true, late := false }

/-- A late sample in one group. -/
def lateSample (y : Byre) (p : Sample) (g : Nat) : Byre :=
  let y := (y.inc R.PRESS_CNT_LATE).setMemb g p.i { y.membAt g p.i with seen := true, late := true }
  y.setGroup g { y.group g with late := (y.group g).late + 1 }

/-- The payload of a LATE entry (R391, R179). -/
def latePayload (p : Sample) (ns : Bool) (vals : List (Nat × Nat)) : List Byte :=
  leBytes 2 p.i ++ leBytes 1 p.vals.length ++ leBytes 1 (3 + b2n ns * 8 + b2n p.rct.isSome * 32 + 64) ++ leBytes 2 p.smpCnt ++
    leBytes 1 p.synch ++ leBytes 1 0 ++ leBytes 8 (short p.stamp) ++ pairBytes vals

/-- A late sample goes to the recorder's queue (R184, R392). -/
def giveLate (y : Byre) (p : Sample) (g : Nat) (t : Tick) (ns : Bool) : Byre :=
  if !y.flag F.PRESS_CTRL_LATE_REC || !(y.get F.DRAM_REC_STATE_STATE == 1 || y.get F.DRAM_REC_STATE_STATE == 2) then y
  else
    let (q, lost) := pushQ 64 y.lateq (g, t, p.stamp, latePayload p ns p.vals)
    let y := { y with lateq := q }
    if lost then y.inc R.DRAM_CNT_LATE_DROP else y

/-- Is a second copy the twin of a record (R165)? -/
def isTwin (y : Byre) (p : Sample) (r : PRec) : Bool :=
  p.rct.isSome && p.rct == r.rct &&
    (match y.pairOf r.port with
     | some (n, isB) => y.mate n isB == p.port && p.port != r.port
     | none => false) && !r.twin

/-- Judge and place a sample whose smpCnt is below RATE (R160 to R165): the code of R168, and whether its copy is held. -/
def placeSample (y : Byre) (p : Sample) : (Nat × Bool) × Byre :=
  let ns := byArrival p.synch
  let y := if ns then y.inc R.PRESS_CNT_NOTSYNC else y
  let t := y.identity p
  if !y.tu.issued || decide (tickNo y.tu.rate y.tu.cur < tickNo y.tu.rate t) then ((4, false), y.inc R.PRESS_CNT_EARLY)
  else
    let ms := y.members y.bank p.i
    let late := ms.filter fun m => y.lateIn m.1 t
    let open_ := ms.filter fun m => !y.lateIn m.1 t
    let y := late.foldl (fun y m => y.lateSample p m.1) y
    let y := match late with
      | [] => y
      | m :: _ => y.giveLate p m.1 t ns
    match open_ with
    | [] => ((3, false), y)
    | _ :: _ =>
      match open_.findSome? fun m => y.recAt m.1 t p.i with
      | none => ((0, p.copy.isSome), open_.foldl (fun y m => y.writeSample p t ns m.1 m.2) y)
      | some r =>
        if y.isTwin p r then
          ((1, p.copy.isSome), (open_.foldl (fun y m => y.mapRec m.1 t p.i fun r => { r with twin := true, copy2 := p.copy }) y).inc
            R.PRESS_CNT_TWIN)
        else
          ((2, false), (open_.foldl (fun y m => y.mapRec m.1 t p.i fun r => { r with again := true }) y).inc R.PRESS_CNT_REPEAT)

/-! ### Frames (R159) -/

/-- Values that came from words of a pail that fail parity (R294) stay unreadable in the record, so the seal turns to the held copies
(R174). -/
def markSample (y : Byre) (f : Frame) (t : Tick) (bad : List Nat) (off n : Nat) (g roff : Nat) : Byre :=
  let a := y.slotAddr y.bank y.tu.rate g t + roff + 16
  let ws := (List.range (n / 4)).filter fun w => (pailWords f.pail (off + 4 * w) 4).any bad.contains
  { y with badPar := y.badPar ++ ws.map fun w => (0, a + 4 * w) }

/-- One ASDU as a sample; true where its copy is held.  `bad` are the words of the pail that fail parity. -/
def pressAsdu (y : Byre) (f : Frame) (nv : Nat) (bad : List Nat) (a : Nat × Nat × Nat × Nat × List Byte) : Bool × Byre :=
  let (cnt, rev, synch, off, data) := a
  let w4 := y.pStream y.bank f.index 4
  if nv ≠ y.nVal y.bank f.index ∨ data.length ≠ 8 * nv then (false, y.inc R.PRESS_CNT_LAYOUT)
  else if w4 ≠ 0 ∧ rev ≠ w4 then (false, y.inc R.PRESS_CNT_CONFREV)
  else if y.tu.rate ≤ cnt then (false, y.inc R.PRESS_CNT_BAD_CNT)
  else
    let p : Sample := ⟨f.index, cnt, synch % 256, f.stamp, f.rct.map (·.1), f.input, pairsBE nv data, some (f.pail, off)⟩
    let t := y.identity p
    let (r, y) := y.placeSample p
    let to_ := if r.1 = 0 then (y.members y.bank f.index).filter fun m => !y.lateIn m.1 t else []
    (r.2, to_.foldl (fun y m => y.markSample f t bad off data.length m.1 m.2) y)

/-- A detection in a table entry that is read is a machine check (R474). -/
def tableParity (y : Byre) (block : Nat) (keys : List (Nat × Nat)) : Option Byre :=
  match keys with
  | [] => none
  | (sp, i) :: r =>
    match y.parCheck sp i with
    | (true, y) => some (y.detectFatal block i 0)
    | (false, y) => y.tableParity block r

/-- PRESS_FRAME: the head of the input buffer.  A frame that has a word of its headers fail parity gives no sample (DESIGN CHOICE,
assumption log entry 86). -/
def pressFrame (y : Byre) : Byre :=
  match y.pressq with
  | [] => y
  | f :: rest =>
    let y := { y with pressq := rest }
    if y.st = stFAULTED then y.pailReturn f.pail
    else
      match y.tableParity 5 [(spTemplate, actTemplate f), (spStream, f.index)] with
      | some y => y.pailReturn f.pail
      | none =>
        let (bad, y) := y.badWords (pailWords f.pail f.off f.len)
        let y := y.when (!bad.isEmpty) fun y => y.inc R.PAIL_CNT_DATA_PARITY
        let bs := y.frameBytes f
        let tw := y.pTemplate y.bank (actTemplate f)
        let kind := tw % 4
        let layout := (y.inc R.PRESS_CNT_LAYOUT).pailReturn f.pail
        if !(kind == 1 || kind == 2) || (l2 bs).et != 0x88BA || !bit (y.pStream y.bank f.index 0) 0 then layout
        else
          match parseSav bs with
          | none => layout
          | some as =>
            let inData := fun (w : Nat) => as.any fun a => decide (f.pail + a.2.2.2.1 ≤ w + 3) && decide (w < f.pail + a.2.2.2.1 + a.2.2.2.2.length)
            if !bad.all inData then y.pailReturn f.pail
            else
            let (held, y) := as.foldl (fun acc a =>
              let (h, y) := acc.2.pressAsdu f (bits tw 12 8) bad a
              (acc.1 || h, y)) (false, y)
            if held then y else y.pailReturn f.pail

/-! ### The press port (R167, R168) -/

/-- A word of the thread's request. -/
def ppWord (y : Byre) (e t w : Nat) : Nat := (SMap.get (fun _ => 0#32) (y.thread e t).pp (4 * w)).toNat

/-- A group's snapshot sealed at the current boundary, while its plan has not committed (R168). -/
def openSnap (y : Byre) (g : Nat) : Option Snap :=
  if y.ch.plan.any fun p => p.tick == y.tu.cur && !p.committed && !p.overran then
    y.fresh.reverse.find? fun q => q.g == g && q.plan == y.tu.cur && q.bank == y.bank
  else none

/-- An extension write (R168): nonzero reserved bits are a fault of layout. -/
def pressExt (y : Byre) (e t : Nat) : Nat × Byre :=
  let g := y.ppWord e t 0 % 65536
  let nv := bits (y.ppWord e t 0) 23 16
  let off := y.ppWord e t 1
  if bits (y.ppWord e t 4) 31 16 ≠ 0 ∨ y.ppWord e t 5 ≠ 0 then (6, y)
  else
    match y.openSnap g with
    | none => (7, y)
    | some q =>
      if 1 ≤ nv ∧ nv ≤ 16 ∧ off % 8 = 0 ∧ off + 8 * nv ≤ y.gPhLen y.bank g then
        let bs := (List.range (2 * nv)).flatMap fun i => leBytes 4 (y.ppWord e t (6 + i))
        let at_ := 64 + y.gRecLen y.bank g + off
        let y := y.vatWrite (q.slot + at_) bs
        (0, if q.area && y.areaHeld y.bank g then y.vatWrite (y.gArea y.bank g + at_) bs else y)
      else (7, y)

/-- A sample request (R167). -/
def pressReq (y : Byre) (e t : Nat) : Nat × Byre :=
  let w := y.ppWord e t
  let i := w 0 % 65536
  let nv := bits (w 0) 23 16
  let rct := bit (w 0) 24
  let cnt := w 1 % 65536
  if 4095 < i ∨ !bit (y.pStream y.bank i 0) 0 ∨ nv ≠ y.nVal y.bank i ∨ bits (w 4) 31 16 ≠ 0 ∨ w 5 ≠ 0 ∨ 21 < bits (w 1) 31 24 ∨
    1000000000 ≤ w 2 then (6, y)
  else if y.tu.rate ≤ cnt then (5, y.inc R.PRESS_CNT_BAD_CNT)
  else
    let vals := (List.range nv).map fun v => (w (6 + 2 * v), w (7 + 2 * v))
    let p : Sample := ⟨i, cnt, bits (w 1) 23 16, y.nearSec (w 3) * 1000000000 + w 2, if rct then some (w 4 % 65536) else none,
      bits (w 1) 31 24, vals, none⟩
    let (r, y) := y.placeSample p
    (r.1, y)

/-- The GO write (R168): the answer in STATUS, and the event PRESS (R198). -/
def pressGo (y : Byre) (e t : Nat) : Byre :=
  if (y.thread e t).ppStat ≠ 0xFFFFFFFF#32 then y
  else
  match y.tableParity 5 [(spStream, y.ppWord e t 0 % 4096)] with
  | some y => y
  | none =>
    let (code, y) := if bits (y.ppWord e t 0) 31 27 ≠ 0 then (6, y)
      else if y.st = stFAULTED then (6, y)
      else if bit (y.ppWord e t 0) 26 then y.pressExt e t else y.pressReq e t
    let y := if 3 ≤ code then y.inc R.PRESS_CNT_PORT_REFUSED else y
    (y.onThread e t fun th => { th with ppStat := BitVec.ofNat 32 code }).latchEv e t 4

/-! ### Seal passes (R169 to R179) -/

/-- The members of a group with their record offsets, by ascending offset. -/
def groupMembers (y : Byre) (bank g : Nat) : List (Nat × Nat) :=
  let ws := y.ptab.filter fun q => q.1 / 0x10000 == bank && decide (q.1 % 0x10000 < 0x8000) && q.1 % 8 == 0 && q.2.getLsbD 0
  let ms := ws.filterMap fun q =>
    let i := q.1 % 0x10000 / 8
    ((y.members bank i).find? fun m => m.1 == g).map fun m => (i, m.2)
  ms.mergeSort fun a b => decide (a.2 ≤ b.2)

/-- Values of an absent record (R171): values and qualities. -/
def substitute (y : Byre) (bank i d : Nat) (m : Memb) : List (Nat × Nat) :=
  let w := y.pStream bank i 0
  let nv := y.nVal bank i
  let pol := bits w 15 14
  let none_ := List.replicate nv (0, qInvalid + 2 ^ 22)
  match m.v1 with
  | none => none_
  | some v1 =>
    if pol = 0 then none_
    else if bits w 23 16 < d then List.replicate nv (0, qInvalid + 2 ^ 10 + 2 ^ 21)
    else
      match if pol = 2 then m.v2 else none with
      | none => v1.map fun (v, q) => (v, setBit (q % 16384) 10 + 2 ^ 19)
      | some v2 =>
        (v1.zip v2).map fun (a, b) =>
          let x : Int := sgn 32 a.1 + d * (sgn 32 a.1 - sgn 32 b.1)
          let sat := decide (x < -2147483648) || decide (2147483647 < x)
          let x := if x < -2147483648 then -2147483648 else if 2147483647 < x then 2147483647 else x
          let q := insBits (setBit (a.2 % 16384) 10) 1 0 (worse a.2 b.2)
          (pat 32 x, (if sat then setBit q 2 else q) + 2 ^ 20)

/-- Read a held copy again (R174): its values, or none where it cannot be read. -/
def reread (y : Byre) (nv : Nat) (c : Option (Nat × Nat)) : Option (List (Nat × Nat)) × Byre :=
  match c with
  | none => (none, y)
  | some (pail, off) =>
    let (bad, y) := y.anyParity (pailWords pail off (8 * nv))
    if bad then (none, y.inc R.PAIL_CNT_DATA_PARITY)
    else (some ((pairsBE nv (y.vatRead (pail + off) (8 * nv))).map fun (v, q) => (v, q % 16384)), y)

/-- What a seal makes of a record that was written (R171, R174): values, TWIN_USED, re-reads, lost. -/
def sealPresent (y : Byre) (nv a : Nat) (r : PRec) : (List (Nat × Nat) × Bool × Nat × Bool) × Byre :=
  let (bad, y) := y.anyParity ((List.range (2 * nv)).map fun w => a + 16 + 4 * w)
  if !bad then ((pairsLE nv (y.vatRead (a + 16) (8 * nv)), false, 0, false), y)
  else
    let (v1, y) := y.reread nv r.copy1
    let n1 := b2n r.copy1.isSome
    match v1 with
    | some vs => ((vs, false, n1, false), y.inc R.PRESS_CNT_PARITY_FIX)
    | none =>
      let (v2, y) := y.reread nv r.copy2
      let n2 := n1 + b2n r.copy2.isSome
      match v2 with
      | some vs => ((vs.map fun (v, q) => (v, q + 2 ^ 18), true, n2, false), y.inc R.PRESS_CNT_PARITY_FIX)
      | none => ((List.replicate nv (0, qInvalid + 64 + 2 ^ 23), false, n2, true), y.inc R.PRESS_CNT_PARITY_LOST)

/-- Seal one record: it is written to the slot (R169 step 2), and the membership's bases follow (R172). -/
def sealRec (y : Byre) (q : SealReq) (clkNs test : Bool) (base : Nat) (m : Nat × Nat) : Sealed × Byre :=
  let (i, off) := m
  let nv := y.nVal q.bank i
  let mb := y.membAt q.g i
  let fin := fun (vs : List (Nat × Nat)) =>
    vs.map fun (v, w) => (v, (if clkNs then setBit w 17 else w) ||| (if test then 2048 else 0))
  match y.recAt q.g q.t i with
  | some r =>
    let ((vs, twin, n, lost), y) := y.sealPresent nv (base + off) r
    let out := fin vs
    let state := if r.again then 1 else 0
    let hdr := leBytes 2 i ++ leBytes 1 nv ++
      leBytes 1 (state + b2n r.notSync * 8 + b2n twin * 16 + b2n r.rct.isSome * 32 + (1 + b2n r.twin) * 64) ++ leBytes 2 r.smpCnt ++
      leBytes 1 r.synch ++ leBytes 1 0 ++ leBytes 8 (short r.arrival)
    let y := y.vatWrite (base + off) (hdr ++ pairBytes out)
    let y := (List.range (4 + 2 * nv)).foldl (fun y w => y.parClear 0 (base + off + 4 * w)) y
    (⟨hdr ++ pairBytes out, state, out, twin, r.notSync, n, lost⟩,
      y.setMemb q.g i { mb with d := 0, v1 := some vs, v2 := if mb.d = 0 then mb.v1 else none })
  | none =>
    let d := mb.d + 1
    let out := fin (y.substitute q.bank i d mb)
    let state := if mb.late then 3 else 2
    let hdr := leBytes 2 i ++ leBytes 1 nv ++ leBytes 1 (state + b2n (!mb.seen) * 4) ++ leBytes 2 0xFFFF ++ leBytes 1 0xFF ++
      leBytes 1 (min d 255) ++ leBytes 8 0
    let y := y.vatWrite (base + off) (hdr ++ pairBytes out)
    let y := (List.range (4 + 2 * nv)).foldl (fun y w => y.parClear 0 (base + off + 4 * w)) y
    (⟨hdr ++ pairBytes out, state, out, false, false, 0, false⟩, y.setMemb q.g i { mb with d := d })

/-- A word of the share table (R364). -/
def shrWord (y : Byre) (bank n w : Nat) : Nat := (SMap.get (fun _ => 0#32) y.shrTab (bank * 0x400 + n * 4 + w)).toNat

/-- The shares of a group: entry, record offset in the slot, length. -/
def groupShares (y : Byre) (bank g : Nat) : List (Nat × Nat × Nat) :=
  ((List.range 256).filter fun n => bit (y.shrWord bank n 0) 31 && bits (y.shrWord bank n 1) 26 24 == g).map fun n =>
    (n, bits (y.shrWord bank n 1) 16 0 * 8, bits (y.shrWord bank n 2) 23 0)

/-- Fragments of a share (R362). -/
def fragCount (len : Nat) : Nat := (len + 207) / 208

/-- The vat words of fragment `f` of a share record at `a`. -/
def fragWords (a len f : Nat) : List Nat := (List.range ((min 208 (len - f * 208) + 3) / 4)).map fun w => a + 16 + f * 208 + 4 * w

/-- Seal one share record (R366). -/
def sealShare (y : Byre) (q : SealReq) (base : Nat) (m : Nat × Nat × Nat) : Sealed × Byre :=
  let (n, off, len) := m
  let a := base + off
  let s := (y.shares.find? fun s => s.g == q.g && s.t == q.t && s.n == n).getD ⟨q.g, q.t, n, [], 0, false⟩
  let (run, seen) := SMap.get (fun _ => (0, false)) y.shareRun (q.g * 256 + n)
  let (bad, y) := y.anyParity (s.frags.flatMap (fragWords a len))
  let y := if bad then y.inc R.PRESS_CNT_PARITY_LOST else y
  let good := s.frags.length == fragCount len && !bad
  let state := if good then 0 else if s.late then 3 else 2
  let run := if good then 0 else run + 1
  let hdr := leBytes 2 (0x1000 + n) ++ leBytes 1 0 ++ leBytes 1 (state + b2n (!seen) * 4) ++ leBytes 2 s.frags.length ++ leBytes 1 0xFF ++
    leBytes 1 (min run 255) ++ leBytes 8 (if s.frags.isEmpty then 0 else short s.arrival)
  let y := y.vatWrite a hdr
  let y := (List.range (fragCount len)).foldl (fun y f =>
    if bad || !s.frags.contains f then y.vatWrite (a + 16 + f * 208) (List.replicate (min 208 (len - f * 208)) 0#8) else y) y
  let y := (List.range (4 + len / 4)).foldl (fun y w => y.parClear 0 (a + 4 * w)) y
  (⟨[], state, if good then [] else [(0, qInvalid)], false, false, 0, bad⟩,
    { y with shares := y.shares.filter fun r => !(r.g == q.g && r.t == q.t && r.n == n),
             shareRun := SMap.set (fun _ => (0, false)) y.shareRun (q.g * 256 + n) (run, seen) })

/-- Return the copies that the records of a sealed tick held, where no other sample still needs them (R166): the records of
the same sample in another group lose them too. -/
def releaseCopies (y : Byre) (g : Nat) (t : Tick) : Byre :=
  let mine := y.recs.filter fun r => r.g == g && r.t == t
  let pails := (mine.flatMap fun r => (r.copy1.toList ++ r.copy2.toList).map (·.1)).eraseDups
  let rest := (y.recs.filter fun r => !(r.g == g && r.t == t)).map fun r =>
    if mine.any fun m => m.i == r.i && m.t == r.t then { r with copy1 := none, copy2 := none } else r
  let y := { y with recs := rest }
  pails.foldl (fun y p =>
    if rest.any fun r => (r.copy1.toList ++ r.copy2.toList).any fun c => c.1 == p then y else y.pailReturn p) y

/-- Number of records with a property. -/
def countS (rs : List Sealed) (f : Sealed → Bool) : Nat := (rs.filter f).length

/-- The group header up to byte 59, without the fields that change after the seal (R177). -/
def sealHeader (y : Byre) (q : SealReq) (gap late clkNs : Bool) (rs : List Sealed) (done : Nat) : List Byte :=
  let flags := b2n gap + b2n late * 2 + b2n q.restart * 4 + b2n clkNs * 8 + b2n (y.gPhForm q.bank q.g) * 16
  let anyQ := fun (p : Nat → Bool) (r : Sealed) => r.vals.any fun v => p v.2
  leBytes 4 q.t.s ++ leBytes 2 q.t.k ++ leBytes 1 q.g ++ leBytes 1 flags ++ leBytes 2 q.rate ++ leBytes 1 (y.gDepth q.bank q.g) ++
  leBytes 1 y.bq.1 ++ leBytes 2 (y.get F.CHURN_EPOCH_LIVE) ++ leBytes 1 y.bq.2.1 ++ leBytes 1 0 ++ leBytes 2 rs.length ++
  leBytes 2 (countS rs fun r => decide (r.state ≤ 1) && r.vals.all fun v => v.2 % 4 == 0) ++
  leBytes 2 (countS rs (anyQ fun w => bit w 10)) ++ leBytes 2 (countS rs (anyQ fun w => w % 4 == qInvalid)) ++
  leBytes 2 (countS rs (·.state == 1)) ++ leBytes 2 (y.group q.g).lateLast ++ leBytes 2 (countS rs (·.twinUsed)) ++
  leBytes 2 (countS rs (·.notSync)) ++ leBytes 4 (y.gRecLen q.bank q.g) ++ leBytes 4 (y.gPhLen q.bank q.g) ++
  leBytes 8 (short done) ++ leBytes 4 y.bq.2.2

/-- The duration of a pass, ns (R170). -/
def sealNs (y : Byre) (q : SealReq) (ms : List (Nat × Nat)) (rs : List Sealed) : Nat :=
  let re := (ms.zip rs).foldl (fun n p => n + p.2.fix * (8 + y.nVal q.bank p.1.1)) 0
  2 * (24 + (ms.length + 1) / 2 + (y.gPhLen q.bank q.g + 63) / 64 + re)

/-! ### Snapshots at commit and overrun (R180, R181, R183) -/

/-- Is the group entry that sealed a snapshot still the live one?  A ring that restarted under another entry no longer has its slot. -/
def snapSlot (y : Byre) (q : Snap) : Bool := (List.range 8).all fun w => y.pGroup q.bank q.g w == y.pGroup y.bank q.g w

/-- Where the press holds snapshot `q`: the slot, and the seal area while the press has it. -/
def heldAt (y : Byre) (q : Snap) : List Nat :=
  (if y.snapSlot q then [q.slot] else []) ++ (if q.area && y.areaHeld q.bank q.g then [y.gArea q.bank q.g] else [])

/-- Hand the seal areas of snapshots to their groups' EXP_OWNER, each once (R183). -/
def giveAreas (y : Byre) (qs : List Snap) : Byre :=
  (((qs.filter (·.area)).map fun q => (q.bank, q.g)).eraseDups).foldl (fun y p =>
    (y.areaBanks p.1 p.2).foldl (fun y k => y.handover k (y.gOwner p.1 p.2)) y) y

/-- The press's part of a commit: PH_CRC, COMMITTED and PH_VALID, then the seal areas change hands. -/
def pressCommit (y : Byre) (t : Tick) : Byre :=
  let mine := y.fresh.filter (·.plan == t)
  let y := mine.foldl (fun y q =>
    let len := y.gPhLen q.bank q.g
    let at_ := y.heldAt q
    let crc := crc32c (y.vatRead (at_.headD q.slot + 64 + y.gRecLen q.bank q.g) len)
    at_.foldl (fun y a => (y.vatWrite (a + 52) (leBytes 4 crc)).vatWrite (a + 56) (leBytes 2 (1 + b2n (len != 0) * 4))) y) y
  { y.giveAreas mine with fresh := y.fresh.filter (·.plan != t) }

/-- OVERRUN in the headers of snapshots, and the seal areas change hands. -/
def overrunSnaps (y : Byre) (qs : List Snap) : Byre :=
  (qs.foldl (fun y q => (y.heldAt q).foldl (fun y a => y.vatWrite (a + 56) (leBytes 2 2)) y) y).giveAreas qs

/-- The press's part of an overrun: every header that plan `t` has sealed. -/
def pressOverrun (y : Byre) (t : Tick) : Byre :=
  { y.overrunSnaps (y.fresh.filter (·.plan == t)) with fresh := y.fresh.filter (·.plan != t) }

/-- A snapshot has been sealed for a plan: a plan that has overrun meanwhile marks it at once (R181); otherwise the plan's commit
or overrun will, unless it has committed. -/
def newSnap (y : Byre) (q : Snap) : Byre :=
  if y.ch.overs.contains q.plan then y.overrunSnaps [q]
  else if y.ch.plan.any fun p => p.tick == q.plan && p.committed then y
  else { y with fresh := y.fresh ++ [q] }

/-- SEAL_PASS: the seal at the head of the queue. -/
def sealPass (y : Byre) : Byre :=
  match y.sealq with
  | [] => y
  | q :: rest =>
    if y.st = stFAULTED then y
    else
      match y.tableParity 5 ((spGroup, q.g) :: (y.groupMembers q.bank q.g).map fun m => (spStream, m.1)) with
      | some y => y
      | none =>
        let n := tickNo q.rate q.t
        let gap := decide (0 < n) && y.skipped (n - 1)
        let late := !q.restart && decide (n + y.gDepth q.bank q.g < tickNo q.rate q.plan)
        let clkNs := bit y.bq.1 5
        let test := y.flag F.CHURN_BYRE_TESTQ
        let base := y.slotAddr q.bank q.rate q.g q.t
        let ms := y.groupMembers q.bank q.g
        let (rs, y) := ms.foldl (fun acc m =>
          let (s, y) := acc.2.sealRec q clkNs test base m
          (acc.1 ++ [s], y)) ([], y)
        let (ss, y) := (y.groupShares q.bank q.g).foldl (fun acc m =>
          let (s, y) := acc.2.sealShare q base m
          (acc.1 ++ [s], y)) (([] : List Sealed), y)
        let rl := y.gRecLen q.bank q.g
        let ns := y.sealNs q (ms ++ ss.map fun _ => (0, 0)) rs
        let rs := rs ++ ss
        let fin := max q.at_ y.sealEnd + ns
        let y := { y.advanceClk fin with sealEnd := fin }
        let y := y.vatWrite (base + 64 + rl) (List.replicate (y.gStride q.bank q.g - 64 - rl) 0#8)
        let h := y.sealHeader q gap late clkNs rs (y.now - (y.tu.clk - fin))
        let crc := crc32c (h ++ y.vatRead (base + 64) rl)
        let y := y.vatWrite base (h ++ leBytes 8 0 ++ leBytes 4 crc)
        let held := y.areaHeld q.bank q.g
        let y := if y.gExpEn q.bank q.g then
            (if held then y.vatWrite (y.gArea q.bank q.g) (y.vatRead base (y.gStride q.bank q.g)) else y.inc R.PRESS_CNT_EXP_SKIP)
          else y
        let y := (y.releaseCopies q.g q.t).inc R.PRESS_CNT_SEAL
        let sub := countS rs fun r => r.vals.any fun v => bit v.2 10
        let inv := countS rs fun r => r.vals.any fun v => v.2 % 4 == qInvalid
        let y := (y.incBy R.PRESS_CNT_SUBST sub).incBy R.PRESS_CNT_INVALID inv
        let y := ((y.wrN (R.PRESS_GRP_SEC q.g) q.t.s).put (F.PRESS_GRP_K_VALID q.g) true).set (F.PRESS_GRP_K_K q.g) q.t.k
        let y := ((y.set (F.PRESS_GRP_SEAL_N_SUBST q.g) sub).set (F.PRESS_GRP_SEAL_SEAL_NS q.g) ns).set (F.PRESS_GRP_STAT_N_INVALID q.g) inv
        let y := { y with sealq := rest, shown := SMap.set (fun _ => 0) y.shown q.g (base + 1),
                          ch := { y.ch with sealed := y.ch.sealed ++ [(q.g, q.t)] } }
        let y := y.newSnap ⟨q.g, base, held && y.gExpEn q.bank q.g, q.bank, q.plan⟩
        if q.restart || rest.any (·.g == q.g) then y
        else { y with rota := { y.rota with seals := y.rota.seals ++ [(q.plan, q.g)] } }.refresh

/-- The due ticks of a group that are not sealed or queued yet (R67, R50), by tick number. -/
def dueTicks (y : Byre) (g : Nat) : List Nat :=
  let gr := y.group g
  let cn := tickNo y.tu.rate y.tu.cur
  let d := y.gDepth y.bank g
  ((List.range (cn + 1 - d - gr.next)).map (gr.next + ·)).filter fun n => !y.skipped n

/-- A SEAL word, at its fetch, queues every due tick of its group in tick order (R67, R169): no pass starts before the word's
routine commits, 24 ns later (R170).  With none due the rota is told at once (R205). -/
def sealWord (y : Byre) (g : Nat) (plan : Tick) : Byre :=
  if !(y.group g).on then { y with rota := { y.rota with seals := y.rota.seals ++ [(plan, g)] } }.refresh
  else
    let ns := y.dueTicks g
    let cn := tickNo y.tu.rate y.tu.cur
    let y := y.setGroup g { y.group g with next := max (y.group g).next (cn + 1 - y.gDepth y.bank g) }
    if ns.isEmpty then { y with rota := { y.rota with seals := y.rota.seals ++ [(plan, g)] } }.refresh
    else { y with sealq := y.sealq ++ ns.map fun n => ⟨g, tickOf y.tu.rate n, false, y.bank, y.tu.rate, plan, y.tu.clk + 24⟩ }

/-- A group stops accepting samples. -/
def groupStop (y : Byre) (g : Nat) : Byre := (y.setGroup g { y.group g with on := false }).put (F.PRESS_GRP_STAT_OPEN g) false

/-- A group starts with the current tick as its first (R176). -/
def groupStart (y : Byre) (g : Nat) : Byre :=
  let cn := tickNo y.tu.rate y.tu.cur
  let y := { y with memb := y.memb.filter (fun q => q.1 / 4096 != g), shares := y.shares.filter (fun s => s.g != g),
                    shareRun := y.shareRun.filter (fun q => q.1 / 256 != g), shown := SMap.set (fun _ => 0) y.shown g 0 }
  let y := y.setGroup g ⟨y.gEn y.bank g, cn, cn, 0, 0⟩
  (y.put (F.PRESS_GRP_K_VALID g) false).put (F.PRESS_GRP_STAT_OPEN g) (y.gEn y.bank g)

/-- The refusal step of a boundary (R73, R162, R182): the read windows close and the counts of late samples turn over. -/
def refuse (y : Byre) : Byre :=
  (List.range 8).foldl (fun y g => y.setGroup g { y.group g with late := 0, lateLast := (y.group g).late }) { y with shown := [] }

end Byre

/-! ### Commands -/

/-- PRESS_FRAME (R159). -/
def execPressFrame (b : Fin 6) (s : State) : Host.Outcome State Fault Refusal := .next (s.onFab b Byre.pressFrame)

/-- SEAL_PASS (R169). -/
def execSealPass (b : Fin 6) (s : State) : Host.Outcome State Fault Refusal := .next (s.onFab b Byre.sealPass)

/-- PRESS_PORT_GO (R168): a thread's GO write to its press-port window. -/
def execPressPortGo (b : Fin 6) (e : Fin 32) (t : Fin 8) (s : State) : Host.Outcome State Fault Refusal :=
  .next (if s.engOn b e then s.onByre b fun y => y.pressGo e t else s)

/-- A write of BYx_PRESS_CFG_CMD: an entry write that names the live bank of a RUNNING or DEGRADED byre is locked (R19, R153). -/
def State.pressCmd (s : State) (b : Fin 6) (m : Master) (v : Nat) : State :=
  s.goWrite b m R.PRESS_CFG_CMD v (fun y => y.flag F.PRESS_CFG_CMD_OP && y.lockedBank F.PRESS_CFG_CMD_BANK)
    (fun y => y.set F.PRESS_CFG_STATUS_RESULT 1) Byre.pGo

/-- The word of BYx_PRESS_CFG_CMD with GO. -/
def pressCmdWord (op : Nat) (bank : Bool) (table : BitVec 2) (i : Fin 4096) : Nat :=
  2147483648 + op * 2 ^ 30 + b2n bank * 2 ^ 29 + table.toNat * 2 ^ 27 + i

/-- PRESS_CFG_READ (R186). -/
def execPressCfgRead (b : Fin 6) (m : Master) (bank : Bool) (table : BitVec 2) (i : Fin 4096) (s : State) :
    Host.Outcome State Fault Refusal :=
  .next (s.pressCmd b m (pressCmdWord 0 bank table i))

/-- PRESS_CFG_WRITE (R153, R186). -/
def execPressCfgWrite (b : Fin 6) (m : Master) (bank : Bool) (table : BitVec 2) (i : Fin 4096) (s : State) :
    Host.Outcome State Fault Refusal :=
  .next (s.pressCmd b m (pressCmdWord 1 bank table i))

end Sys2Proof.Machine
end

