-- ==== Sys2Proof/Machine/Dram.lean ====
section
/-!
DEFINITION. The DRAM controller and the recorder (chapter 13).
-/

namespace Sys2Proof.Machine

/-- Controller states of R385. -/
abbrev drOFF : Nat := 0
abbrev drTRAINING : Nat := 1
abbrev drREADY : Nat := 2
abbrev drFAILED : Nat := 3
abbrev drRETAINED : Nat := 4
abbrev drLOADING : Nat := 5

/-- Recorder states of R395. -/
abbrev rcIDLE : Nat := 0
abbrev rcARMED : Nat := 1
abbrev rcPOST : Nat := 2
abbrev rcFROZEN : Nat := 3

/-- The parity space of failed DRAM checks, by 64-byte block. -/
abbrev spDram : Nat := 2

/-- Capacity of the staging buffer, bytes (R393). -/
abbrev stageCap : Nat := 131072

/-- Order of tick identities. -/
def Tick.le (a b : Tick) : Bool := decide (a.s < b.s) || (a.s == b.s && decide (a.k ≤ b.k))

namespace Byre

/-! ### Cells and checks (R380 to R383) -/

/-- The controller's state. -/
def dst (y : Byre) : Nat := y.get F.DRAM_STATUS_STATE

/-- Usable bytes (R380). -/
def dramSize (y : Byre) : Nat := y.get F.DRAM_SIZE_MIB * 1048576

/-- One byte of DRAM. -/
def dramByte (y : Byre) (a : Nat) : Byte := SMap.get (fun a => Config.dramByte y.dramGen a) y.dram a

/-- `n` bytes of DRAM from an address. -/
def dramBytes (y : Byre) (a n : Nat) : List Byte := (List.range n).map fun i => y.dramByte (a + i)

/-- Put bytes in DRAM. -/
def dramPut (y : Byre) (a : Nat) (bs : List Byte) : Byre := { y with dram := Mem.put y.dram a bs }

/-- Every DRAM content becomes undefined, outside the addresses that `p` keeps (R380, R388). -/
def dramLose (y : Byre) (p : Nat → Bool) : Byre :=
  { y with dram := SMap.keep p y.dram, dramGen := y.dramGen + 1, dramChk := SMap.keep (fun n => p (n * 64)) y.dramChk,
           badPar := y.badPar.filter fun q => q.1 != spDram || p (q.2 * 64) }

/-- The check that the metadata region holds for block `n` (R381). -/
def storedCheck (y : Byre) (n : Nat) : BitVec 16 := SMap.get (Config.dramCheck y.dramGen) y.dramChk n

/-- The check that the bytes of block `n` call for (R381). -/
def rightCheck (y : Byre) (n : Nat) : BitVec 16 := blockCheck n (y.dramBytes (n * 64) 64)

/-- Does block `n` fail its check on this read (R381, R383)?  A mark of `spDram` stands for a read that the line or the cells spoil. -/
def blockFails (y : Byre) (n : Nat) : Bool × Byre :=
  let (bad, y) := y.parCheck spDram n
  (bad || y.storedCheck n != y.rightCheck n, y)

/-- Capture a check failure (R382, R383). -/
def chkCap (y : Byre) (n : Nat) (write : Bool) : Byre :=
  if y.flag F.DRAM_CHK_CAP_VALID then y
  else ((y.set F.DRAM_CHK_CAP_BLOCK n).put F.DRAM_CHK_CAP_WRITE write).put F.DRAM_CHK_CAP_VALID true

/-- The blocks that `n` bytes from address `a` touch. -/
def blocksOf (a n : Nat) : List Nat := if n = 0 then [] else (List.range ((a + n - 1) / 64 - a / 64 + 1)).map (a / 64 + ·)

/-- Verify blocks on a read (R383): the failed ones, each counted and captured. -/
def verifyBlocks (y : Byre) : List Nat → List Nat × Byre
  | [] => ([], y)
  | n :: ns =>
    let (bad, y) := y.blockFails n
    let y := if bad then (y.inc R.DRAM_CNT_CHECK_FAIL).chkCap n false else y
    let (r, y) := y.verifyBlocks ns
    (if bad then n :: r else r, y)

/-- A write inside one block (R381, R382). -/
def dramBlock (y : Byre) (a : Nat) (bs : List Byte) : Byre :=
  let n := a / 64
  let whole := a % 64 == 0 && bs.length == 64
  let (bad, y) := if whole then (false, y.parClear spDram n) else y.blockFails n
  let all := y.dramBytes (n * 64) 64
  let y := y.dramPut (n * 64) (if whole then bs else patch all (a % 64) bs)
  let y := { y with dramChk := SMap.ins y.dramChk n (y.rightCheck n ^^^ (if bad then 0xFFFF#16 else 0#16)) }
  if bad then (y.inc R.DRAM_CNT_RMW_POISON).chkCap n true else y

/-- Cut bytes at block borders: (address, bytes) pieces. -/
def pieces : Nat → Nat → List Byte → List (Nat × List Byte)
  | 0, _, _ => []
  | fuel + 1, a, bs =>
    if bs.isEmpty then []
    else
      let m := 64 - a % 64
      (a, bs.take m) :: pieces fuel (a + m) (bs.drop m)

/-- Write bytes to DRAM. -/
def dramWrite (y : Byre) (a : Nat) (bs : List Byte) : Byre :=
  (pieces (bs.length + 1) a bs).foldl (fun y p => y.dramBlock p.1 p.2) y

/-! ### Training and speed points (R385 to R387) -/

/-- Leave READY or reach a new controller state; SIZE reads 0 unless READY (R380). -/
def setDst (y : Byre) (v : Nat) : Byre :=
  let y := y.set F.DRAM_STATUS_STATE v
  if v = drREADY then y else y.set F.DRAM_SIZE_MIB 0

/-- Is the set of the point stored? -/
def tvalid (y : Byre) (p : Nat) : Bool := bit (y.get F.DRAM_STATUS_TVALID) p

/-- Is a training or load running? -/
def training (y : Byre) : Bool := y.dst == drTRAINING || y.dst == drLOADING

/-- Load at the current point, or train where no results are stored (R386). -/
def dramLoad (y : Byre) : Byre := y.setDst (if y.tvalid (y.get F.DRAM_STATUS_CUR_SPEED) then drLOADING else drTRAINING)

/-- TRAIN: a running training or load is atomic and goes on (R387); memory in self-refresh is left by a wake only. -/
def cmdTrain (y : Byre) : Byre := if y.training || y.dst == drRETAINED then y else y.setDst drTRAINING

/-- LOAD. -/
def cmdLoad (y : Byre) : Byre := if y.training || y.dst == drRETAINED then y else y.dramLoad

/-- SPEED_GO (R387). -/
def cmdSpeed (y : Byre) (p : Nat) : Byre :=
  if y.training then
    if y.flag F.DRAM_STATUS_PEND then y.put F.DRAM_STATUS_REFUSED true
    else (y.put F.DRAM_STATUS_PEND true).set F.DRAM_STATUS_PEND_SPEED p
  else if y.dst = drREADY then (y.set F.DRAM_STATUS_CUR_SPEED p).dramLoad
  else y

/-- A training's results replace the set of the current point (R386). -/
def storeTraining (y : Byre) : Byre :=
  let p := y.get F.DRAM_STATUS_CUR_SPEED
  let m := (List.range 128).foldl (fun m i => SMap.set (fun _ => 0#32) m (p * 128 + i) (Config.trainWord y.free i)) y.train
  { y.useFree with train := m }.set F.DRAM_STATUS_TVALID (setBit (y.get F.DRAM_STATUS_TVALID) p)

/-- A training or load ends (R385 to R387): `fail` says which channels failed, `mib` the usable size found. -/
def runEnd (y : Byre) (train : Bool) (fail mib : Nat) : Byre :=
  let y := y.set F.DRAM_STATUS_FAIL_CH fail
  let y := if fail = 0 then (if train then y.storeTraining else y).inc R.DRAM_CNT_TRAIN else y
  if y.flag F.DRAM_STATUS_PEND then
    ((y.set F.DRAM_STATUS_CUR_SPEED (y.get F.DRAM_STATUS_PEND_SPEED)).put F.DRAM_STATUS_PEND false).dramLoad
  else if fail = 0 then (y.setDst drREADY).set F.DRAM_SIZE_MIB (min mib 7936)
  else y.setDst drFAILED

/-- The training word that TRAIN_IDX names, and the step of WORD after an access (R386). -/
def trainKey (y : Byre) : Nat :=
  y.get F.DRAM_TRAIN_IDX_POINT * 128 + y.get F.DRAM_TRAIN_IDX_CH * 64 + y.get F.DRAM_TRAIN_IDX_WORD
def trainNext (y : Byre) : Byre := y.set F.DRAM_TRAIN_IDX_WORD ((y.get F.DRAM_TRAIN_IDX_WORD + 1) % 64)

/-- A read of TRAIN_DATA. -/
def trainRead (y : Byre) : Byre × Nat := (y.trainNext, (SMap.get (fun _ => 0#32) y.train y.trainKey).toNat)

/-- A write of TRAIN_DATA: TVALID of the point is set when word 63 of both channels has been written. -/
def trainWrite (y : Byre) (v : Word) : Byre :=
  let p := y.get F.DRAM_TRAIN_IDX_POINT
  let k := y.trainKey
  let y := { y with train := SMap.set (fun _ => 0#32) y.train k v,
                    trainDone := if k % 64 = 63 ∧ !y.trainDone.contains (k / 64) then y.trainDone ++ [k / 64] else y.trainDone }
  let y := if y.trainDone.contains (2 * p) && y.trainDone.contains (2 * p + 1) then
      y.set F.DRAM_STATUS_TVALID (setBit (y.get F.DRAM_STATUS_TVALID) p)
    else y
  y.trainNext

/-! ### The recorder -/

/-- The recorder's state. -/
def rcSt (y : Byre) : Nat := y.get F.DRAM_REC_STATE_STATE

/-- Does the recorder append (R392)? -/
def recording (y : Byre) : Bool := y.rcSt == rcARMED || y.rcSt == rcPOST

/-- Bytes in the staging buffer. -/
def stageLevel (y : Byre) : Nat := (y.rcd.stage.map fun p => p.2.length).sum

/-- STAGE and PANIC follow the level (R393). -/
def stageSync (y : Byre) : Byre :=
  let n := y.stageLevel
  let y := y.set F.DRAM_REC_STATE_STAGE ((n + 63) / 64)
  if !y.flag F.DRAM_REC_STATE_PANIC && decide (y.get F.DRAM_REC_PANIC_HI * 1024 ≤ n) then
    (y.put F.DRAM_REC_STATE_PANIC true).inc R.DRAM_CNT_PANIC
  else if y.flag F.DRAM_REC_STATE_PANIC && decide (n ≤ y.get F.DRAM_REC_PANIC_LO * 1024) then
    y.put F.DRAM_REC_STATE_PANIC false
  else y

/-- Change the recorder's hidden state. -/
def onRec (y : Byre) (f : Recorder → Recorder) : Byre := { y with rcd := f y.rcd }

/-- The writes of the entries in the range of units reach old entries: REC_OLD moves past them (R389), and REC_PRE with it in
POST (R397). -/
def overtake (y : Byre) (base units : Nat) : Byre :=
  let hit := fun (q : Nat × Nat × Nat) => decide (q.1 < base + units) && decide (base < q.1 + q.2.1)
  let gone := y.rcd.ring.any hit
  if !gone then y
  else
    let keep := (y.rcd.ring.dropWhile fun q => !hit q).dropWhile hit
    let lostPre := (y.rcd.ring.any fun q => q.1 == y.get F.DRAM_REC_PRE_OFS && !(keep.any fun k => k.1 == q.1))
    let old := (keep.head?.map (·.1)).getD base
    let y := (y.onRec fun r => { r with ring := keep }).set F.DRAM_REC_OLD_OFS old
    if y.rcSt = rcPOST ∧ lostPre then (y.set F.DRAM_REC_PRE_OFS old).put F.DRAM_REC_STATE_PRE_LOST true else y

/-- Units of an entry with `n` payload bytes. -/
def entryUnits (n : Nat) : Nat := (32 + n + 63) / 64

/-- The header of an entry (R390). -/
def recHeader (j : RecJob) (len : Nat) : List Byte :=
  let h := leBytes 4 j.seq ++ leBytes 1 j.typ ++ leBytes 1 j.flags ++ leBytes 1 j.src ++ leBytes 1 0 ++ leBytes 4 len ++
    leBytes 4 j.sec ++ leBytes 2 j.k ++ leBytes 2 j.code ++ leBytes 8 j.stamp
  h ++ leBytes 4 (crc32c h)

/-- The DRAM address of a ring unit. -/
def ringAddr (y : Byre) (u : Nat) : Nat := (y.rdN R.DRAM_REC_BASE + u) * 64

/-- An entry's header is written, which completes it (R389): WR moves past it. -/
def recClose (y : Byre) (j : RecJob) (base : Nat) : Byre :=
  let units := entryUnits j.pos
  let y := (y.overtake base units).onRec fun r =>
    { r with ring := r.ring ++ [(base, units, j.seq)], stage := r.stage ++ [((y.rdN R.DRAM_REC_BASE + base) * 64, recHeader j j.pos)],
             marks := match j.mark with
               | some t => (t, base, j.seq) :: r.marks.take 4095
               | none => r.marks }
  let y := y.set F.DRAM_REC_WR_OFS (if base + units = y.rdN R.DRAM_REC_SIZE then 0 else base + units)
  (if j.first then y.set F.DRAM_REC_TRIG_OFS base else y).stageSync

/-- Begin an entry of `n` payload bytes: its number and its place, after a PAD entry where it would not fit (R389). -/
def recOpen (y : Byre) (j : RecJob) (n : Nat) : RecJob × Byre :=
  let wr := y.get F.DRAM_REC_WR_OFS
  let size := y.rdN R.DRAM_REC_SIZE
  let y := if size < wr + entryUnits n then
      let len := (size - wr) * 64 - 32
      let pad : RecJob := ⟨0, 0, 0, 0, 0, 0, 0, some [], len, some wr, y.rcd.seq, none, false⟩
      (y.onRec fun r => { r with seq := (r.seq + 1) % 2 ^ 32 }).recClose pad wr
    else y
  let fl := if y.rcd.gap then setBit j.flags 3 else j.flags
  ({ j with flags := fl, seq := y.rcd.seq, base := some (y.get F.DRAM_REC_WR_OFS) },
    y.onRec fun r => { r with seq := (r.seq + 1) % 2 ^ 32, gap := false })

/-- The slot of a snapshot once it can be read (R182), as the entry's payload. -/
def recData (y : Byre) (j : RecJob) : Option (List Byte) :=
  match j.data with
  | some d => some d
  | none =>
    match SMap.get (fun _ => 0) y.shown j.src with
    | 0 => none
    | b + 1 => some (y.vatRead b (64 + y.gRecLen y.bank j.src + y.gPhLen y.bank j.src))

/-- The identity and SEALED_AT of a snapshot's header (R177). -/
def snapIdent (j : RecJob) (d : List Byte) : RecJob :=
  if j.typ = 1 then
    { j with sec := leNat (d.take 4), k := leNat ((d.drop 4).take 2), stamp := leNat ((d.drop 40).take 8) }
  else j

/-- Copy at most `n` pieces of the first waiting entry into the staging buffer (R393, R394).  The buffer is full for an entry that begins
where it has no room for the header and for that of a PAD entry before it, and for a piece where it has no room left for it and the
header (DESIGN CHOICE, assumption log entry 61). -/
def recCopy (y : Byre) : Nat → Byre
  | 0 => y
  | n + 1 =>
    match y.rcd.jobs with
    | [] => y
    | j :: js =>
      match y.recData j with
      | none => y
      | some d =>
        match j.base with
        | none =>
          if stageCap < y.stageLevel + 64 then
            recCopy ((y.onRec fun r => { r with jobs := js, gap := true }).inc R.DRAM_CNT_REC_OVF) n
          else
            let (j, y) := y.recOpen (snapIdent j d) d.length
            recCopy (y.onRec fun r => { r with jobs := { j with data := some d } :: js }) n
        | some base =>
          if d.length ≤ j.pos then recCopy ((y.onRec fun r => { r with jobs := js }).recClose j base) n
          else
            let a := y.ringAddr base + 32 + j.pos
            let m := min (64 - a % 64) (d.length - j.pos)
            let (bad, y) := y.queueBad 12 28
            if bad ∨ stageCap < y.stageLevel + m + 32 then
              let y := (y.onRec fun r => { r with jobs := js }).inc R.DRAM_CNT_REC_OVF
              recCopy (y.recClose { j with flags := setBit j.flags 0 } base) n
            else
              let y := (y.overtake base (entryUnits (j.pos + m))).onRec fun r =>
                { r with stage := r.stage ++ [(a, (d.drop j.pos).take m)], jobs := { j with pos := j.pos + m } :: js }
              recCopy y.stageSync n

/-- The real-time port drains `n` writes (R393), while the memory is usable. -/
def recDrain (y : Byre) : Nat → Byre
  | 0 => y.stageSync
  | n + 1 =>
    match y.rcd.stage with
    | [] => y.stageSync
    | (a, bs) :: rest =>
      if y.dst = drREADY then recDrain ((y.onRec fun r => { r with stage := rest }).dramWrite a bs) n else y

/-- A snapshot copy that has not ended when its slot is opened again is cut short (R394): the boundary's tick number, and
each entry's tick number and depth by `dn`. -/
def recCut (y : Byre) : Byre :=
  let cur := tickNo y.tu.rate y.tu.cur
  let late := fun (j : RecJob) => j.typ == 1 && j.data.isSome && decide (j.pos < (j.data.getD []).length) &&
    decide (tickNo y.tu.rate ⟨y.nearSec j.sec, j.k⟩ + y.gDepth y.bank j.src + 1 ≤ cur)
  let n := (y.rcd.jobs.filter late).length
  let cut := fun (j : RecJob) =>
    if late j then { j with flags := setBit j.flags 0, data := some ((j.data.getD []).take j.pos) } else j
  (y.onRec fun r => { r with jobs := r.jobs.map cut }).incBy R.DRAM_CNT_REC_TRUNC n

/-- Append an entry (R392): IN_WIN says that it is written in POST, and the first entry of a marked plan carries its mark. -/
def recAppend (y : Byre) (j : RecJob) : Byre :=
  let j := { j with flags := j.flags + (if y.rcSt = rcPOST then 2 else 0), mark := y.rcd.markDue }
  y.onRec fun r => { r with jobs := r.jobs ++ [j], markDue := none }

/-- An entry with nothing in it but type, source, identity, code, stamp and payload. -/
def recNew (typ src : Nat) (t : Tick) (code stamp : Nat) (data : Option (List Byte)) : RecJob :=
  ⟨typ, 0, src, t.s % 2 ^ 32, t.k, code, stamp, data, 0, none, 0, none, false⟩

/-- A plan starts: every sixteenth since the last arm is marked (R396). -/
def recPlanStart (y : Byre) (t : Tick) : Byre :=
  if !y.recording then y
  else y.onRec fun r => { r with plans := r.plans + 1, markDue := if r.plans % 16 = 0 then some t else r.markDue }

/-- A plan ends: in POST the plan of T_end freezes the recorder (R395). -/
def recPlanEnd (y : Byre) (t : Tick) : Byre :=
  if y.rcSt = rcPOST ∧ y.rcd.tEnd.le t then y.set F.DRAM_REC_STATE_STATE rcFROZEN else y

/-- REC_PRE at a trigger (R396): the latest mark at or before T − PRE whose entry is still there, otherwise REC_OLD. -/
def recPre (y : Byre) (t : Tick) : Byre :=
  let rate := max 1 y.tu.rate
  let n := tickNo rate t
  let pre := y.get F.DRAM_REC_WIN_PRE
  let lim := tickOf rate (n - pre)
  let m := if pre ≤ n then y.rcd.marks.find? fun m => m.1.le lim else none
  match m.filter fun m => y.rcd.ring.any fun q => q.2.2 == m.2.2 with
  | some m => y.set F.DRAM_REC_PRE_OFS m.2.1
  | none => (y.set F.DRAM_REC_PRE_OFS (y.get F.DRAM_REC_OLD_OFS)).put F.DRAM_REC_STATE_PRE_SHORT true

/-- A trigger (R396, R397): source, code, trigger tick and instant. -/
def recTrigger (y : Byre) (src code : Nat) (t : Tick) (at_ : Nat) : Byre :=
  let rate := max 1 y.tu.rate
  let e := tickOf rate (tickNo rate t + y.get F.DRAM_REC_WIN_POST)
  let j := recNew 4 src t code (short at_) (some [])
  if y.rcSt = rcARMED then
    let y := y.recAppend { j with first := true }
    let y := (y.recPre t).onRec fun r => { r with tEnd := e }
    ((y.set F.DRAM_REC_STATE_STATE rcPOST).wrN R.DRAM_REC_TRIG_SEC (t.s % 2 ^ 32)).wrN R.DRAM_REC_TRIG_K t.k
  else if y.rcSt = rcPOST then
    ((y.recAppend j).onRec fun r => { r with tEnd := if r.tEnd.le e then e else r.tEnd }).inc R.DRAM_CNT_TRIG_EXTEND
  else y.inc R.DRAM_CNT_TRIG_LOST

/-- REARM (R398). -/
def recRearm (y : Byre) : Byre :=
  if y.rcSt = rcFROZEN then
    let y := (y.set F.DRAM_REC_STATE_STATE rcARMED).put F.DRAM_REC_STATE_PRE_SHORT false
    ((y.put F.DRAM_REC_STATE_PRE_LOST false).put F.DRAM_REC_STATE_FROZEN_EARLY false).onRec fun r =>
      { r with marks := [], plans := 0, markDue := none }
  else y

/-- EN becomes set: the recorder starts on an empty ring (R395); EN becomes clear: it is idle. -/
def recEnable (y : Byre) (on : Bool) : Byre :=
  if on then
    let y := (((y.set F.DRAM_REC_STATE_STATE rcARMED).set F.DRAM_REC_WR_OFS 0).set F.DRAM_REC_OLD_OFS 0).set F.DRAM_REC_PRE_OFS 0
    let y := ((y.put F.DRAM_REC_STATE_PRE_SHORT false).put F.DRAM_REC_STATE_PRE_LOST false).put F.DRAM_REC_STATE_FROZEN_EARLY false
    y.onRec fun r => { r with jobs := [], ring := [], marks := [], plans := 0, markDue := none, gap := false }
  else (y.set F.DRAM_REC_STATE_STATE rcIDLE).onRec fun r => { r with jobs := [] }

/-- The tally records written since the previous RECORD with TALLY that can still be copied, and whether some are left
out (R392). -/
def tallyTake (y : Byre) : List Byte × Bool × Byre :=
  let size := 2 ^ y.get F.SW_TALLY_CTRL_SIZE_LOG2
  let have_ := min y.tallyNew size
  let n := min have_ 2048
  let first := (y.get F.SW_TALLY_WR_WR + size - have_) % size
  let rd := fun (y : Byre) (i : Nat) =>
    let a := y.tallySlot ((first + i) % size)
    if y.flag F.SW_TALLY_CTRL_TARGET then (y.dramBytes a 128, (y.verifyBlocks (blocksOf a 128)).2) else (y.vatRead a 128, y)
  let (bs, y) := (List.range n).foldl (fun (acc : List Byte × Byre) i =>
    let (b, y) := rd acc.2 i
    (acc.1 ++ b, y)) ([], y)
  (bs, decide (n < y.tallyNew), { y with tallyNew := 0 })

/-- The RECORD word (R392) of the plan of tick `t`. -/
def recWord (y : Byre) (g : Nat) (tally : Bool) (t : Tick) : Byre :=
  if !y.recording then y.inc R.DRAM_CNT_REC_SKIP
  else
    let y := if (y.group g).on then y.recAppend (recNew 1 g t 0 0 (y.recData (recNew 1 g t 0 0 none))) else y
    if !tally then y
    else
      let (bs, lost, y) := y.tallyTake
      if bs.isEmpty then y
      else y.recAppend { recNew 2 0 t 0 (short y.now) (some bs) with flags := if lost then 4 else 0 }

/-- A late sample leaves the queue and is appended (R392). -/
def lateAppend (y : Byre) : Byre :=
  match y.lateq with
  | [] => y
  | (g, t, at_, d) :: rest =>
    let y := { y with lateq := rest }
    if y.recording then y.recAppend (recNew 3 g t 0 (short at_) (some d)) else y

end Byre

namespace State

/-- A step of the DRAM controller: FAB and DRM domains are on. -/
def onDram (s : State) (b : Fin 6) (f : Byre → Byre) : State := if s.on b domDRM then s.onFab b f else s

/-- A write of the word `v` to BYx_DRAM_CMD: SPEED, then TRAIN, LOAD and SPEED_GO (R385 to R387), which are applied in HELD, READY or
TEST only, by a controller whose domain is on. -/
def dramCmd (s : State) (b : Fin 6) (m : Master) (v : Nat) : State :=
  s.lockedWrite b m R.DRAM_CMD (fun y => bits v 31 29 != 0 && !y.idle) fun y =>
    let y := y.writeFlds R.DRAM_CMD v
    let d := s.on b domDRM
    ((y.when (d && bit v 31) Byre.cmdTrain).when (d && bit v 30) Byre.cmdLoad).when (d && bit v 29) fun y =>
      y.cmdSpeed (y.get F.DRAM_CMD_SPEED)

/-- A write of the word `v` to BYx_DRAM_REC_CMD: CODE, then TRIGGER, then REARM (R396, R398). -/
def recCmd (s : State) (b : Fin 6) (m : Master) (v : Nat) : State :=
  s.mgmtWrite b m R.DRAM_REC_CMD fun y =>
    let y := y.writeFlds R.DRAM_REC_CMD v
    (y.when (bit v 31) fun y => y.recTrigger 2 (y.get F.DRAM_REC_CMD_CODE) y.tu.cur y.now).when (bit v 30) Byre.recRearm

end State

/-! ### Commands -/

/-- DRAM_TRAIN (R385). -/
def execDramTrain (b : Fin 6) (m : Master) (speed : BitVec 2) (s : State) : Host.Outcome State Fault Refusal :=
  .next (s.dramCmd b m (0x80000000 + speed.toNat))

/-- DRAM_LOAD (R386). -/
def execDramLoad (b : Fin 6) (m : Master) (speed : BitVec 2) (s : State) : Host.Outcome State Fault Refusal :=
  .next (s.dramCmd b m (0x40000000 + speed.toNat))

/-- SPEED_GO (R387). -/
def execSpeedGo (b : Fin 6) (m : Master) (speed : BitVec 2) (s : State) : Host.Outcome State Fault Refusal :=
  .next (s.dramCmd b m (0x20000000 + speed.toNat))

/-- TRAIN_DATA_ACCESS (R386): a read, or a write of `v`. -/
def execTrainDataAccess (b : Fin 6) (m : Master) (write : Bool) (v : Word) (s : State) : Host.Outcome State Fault Refusal :=
  .next (if write then s.mgmtWrite b m R.DRAM_TRAIN_DATA fun y => y.trainWrite v else s.mgmtRead b m R.DRAM_TRAIN_DATA Byre.trainRead)

/-- NEIGHBOUR_REFRESH (R384): one pair. -/
def execNeighbourRefresh (b : Fin 6) (s : State) : Host.Outcome State Fault Refusal :=
  .next (s.onDram b fun y =>
    if y.dst = drREADY then { y.useFree with nbrGen := Config.nbrNext y.free }.inc R.DRAM_CNT_NBR else y)

/-- RECORDER_DRAIN (R393): the port drains `n` writes, while entries waiting go into the buffer by `c` pieces. -/
def execRecorderDrain (b : Fin 6) (n c : Nat) (s : State) : Host.Outcome State Fault Refusal :=
  .next (s.onFab b fun y => (if s.on b domDRM then y.recDrain n else y).recCopy c)

/-- LATE_ENTRY_APPEND (R392). -/
def execLateEntryAppend (b : Fin 6) (s : State) : Host.Outcome State Fault Refusal := .next (s.onFab b Byre.lateAppend)

/-- REC_TRIG_WRITE (R396): a thread of engine `e` writes `code`. -/
def execRecTrigWrite (b : Fin 6) (e : Fin 32) (code : BitVec 16) (s : State) : Host.Outcome State Fault Refusal :=
  .next (if s.engOn b e then s.onByre b fun y => y.recTrigger 0 code.toNat y.tu.cur y.now else s)

/-- REC_CMD_TRIGGER (R396): a write of BYx_DRAM_REC_CMD with TRIGGER. -/
def execRecCmdTrigger (b : Fin 6) (m : Master) (code : BitVec 16) (s : State) : Host.Outcome State Fault Refusal :=
  .next (s.recCmd b m (0x80000000 + code.toNat))

/-- REC_CMD_REARM (R398): a write of BYx_DRAM_REC_CMD with REARM. -/
def execRecCmdRearm (b : Fin 6) (m : Master) (code : BitVec 16) (s : State) : Host.Outcome State Fault Refusal :=
  .next (s.recCmd b m (0x40000000 + code.toNat))

/-- TALLY_RECORD_WRITE (R123). -/
def execTallyRecordWrite (b : Fin 6) (s : State) : Host.Outcome State Fault Refusal :=
  .next (s.onFab b fun y => y.tallyWrite Byre.dramWrite)

/-- TALLY_RD_ADVANCE (R123, R192): a thread of engine `e` writes `v`. -/
def execTallyRdAdvance (b : Fin 6) (e : Fin 32) (v : Word) (s : State) : Host.Outcome State Fault Refusal :=
  .next (if s.engOn b e then s.onByre b fun y => y.tallyAdvance v.toNat else s)

end Sys2Proof.Machine
end

