-- ==== Sys2Proof/Machine/Switch.lean ====
section
/-!
DEFINITION. What happens at an output of the switch core once a copy has been reassembled (R100, R102, R108, R109).
-/

namespace Sys2Proof.Machine

namespace Byre

/-- A copy's bytes with trailer or tag removed or added (R114, R117).  A frame that came with a trailer or tag and goes to a pair gets
the new one beside the old one (DESIGN CHOICE: no rule removes the old one there, assumption log entry 85). -/
def copyBytes (y : Byre) (c : Copy) : List Byte :=
  let bs := c.data
  match c.mode with
  | 1 => if c.fr.hsr then dropHsr bs else if c.fr.rct.isSome then bs.take (bs.length - 6) else bs
  | 2 =>
    let lan := if y.get (F.SW_PAIR_PORT_B c.pair) = c.out then 0xB else 0xA
    if y.get (F.SW_PAIR_MODE c.pair) = 2 then addHsr bs c.num lan else addRct bs c.num lan
  | _ => bs

/-- The words of the copy's pail, as offsets, that hold a byte whose parity failed in the ingress pail (R294): a failed word stays
unreadable in the copy (DEDUCED, assumption log entry 85). -/
def copyBad (y : Byre) (c : Copy) : List Nat :=
  let o := lsduHdr c.data - 2
  let bad := match c.mode with
    | 1 => if c.fr.hsr && fb c.data o 2 == 0x892F then (c.bad.map fun x => if x < o + 6 then x else x - 6) else c.bad
    | 2 => if y.get (F.SW_PAIR_MODE c.pair) = 2 then (c.bad.map fun x => if x < o then x else x + 6) else c.bad
    | _ => c.bad
  bad.flatMap fun x => [x / 4 * 4, (x + 3) / 4 * 4]

/-- Store a copy in its pail at an output (R24, R294). -/
def copyStore (y : Byre) (c : Copy) (off : Nat) (bs : List Byte) : Byre :=
  let y' := y.pailWrite off bs
  { y' with badPar := y'.badPar ++ ((y.copyBad c).filter fun w => decide (w < bs.length)).map fun w => (0, off + w) }

/-- The number a copy carries (R114, R117): the metadata keeps that of a trailer or tag that was removed. -/
def copySeq (c : Copy) : Option Nat := if c.mode = 2 then some c.num else c.fr.rct.map (·.1)

/-- The drop record of a copy (R119, R122). -/
def copyDrop (y : Byre) (c : Copy) (bs : List Byte) (why : Nat) : Byre :=
  y.tallyDrop bs (y.dropAt c.fr.input c.fr.stamp) c.out (bs.length + 4) (bits c.fr.act0 7 0) (actQueue c.fr) why (copySeq c)

/-- A copy is reassembled at a port (R100, R109).  A full queue is judged before the pail (DESIGN CHOICE: R109 does not say which drop
counts where both hold, assumption log entry 85). -/
def toPort (y : Byre) (p : Nat) (c : Copy) (bs : List Byte) : Byre :=
  let q := actQueue c.fr
  if !y.portUp p then (y.inc (R.SW_PORT_CNT_TX_FLUSH p)).copyDrop c bs 7
  else if y.qDepth p q ≤ (y.outQ p q).length then (y.inc (R.SW_PORT_CNT_TX_QDROP p q)).copyDrop c bs 6
  else
    match if p < 22 then y.alloc p bs.length else (none, y) with
    | (none, y) => (y.inc (R.SW_PORT_CNT_TX_NOPAIL p)).copyDrop c bs 6
    | (some off, y) =>
      let tx : Tx := ⟨off, 0, c.fr.input, bs.length, c.fr.stamp, bits c.fr.act0 7 0, q, actMirror c.fr, copySeq c, y.lanB p, false⟩
      (y.copyStore c off bs).setOutQ p q (y.outQ p q ++ [tx])

/-- A copy goes to engine ingress or the press in a pail of its own (R108). -/
def toPail (y : Byre) (c : Copy) (bs : List Byte) (f : Byre → Nat → Byre) : Byre :=
  match y.alloc c.req bs.length with
  | (none, y) => y
  | (some off, y) => f (y.copyStore c off bs) off

/-- A copy goes to output 26 (R108): straight to the vat or the DRAM.  No rule says to which address, so both are free values
(DESIGN CHOICE, assumption log entry 85); as every tanker's write, one to the vat needs a bank of a tanker channel (R283). -/
def toTanker (y : Byre) (bs : List Byte) : Byre :=
  let a := Config.tankOut y.free
  let dram := Config.tankOutDram y.free
  let y := y.useFree
  if dram then (if a + bs.length ≤ y.dramSize then y.dramWrite a bs else y)
  else if a + bs.length ≤ 0xC00000 ∧ (16 ≤ y.bankOwner (a / 0x40000) ∧ y.bankOwner (a / 0x40000) < 32) ∧
      a / 0x40000 = (a + bs.length - 1) / 0x40000 ∧ y.bankAsleep (a / 0x40000) = false then y.pailWrite a bs
  else y

/-- A whole copy at its output; what the host path receives is answered (R433). -/
def arrive (y : Byre) (c : Copy) : Option (Nat × List Byte) × Byre :=
  let bs := y.copyBytes c
  let o := c.out
  match c.lost with
  | 0 =>
    if o < 24 then (none, y.toPort o c bs)
    else if (o = 24 ∨ o = 25) ∧ y.st = stFAULTED then (none, y.incBy R.SW_CNT_CELL_DISCARD c.cells)
    else if o = 24 then (none, y.toPail c bs fun y off =>
      { y.setTag off c.fr.rct with ingq := y.ingq ++ [(off, bs.length, c.fr.rotaOp, c.fr.verdict, c.fr.index)] })
    else if o = 25 then (none, y.toPail c bs fun y off =>
      { y.setTag off c.fr.rct with pressq := y.pressq ++ [{ c.fr with pail := off, off := 0, len := bs.length }] })
    else if o = 27 then (some (c.fr.stamp, bs), y)
    else (none, y.toTanker bs)
  | 1 => (none, y.copyDrop c bs 7)
  | _ => (none, y)

/-- SWITCH_FRAME_DELIVERY: the core's slots run until the oldest copy from input `i` to output `o` has left the resequencer whole, and
the copy arrives.  Where the output withholds its credits (R185, R209) it waits. -/
def deliver (y : Byre) (i o : Nat) : Option (Nat × List Byte) × Byre :=
  let y := y.coreTo
  match y.copies.find? fun c => c.out == o && c.fr.input == i with
  | none => (none, y)
  | some c =>
    let y := coreRun (fun z => z.copies.any fun d => d.id == c.id && d.got == d.cells) y.coreFuel y
    match y.copies.find? fun d => d.id == c.id && d.got == d.cells with
    | none => (none, y)
    | some c => { y with copies := y.copies.filter fun d => d.id != c.id }.arrive c

end Byre

namespace State

/-- A frame for the creamery's host queue of 64 (R433). -/
def hostFrame (s : State) (b : Fin 6) (r : Option (Nat × List Byte)) : State :=
  match r with
  | none => s
  | some f =>
    s.onCrm fun c =>
      let q := SMap.get (fun _ => []) c.hostRx b
      if q.length < 64 then { c with hostRx := SMap.set (fun _ => []) c.hostRx b (q ++ [f]) }
      else { c with hostDrop := SMap.set (fun _ => 0) c.hostDrop b (SMap.get (fun _ => 0) c.hostDrop b + 1) }

end State

/-- SWITCH_FRAME_DELIVERY (R108). -/
def execSwitchFrameDelivery (b : Fin 6) (i o : Fin 28) (s : State) : Host.Outcome State Fault Refusal :=
  .next (if s.on b domFAB then
    let (r, y) := (s.byre b).deliver i o
    (s.onByre b fun _ => y.retxGo).hostFrame b r
  else s)

end Sys2Proof.Machine
end

