-- ==== Sys2Proof/Machine/Launch.lean ====
section
/-!
DEFINITION. Results, the launch calendar, event pins, GOOSE publication and the registers of the subscription monitor
(chapter 11).
-/

namespace Sys2Proof.Machine

/-- Parity spaces of result slots, calendars, publication states and publication entries. -/
abbrev spRes : Nat := 15
abbrev spCal : Nat := 16
abbrev spPub : Nat := 18
abbrev spPubEnt : Nat := 23

/-- Result kinds of R319. -/
abbrev kEMPTY : Nat := 0
abbrev kLEVEL : Nat := 1
abbrev kFRAME : Nat := 2
abbrev kGOOSE : Nat := 3

/-- A result as the two staged words hold it. -/
def resOf (w0 w1 : Nat) : Res := ⟨bits w0 1 0, bit w0 2, bits w0 15 8, bits w0 27 16, bits w1 23 0⟩

/-- Are the words free of reserved bits and encodings (R319)? -/
def resOk (w0 w1 : Nat) : Bool :=
  bits w0 7 3 == 0 && bits w0 31 28 == 0 && bits w1 31 24 == 0 &&
  (match bits w0 1 0 with
   | 2 => decide (14 ≤ bits w0 27 16) && decide (bits w0 27 16 ≤ 2044)
   | 3 => decide (1 ≤ bits w0 27 16) && decide (bits w0 27 16 ≤ 1724)
   | _ => bits w1 23 0 == 0)

/-- The byte pattern of UtcTime for a UTC instant and a TimeQuality (R33, R334; layout PRESUMED from IEC 61850-8-1,
assumption log entry 24). -/
def utcTime (t tq : Nat) : Nat := t / 1000000000 % 2 ^ 32 * 2 ^ 32 + t % 1000000000 * 2 ^ 24 / 1000000000 * 256 + tq

/-- stNum and sqNum after a value (R336). -/
def nextNum (v : Nat) : Nat := if v = 4294967295 then 1 else v + 1

namespace Byre

/-! ### Staging and commit (R318 to R321) -/

/-- A write of RES_W1 (R318). -/
def resStage (y : Byre) (e t : Nat) (w1 : Nat) : Byre :=
  let th := y.thread e t
  let slot := th.resSlot.toNat
  let w0 := th.resW0.toNat
  let r := resOf w0 w1
  let ans := fun (y : Byre) (c : Nat) => y.onThread e t fun th => { th with resStat := BitVec.ofNat 32 c }
  match th.op with
  | none => ans y 1
  | some o =>
    if o.ent.cls = 2 then ans y 1
    else if 1023 < slot then ans y 2
    else if !resOk w0 w1 then ans y 3
    else if 2 ≤ r.kind ∧ !((y.pailPool r.pail).isSome && y.pailUsed r.pail) then ans y 4
    else ans { y with staged := y.staged ++ [⟨slot, r, o.ent.seq, o.ent.id, o.ent.tick, none⟩] } 0

/-- Let the pails of results go where nothing holds them any more. -/
def letGoAll (y : Byre) (rs : List Res) : Byre :=
  ((rs.filter fun r => 2 ≤ r.kind ∧ r.pail < 2 ^ 24).map (·.pail)).eraseDups.foldl letGo y

/-- The committed result of a slot. -/
def result (y : Byre) (slot : Nat) : Res := SMap.get (fun _ => ⟨0, false, 0, 0, 0⟩) y.results slot

/-- The winner among staged results of one slot (R320): the highest OP_ID, and the last staging within it. -/
def winner : List Staged → Option Staged
  | [] => none
  | g :: gs =>
    match winner gs with
    | none => some g
    | some h => if h.id < g.id then some g else some h

/-- COMMIT of the results of the plan of tick `t` (R320, R321). -/
def commitResults (y : Byre) (t : Tick) : Byre :=
  let mine := y.staged.filter fun g => g.tick == t
  let ok := mine.filter fun g => g.st == some 0
  let slots := (ok.map (·.slot)).eraseDups
  let wins := slots.filterMap fun n => winner (ok.filter fun g => g.slot == n)
  let y := (y.incBy R.CAL_CNT_RES_CONFLICT (ok.length - wins.length)).incBy R.CAL_CNT_RES_DISCARD (mine.length - ok.length)
  let old := y.results.map (·.2)
  let put := fun (acc : SMap Res × Byre) (g : Staged) =>
    let (bad, y) := acc.2.parCheck spRes g.slot
    if bad then (acc.1, y.detect 11 g.slot 0)
    else (SMap.set (fun _ => (⟨0, false, 0, 0, 0⟩ : Res)) acc.1 g.slot g.res, y)
  let (res, y) := wins.foldl put ([], y)
  let y := { y with results := res, staged := y.staged.filter fun g => g.tick != t }
  y.letGoAll (old ++ mine.map (·.res))

/-- An overrun of the plan of tick `t`: no result is committed, every slot becomes empty (R321). -/
def dropResults (y : Byre) (t : Tick) : Byre :=
  let mine := y.staged.filter fun g => g.tick == t
  let old := y.results.map (·.2)
  let y := { y with results := [], staged := y.staged.filter fun g => g.tick != t }.incBy R.CAL_CNT_RES_DISCARD mine.length
  y.letGoAll (old ++ mine.map (·.res))

/-! ### Calendars (R322 to R326) -/

/-- The calendar of a target. -/
def calOf (y : Byre) (g : Nat) : List CalEnt := SMap.get (fun _ => []) y.cal g

/-- The OCC register of a target. -/
def occIdx (g : Nat) : Nat := if g < 24 then g else g - 8

/-- Replace a target's calendar. -/
def setCal (y : Byre) (g : Nat) (l : List CalEnt) : Byre :=
  { y with cal := SMap.set (fun _ => []) y.cal g l }.set (F.CAL_OCC_OCC (occIdx g)) l.length

/-- Insert an entry in order of instant, behind those of the same instant (R324). -/
def insCal (c : CalEnt) : List CalEnt → List CalEnt
  | [] => [c]
  | d :: ds => if d.l ≤ c.l then d :: insCal c ds else c :: d :: ds

/-- Capture a late launch (R325). -/
def lateCap (y : Byre) (g l : Nat) : Byre :=
  if y.flag F.CAL_LATE_CAP_VALID then y
  else ((y.set F.CAL_LATE_CAP_TARGET g).put F.CAL_LATE_CAP_VALID true).wrN R.CAL_LATE_NS (l % 1000000000)

/-- The board delay of a pin, in ns. -/
def pinDly (y : Byre) (m : Nat) : Int := sgn 16 (y.get (F.CAL_PIN_DLY_DLY m)) / 16

/-- The instant at which the byre drives a pin for an entry at `l` (R326). -/
def pinAt (y : Byre) (m l : Nat) : Nat := ((l : Int) - y.pinDly m).toNat

/-! ### GOOSE publication (R333 to R338) -/

/-- A word of a publication entry. -/
def pubWord (y : Byre) (bank n w : Nat) : Nat := (SMap.get (fun _ => 0#32) y.pubTab (bank * 0x4000 + n * 64 + w)).toNat

/-- The state of a publication. -/
def pubState (y : Byre) (n : Nat) : Option PubSt := SMap.get (fun _ => none) y.pubSt n

/-- Set the state of a publication. -/
def setPub (y : Byre) (n : Nat) (s : Option PubSt) : Byre := { y with pubSt := SMap.set (fun _ => none) y.pubSt n s }

/-- Lengths of the strings of an entry. -/
def pubLens (y : Byre) (bank n : Nat) : Nat × Nat × Nat :=
  let w := y.pubWord bank n 10
  (bits w 7 0, bits w 15 8, bits w 23 16)

/-- The retransmission of a publication that waits for input 24 is given up. -/
def pubUnwait (y : Byre) (n : Nat) : Byre := { y with retxq := y.retxq.filter (·.1 != n) }

/-- The curve of a publication's state ends without a new state. -/
def pubStop (y : Byre) (n : Nat) : Byre :=
  match y.pubState n with
  | none => y
  | some s => (y.setPub n (some { s with stopped := true })).pubUnwait n

/-- A publication starts afresh, holding no state (R333, R474). -/
def pubFresh (y : Byre) (n : Nat) : Byre :=
  match y.pubState n with
  | none => y
  | some s => ((y.setPub n none).pubUnwait n).letGo s.pail

/-- Does the state of a publication persist when the banks flip (R333)? -/
def pubKeeps (y : Byre) (a b n : Nat) : Bool :=
  y.pubWord a n 0 % 65536 == y.pubWord b n 0 % 65536 && y.pubWord a n 2 == y.pubWord b n 2 &&
  y.pubWord a n 3 % 65536 == y.pubWord b n 3 % 65536 && y.pubLens a n == y.pubLens b n &&
  ((List.range 48).all fun i => y.pubWord a n (16 + i) == y.pubWord b n (16 + i))

/-- The epoch swap for publications: from bank `a` to bank `b`.  A state that persists while its new entry is not in use is not
retransmitted any more (DESIGN CHOICE, assumption log entry 87). -/
def pubSwap (y : Byre) (a b : Nat) : Byre :=
  (y.pubSt.map (·.1)).foldl (fun y n =>
    if !y.pubKeeps a b n then y.pubFresh n else if bit (y.pubWord b n 0) 31 then y else y.pubStop n) y

/-- Does subscription `n` go on when its entry, as it was in `old`, becomes what bank `b` holds?  One that is new, not in use or has
another entry starts afresh, with state NEVER (R340; DEDUCED from R333, assumption log entry 87). -/
def subKeeps (y : Byre) (old : Nat → Nat) (b n : Nat) : Bool :=
  bit (old 0) 31 && old 0 == y.subWord b n 0 && old 1 == y.subWord b n 1

/-- A subscription starts afresh. -/
def subFresh (y : Byre) (n : Nat) : Byre := y.setSub n ⟨0, 0, 0, 0, 0⟩

/-- The epoch swap for subscriptions: from bank `a` to bank `b`. -/
def subSwap (y : Byre) (a b : Nat) : Byre :=
  (y.subSt.map (·.1)).foldl (fun y n => if y.subKeeps (y.subWord a n) b n then y else y.subFresh n) y

/-- The headers of a publication's frame, up to the allData contents (R332 to R338), from the live entry: `n` allData bytes
and the time allowed to live in ms. -/
def pubHeader (y : Byre) (p : Nat) (s : PubSt) (n tal : Nat) : List Byte :=
  let w := y.pubWord y.bank p
  let (g, d, o) := y.pubLens y.bank p
  let strs := (List.range 48).flatMap fun i => leBytes 4 (w (16 + i))
  let test := bit (w 0) 29 || y.flag F.CHURN_BYRE_TESTQ
  let str := fun (tag : Nat) (lo len : Nat) => berEl tag ((strs.drop lo).take len)
  let body := str 0x80 0 g ++ berEl 0x81 (berUInt tal) ++ str 0x82 g d ++ (if o = 0 then [] else str 0x83 (g + d) o) ++
    berEl 0x84 (beBytes 8 s.t) ++ berEl 0x85 (berUInt s.stNum) ++ berEl 0x86 (berUInt s.sqNum) ++
    berEl 0x87 [if test then 0xFF#8 else 0#8] ++ berEl 0x88 (berUInt (w 6)) ++
    berEl 0x89 [if bit (w 0) 28 then 0xFF#8 else 0#8] ++ berEl 0x8A (berUInt (w 7)) ++ (0xAB#8 :: berLen n)
  let pdu := 0x61#8 :: berLen (body.length + n)
  let len := 8 + pdu.length + body.length + n
  let mac := fun (i : Nat) => leBytes 4 (w i) ++ leBytes 2 (w (i + 1) % 65536)
  mac 2 ++ mac 4 ++ (if bit (w 0) 30 then beBytes 2 0x8100 ++ beBytes 2 (bits (w 3) 31 16) else []) ++ beBytes 2 0x88B8 ++
    beBytes 2 (w 0 % 65536) ++ beBytes 2 len ++ beBytes 2 (if test then 0x8000 else 0) ++ beBytes 2 0 ++ pdu ++ body

/-- timeAllowedtoLive for an interval in ns (R338). -/
def talOf (ival : Nat) : Nat := (2 * ival + 999999) / 1000000

/-- Build the headers in a publication's pail, ending at byte 319: where the frame starts, and its length. -/
def pubBuild (y : Byre) (p : Nat) (s : PubSt) : Nat × Nat × Byre :=
  let h := y.pubHeader p s s.len (talOf s.ival)
  let off := 320 - h.length
  (off, h.length + s.len, y.vatWrite (s.pail + off) h)

/-- The first LAUNCH word of a plan that names a committed GOOSE result decides it (R334): the frame to launch at `l`, or
nothing. -/
def pubDecide (y : Byre) (r : Res) (l : Nat) : Option CalEnt × Byre :=
  let (bad, y) := y.parCheck spPubEnt r.pub
  if bad then (none, y.detectFatal 11 r.pub 0)
  else
    let (lost, y) := y.parCheck spPub r.pub
    let y := if lost then (y.detect 11 r.pub 0).pubFresh r.pub else y
    let w := y.pubWord y.bank r.pub
    if !bit (w 0) 31 ∨ y.pailLen r.pail < 320 + r.len then (none, (y.inc R.CAL_CNT_PUB_BAD).letGo r.pail)
    else
      let data := fun (p : Nat) => y.vatRead (p + 320) r.len
      let same := match y.pubState r.pub with
        | some s => s.len == r.len && data s.pail == data r.pail
        | none => false
      if same then (none, (y.inc R.CAL_CNT_PUB_SAME).letGo r.pail)
      else
        let old := y.pubState r.pub
        let ival := bits (w 8) 15 0 * 1000
        let utc := l - y.utcOfs l * 1000000000
        let s : PubSt := ⟨nextNum ((old.map (·.stNum)).getD 0), 0, utcTime utc (y.get F.TIME_QUAL_TQ), r.pail, r.len, l + ival, ival, false⟩
        let y := ((y.setPub r.pub (some s)).pubUnwait r.pub).inc R.CAL_CNT_PUB_STATE
        let (off, len, y) := y.pubBuild r.pub s
        let rdy := y.now + Config.pubReady y.free % 1001
        let y := y.useFree
        let y := match old with
          | some o => y.letGo o.pail
          | none => y
        (some ⟨l, r.pail, off, len, false, false, rdy⟩, y)

/-- The frame of a GOOSE result on a port, decided once in a plan (R334). -/
def pubEntry (y : Byre) (slot : Nat) (r : Res) (l : Nat) : Option CalEnt × Byre :=
  match y.goDec.find? fun q => q.1 == slot with
  | some (_, d) => (d.map fun c => { c with l := l }, y)
  | none =>
    let y := { y with results := SMap.set (fun _ => (⟨0, false, 0, 0, 0⟩ : Res)) y.results slot { r with kind := kLEVEL } }
    let (d, y) := y.pubDecide r l
    let y := { y with results := SMap.set (fun _ => (⟨0, false, 0, 0, 0⟩ : Res)) y.results slot (if d.isSome then r else { r with kind := kGOOSE, pail := 2 ^ 24 }) }
    (d, { y with goDec := y.goDec ++ [(slot, d)] })

/-- Put a frame in a port's calendar (R323, R325, R335). -/
def calFrame (y : Byre) (p : Nat) (c : CalEnt) : Byre :=
  if 256 ≤ (y.calOf p).length then y.inc R.CAL_CNT_CAL_FULL
  else y.setCal p (insCal { c with late := decide (c.l < y.now) } (y.calOf p))

/-- Put a level in a pin's calendar (R323 to R325). -/
def calLevel (y : Byre) (g l : Nat) (v : Bool) : Byre :=
  let q := y.calOf g
  if 256 ≤ q.length then y.inc R.CAL_CNT_CAL_FULL
  else
    let late := decide (y.pinAt (g - 32) l < y.now)
    let y := if late then (y.inc R.CAL_CNT_PIN_LATE).lateCap g l else y
    let y := if q.any fun c => c.l == l then y.inc R.CAL_CNT_CAL_REPLACE else y
    y.setCal g (insCal ⟨l, 0, 0, 0, v, late, 0⟩ (q.filter fun c => c.l != l))

/-- The LAUNCH word in the plan of tick `t`, numbered at `rate` (R322, R323, R335: a frame's length with its FCS, and on a pair with its
trailer or tag); on the overrun path it writes an empty entry. -/
def launchWord (y : Byre) (g ahead ofs slot : Nat) (t : Tick) (rate : Nat) (overran : Bool) : Byre :=
  let rate := max 1 rate
  let l := tickNs rate (tickOf rate (tickNo rate t + ahead)) + ofs
  let r := if overran then ⟨0, false, 0, 0, 0⟩ else y.result slot
  let pin := decide (32 ≤ g) && decide (g < 48)
  let mism := y.inc R.CAL_CNT_CAL_MISMATCH
  match r.kind with
  | 0 => y.inc R.CAL_CNT_CAL_EMPTY
  | 1 => if pin then y.calLevel g l r.level else mism
  | 2 => if g < 24 then y.calFrame g ⟨l, r.pail, 0, r.len, false, false, 0⟩ else mism
  | _ =>
    if 24 ≤ g then mism
    else
      match y.pubEntry slot r l with
      | (none, y) => y
      | (some c, y) => if y.get (F.SW_PORT_CTRL_MAX_FRAME g) < c.len + (if (y.pairOf g).isSome then 10 else 4) then y.inc R.CAL_CNT_PUB_BAD else y.calFrame g c

/-- The number of a pail launched on a port of pair `n` (R117): the number, and the byre with it used there. -/
def launchNum (y : Byre) (pail n : Nat) (isB : Bool) : Nat × Byre :=
  let z : Nat × Nat × Bool × Bool := (0, 0, false, false)
  let k := pail * 16 + n
  let (q, num, a, b) := SMap.get (fun _ => z) y.pailNo k
  if q ≠ 0 ∧ !(if isB then b else a) then
    (num, { y with pailNo := SMap.set (fun _ => z) y.pailNo k (1, num, a || !isB, b || isB) })
  else
    let num := SMap.get (fun _ => 0) y.pairSeq n
    (num, { y with pairSeq := SMap.set (fun _ => 0) y.pairSeq n ((num + 1) % 65536),
                   pailNo := SMap.set (fun _ => z) y.pailNo k (1, num, !isB, isB) })

/-- PORT_CALENDAR_LAUNCH: the head entry of a port (R110, R111, R326); a frame on a pair takes its number. -/
def portLaunch (y : Byre) (p : Nat) : Byre :=
  match y.calOf p with
  | [] => y
  | c :: rest =>
    let (bad, y) := y.parCheck spCal p
    let y := y.setCal p rest
    if bad then (y.detect 11 p 0).letGo c.pail
    else
      let lead := y.lineNs p 8
      let due := c.l - lead
      let start := max (max due c.ready) (max y.now (y.lineAt p).free)
      if !y.portUp p then ((y.advanceTo c.l).inc (R.SW_PORT_CNT_CAL_DOWN p)).letGo c.pail
      else
        let y := (y.advanceTo start).settle
        let late := c.late || decide (due < start)
        let y := if late then (y.inc (R.SW_PORT_CNT_CAL_LATE p)).lateCap p c.l else y
        let tx := fun (seq : Option Nat) => (⟨c.pail, c.off, 24, c.len, 0, 0, 0, false, seq, y.lanB p, true⟩ : Tx)
        match y.pairOf p with
        | none => y.txStart p (tx none) (start + lead) id
        | some (n, isB) =>
          let (num, y) := y.launchNum c.pail n isB
          let lan := if isB then 0xB else 0xA
          let hsr := y.get (F.SW_PAIR_MODE n) == 2
          y.txStart p { tx (some num) with len := c.len + 6 } (start + lead) fun bs =>
            if hsr then addHsr (bs.take c.len) num lan else addRct (bs.take c.len) num lan

/-! ### Pins (R327 to R331) -/

/-- A capture (R329, R330): edge at the instant `t`. -/
def capture (y : Byre) (m : Nat) (rise : Bool) (t : Nat) : Byre :=
  let at_ := ((t : Int) - y.pinDly m + (Config.capErr y.free % 21 : Nat) - 10).toNat
  let y := y.useFree
  let (bad, y) := y.queueBad 11 25
  if bad ∨ 64 ≤ y.caps.length then y.inc R.CAL_CNT_CAP_DROP
  else
    let before := y.caps.takeWhile fun c => decide (c.2.2 ≤ at_)
    let y := { y with caps := before ++ [(m, rise, at_)] ++ y.caps.drop before.length }
    let y := ((y.set F.CAL_CAP_LAST_PIN m).put F.CAL_CAP_LAST_EDGE rise).put F.CAL_CAP_LAST_VALID true
    let y := (y.wrN R.CAL_CAP_LAST_SEC (at_ / 1000000000 % 2 ^ 32)).wrN R.CAL_CAP_LAST_NS (at_ % 1000000000)
    let y := if y.flag (F.CAL_PIN_CFG_EVT m) then
        y.event 0x44 ([BitVec.ofNat 8 m, if rise then 1#8 else 0#8, 0#8, 0#8] ++ leBytes 4 (at_ / 1000000000 % 2 ^ 32) ++
          leBytes 4 (at_ % 1000000000))
      else y
    if y.flag (F.CAL_PIN_CFG_REC m) then
      let rate := max 1 y.tu.rate
      y.recTrigger 1 m (tickOf rate (at_ / 1000000000 * rate + at_ % 1000000000 * rate / 1000000000)) at_
    else y

/-- Stop a pin's pulse timer. -/
def pulseStop (y : Byre) (m : Nat) : Byre :=
  { y with pinEnd := SMap.set (fun _ => 0) y.pinEnd m 0 }.put (F.CAL_PIN_STATUS_PULSE m) false

/-- A launched level at an output pin (R327, R329); a pin in another mode drives nothing. -/
def drivePin (y : Byre) (m : Nat) (v : Bool) : Byre :=
  if y.get (F.CAL_PIN_CFG_MODE m) ≠ 2 then y
  else
    let old := y.flag (F.CAL_PIN_STATUS_LEVEL m)
    let us := y.get (F.CAL_PIN_CFG_PULSE_US m)
    let y := y.pulseStop m
    let y := if v != y.flag (F.CAL_PIN_CFG_SAFE m) && us != 0 then
        { y with pinEnd := SMap.set (fun _ => 0) y.pinEnd m (y.tu.clk + us * 1000 + 1) }.put (F.CAL_PIN_STATUS_PULSE m) true
      else y
    let y := (y.put (F.CAL_PIN_STATUS_LEVEL m) v).put (F.CAL_PIN_STATUS_DRIVEN m) true
    if v != old && y.flag (if v then F.CAL_PIN_CFG_RISE m else F.CAL_PIN_CFG_FALL m) then y.capture m v y.now else y

/-- PIN_CALENDAR_LAUNCH: the head entry of a pin. -/
def pinLaunch (y : Byre) (m : Nat) : Byre :=
  match y.calOf (32 + m) with
  | [] => y
  | c :: rest =>
    let (bad, y) := y.parCheck spCal (32 + m)
    let y := y.setCal (32 + m) rest
    if bad then y.detect 11 (32 + m) 0 else (y.advanceTo (y.pinAt m c.l)).drivePin m c.level

/-- PIN_PULSE_EXPIRY: the pin returns to SAFE. -/
def pulseExpire (y : Byre) (m : Nat) : Byre :=
  match SMap.get (fun _ => 0) y.pinEnd m with
  | 0 => y
  | c + 1 =>
    let y := (y.advanceClk c).pulseStop m
    y.put (F.CAL_PIN_STATUS_LEVEL m) (y.flag (F.CAL_PIN_CFG_SAFE m))

/-- PIN_EDGE_CAPTURE: an input pin's change of level is accepted (R329); the level first appeared FILT × 8 ns before. -/
def pinEdge (y : Byre) (m : Nat) (rise : Bool) : Byre :=
  if y.get (F.CAL_PIN_CFG_MODE m) ≠ 1 ∨ y.flag (F.CAL_PIN_STATUS_LEVEL m) = rise then y
  else
    let y := y.put (F.CAL_PIN_STATUS_LEVEL m) rise
    if y.flag (if rise then F.CAL_PIN_CFG_RISE m else F.CAL_PIN_CFG_FALL m) then
      y.capture m rise (y.now - y.get (F.CAL_PIN_FILT_FILT m) * 8)
    else y

/-- A pin's MODE has changed (R327): an output drives SAFE; another mode leaves the pin undriven. -/
def pinMode (y : Byre) (m : Nat) : Byre :=
  if y.get (F.CAL_PIN_CFG_MODE m) = 2 then
    if y.flag (F.CAL_PIN_STATUS_DRIVEN m) then y
    else (y.put (F.CAL_PIN_STATUS_DRIVEN m) true).put (F.CAL_PIN_STATUS_LEVEL m) (y.flag (F.CAL_PIN_CFG_SAFE m))
  else (y.pulseStop m).put (F.CAL_PIN_STATUS_DRIVEN m) false

/-- What the CAL block does when the byre is no longer RUNNING, DEGRADED or TEST (R328). -/
def calStop (y : Byre) : Byre :=
  let held := y.cal.flatMap fun q => if q.1 < 32 then q.2.map (·.pail) else []
  let y := (y.cal.map (·.1)).foldl (fun y g => y.setCal g []) y
  let y := held.eraseDups.foldl letGo y
  let y := (y.pubSt.map (·.1)).foldl pubStop y
  (List.range 16).foldl (fun y m =>
    if y.get (F.CAL_PIN_CFG_MODE m) = 2 then
      (y.pulseStop m).put (F.CAL_PIN_STATUS_LEVEL m) (y.flag (F.CAL_PIN_CFG_SAFE m))
    else y) y

/-- CAP_HEAD (R331): a write removes the head. -/
def capRemove (y : Byre) : Byre := { y with caps := y.caps.drop 1 }

/-- CAP_HEAD, CAP_SEC and CAP_NS as they read. -/
def capHead (y : Byre) : Nat × Nat × Nat :=
  match y.caps with
  | [] => (0, 0, 0)
  | (m, r, t) :: _ => (2 ^ 31 + m * 2 ^ 16 + b2n r * 2 ^ 20, t / 1000000000 % 2 ^ 32, t % 1000000000)

/-! ### Retransmission (R337, R338) -/

/-- Is the pail of a publication still being transmitted? -/
def pubSending (y : Byre) (pail : Nat) : Bool :=
  (y.line.any fun q => q.2.tx.elim false fun t => t.pail == pail) || (y.inq.any fun f => f.keep && f.pail == pail)

/-- GOOSE_RETRANSMIT of publication `p`: a retransmission that finds input 24 full waits until the next instant, and is skipped then
(R96). -/
def pubRetx (y : Byre) (p : Nat) : Byre :=
  match y.pubState p with
  | none => y
  | some s =>
    if !runs y.st ∨ s.stopped then y
    else
      let y := (y.advanceTo s.next).settle.retxGo
      let y := (y.when (y.retxq.any (·.1 == p)) fun y => y.inc R.CAL_CNT_PUB_RETX_SKIP).pubUnwait p
      let w := y.pubWord y.bank p
      let mult := bits (w 8) 19 16
      let ival := min (mult * s.ival) (bits (w 9) 15 0 * 1000000)
      let s := { s with sqNum := nextNum s.sqNum, ival := ival, next := s.next + ival }
      let y := y.setPub p (some s)
      if y.pubSending s.pail then y.inc R.CAL_CNT_PUB_RETX_SKIP
      else
        let (off, len, y) := y.pubBuild p s
        let f := { y.newFrame s.pail len 24 y.now with
          off := off, keep := true, act0 := bits (w 0) 26 24 * 256, act1 := bits (w 1) 21 0 }
        { y with retxq := y.retxq ++ [(p, f)] }.retxGo

/-! ### Subscriptions (R340, R341) -/

/-- SUB_EXPIRY of subscription `n`: the time passes the deadline. -/
def subExpiry (y : Byre) (n : Nat) : Byre :=
  let s := y.subState n
  if s.st = 1 then (y.advanceTo (s.deadline + 1)).subExpire n else y

/-- SUB_STATE of a subscription. -/
def subWordOf (s : SubSt) : Nat := s.st + s.verdict * 16

/-- SUB_SEL (R341). -/
def subSel (y : Byre) (e t n : Nat) : Byre :=
  if 2047 < n then y.onThread e t fun th => { th with subState := 0#32, subSt := 0#32, subSq := 0#32 }
  else
    let (bad, y) := y.parCheck spSub n
    let y := if bad then (y.detect 11 n 0).setSub n { y.subState n with st := 0 } else y
    let s := y.subState n
    y.onThread e t fun th =>
      { th with subState := BitVec.ofNat 32 (subWordOf s), subSt := BitVec.ofNat 32 s.stNum, subSq := BitVec.ofNat 32 s.sqNum }

/-! ### Table registers (R333, R339) -/

/-- Is a publication entry free of reserved bits and encodings (R333)?  In one that is not in use, a word of 0 is none (DESIGN CHOICE:
an empty entry can be written, assumption log entry 87). -/
def pubOk (en : Bool) (w : Nat → Nat) : Bool :=
  let strs := bits (w 10) 7 0 + bits (w 10) 15 8 + bits (w 10) 23 16
  let has := fun (i : Nat) (ok : Bool) => ok || (!en && w i == 0)
  bits (w 0) 27 27 == 0 && bits (w 0) 23 16 == 0 && bits (w 1) 31 22 == 0 && bits (w 5) 31 16 == 0 &&
  has 8 (bits (w 8) 31 20 == 0 && decide (100 ≤ bits (w 8) 15 0) && decide (1 ≤ bits (w 8) 19 16) && decide (bits (w 8) 19 16 ≤ 8)) &&
  has 9 (bits (w 9) 31 16 == 0 && decide (1 ≤ bits (w 9) 15 0) && decide (bits (w 9) 15 0 ≤ 60000)) &&
  has 10 (bits (w 10) 31 24 == 0 && decide (1 ≤ bits (w 10) 7 0) && decide (1 ≤ bits (w 10) 15 8) && decide (strs ≤ 192)) &&
  ((List.range 5).all fun i => w (11 + i) == 0)

/-- Read a publication entry. -/
def pubRead (y : Byre) (bank n : Nat) : Byre :=
  ((List.range 64).foldl (fun y j => y.wrN (R.CAL_PUB_DATA j) (y.pubWord bank n j)) y).set F.CAL_PUB_STATUS_RESULT 0

/-- Write a publication entry; reserved bits and encodings are refused in an entry that is not in use too (R153, R333). -/
def pubWrite (y : Byre) (bank n : Nat) : Byre :=
  let w := fun j => y.rdN (R.CAL_PUB_DATA j)
  if !pubOk (bit (w 0) 31) w then y.set F.CAL_PUB_STATUS_RESULT 5
  else
    let tab := (List.range 64).foldl (fun m j => SMap.set (fun _ => 0#32) m (bank * 0x4000 + n * 64 + j) (BitVec.ofNat 32 (w j))) y.pubTab
    (({ y with pubTab := tab }.parClear spPubEnt n).tableWritten bank).set F.CAL_PUB_STATUS_RESULT 0

/-- Read a publication's state. -/
def pubStRead (y : Byre) (n : Nat) : Byre :=
  let s : PubSt := (y.pubState n).getD ⟨0, 0, 0, 0, 0, 0, 0, false⟩
  let y := (((y.wrN (R.CAL_PUB_DATA 0) s.stNum).wrN (R.CAL_PUB_DATA 1) s.sqNum).wrN (R.CAL_PUB_DATA 2) s.pail).wrN (R.CAL_PUB_DATA 3)
    (s.next / 1000000000 % 2 ^ 32)
  (y.wrN (R.CAL_PUB_DATA 4) (s.next % 1000000000)).set F.CAL_PUB_STATUS_RESULT 0

/-- Read a subscription entry. -/
def subRead (y : Byre) (bank n : Nat) : Byre :=
  ((List.range 4).foldl (fun y j => y.wrN (R.CAL_SUB_DATA j) (if j < 2 then y.subWord bank n j else 0)) y).set F.CAL_SUB_STATUS_RESULT 0

/-- Write a subscription entry. -/
def subWrite (y : Byre) (bank n : Nat) : Byre :=
  let w := fun j => y.rdN (R.CAL_SUB_DATA j)
  if bits (w 0) 28 0 != 0 || w 2 != 0 || w 3 != 0 then y.set F.CAL_SUB_STATUS_RESULT 5
  else
    let tab := (List.range 2).foldl (fun m j => SMap.set (fun _ => 0#32) m (bank * 0x1000 + n * 2 + j) (BitVec.ofNat 32 (w j))) y.subTab
    let old := y.subWord bank n
    let y := ({ y with subTab := tab }.tableWritten bank).set F.CAL_SUB_STATUS_RESULT 0
    y.when (bank = y.bank && !y.subKeeps old bank n) fun y => y.subFresh n

/-- Read a subscription's state. -/
def subStRead (y : Byre) (n : Nat) : Byre :=
  let s := y.subState n
  let y := ((y.wrN (R.CAL_SUB_DATA 0) (subWordOf s)).wrN (R.CAL_SUB_DATA 1) s.stNum).wrN (R.CAL_SUB_DATA 2) s.sqNum
  (y.wrN (R.CAL_SUB_DATA 3) (s.deadline % 1000000000)).set F.CAL_SUB_STATUS_RESULT 0

/-- The operation that BYx_CAL_PUB_CMD names. -/
def pubGo (y : Byre) : Byre :=
  let bank := y.get F.CAL_PUB_CMD_BANK
  let n := y.get F.CAL_PUB_CMD_INDEX
  match y.get F.CAL_PUB_CMD_OP with
  | 0 => y.pubRead bank n
  | 1 => y.pubWrite bank n
  | _ => y.pubStRead n

/-- The operation that BYx_CAL_SUB_CMD names. -/
def subGo (y : Byre) : Byre :=
  let bank := y.get F.CAL_SUB_CMD_BANK
  let n := y.get F.CAL_SUB_CMD_INDEX
  match y.get F.CAL_SUB_CMD_OP with
  | 0 => y.subRead bank n
  | 1 => y.subWrite bank n
  | _ => y.subStRead n

end Byre

/-! ### Commands -/

/-- RESULT_STAGE (R318): a thread writes RES_W1. -/
def execResultStage (b : Fin 6) (e : Fin 32) (t : Fin 8) (w1 : Word) (s : State) : Host.Outcome State Fault Refusal :=
  .next (if s.engOn b e then s.onByre b fun y => y.resStage e t w1.toNat else s)

/-- SUB_SEL_LATCH (R341): a thread writes SUB_SEL. -/
def execSubSelLatch (b : Fin 6) (e : Fin 32) (t : Fin 8) (n : Word) (s : State) : Host.Outcome State Fault Refusal :=
  .next (if s.engOn b e then s.onByre b fun y => y.subSel e t n.toNat else s)

/-- CAPTURE_HEAD_REMOVE (R331): a thread of engine `e` writes CAP_HEAD. -/
def execCaptureHeadRemove (b : Fin 6) (e : Fin 32) (s : State) : Host.Outcome State Fault Refusal :=
  .next (if s.engOn b e then s.onByre b Byre.capRemove else s)

/-- PORT_CALENDAR_LAUNCH (R326). -/
def execPortCalendarLaunch (b : Fin 6) (p : Fin 24) (s : State) : Host.Outcome State Fault Refusal :=
  .next (s.onClock b fun y => y.portLaunch p)

/-- PIN_CALENDAR_LAUNCH (R327). -/
def execPinCalendarLaunch (b : Fin 6) (m : Fin 16) (s : State) : Host.Outcome State Fault Refusal :=
  .next (s.onClock b fun y => y.pinLaunch m)

/-- PIN_PULSE_EXPIRY (R327). -/
def execPinPulseExpiry (b : Fin 6) (m : Fin 16) (s : State) : Host.Outcome State Fault Refusal :=
  .next (s.onClock b fun y => y.pulseExpire m)

/-- PIN_EDGE_CAPTURE (R329): a change of level is accepted `dt` ns after the byre's last step. -/
def execPinEdgeCapture (b : Fin 6) (m : Fin 16) (dt : Nat) (rise : Bool) (s : State) : Host.Outcome State Fault Refusal :=
  .next (s.onFab b fun y => (y.advance dt).pinEdge m rise)

/-- GOOSE_RETRANSMIT (R337). -/
def execGooseRetransmit (b : Fin 6) (n : BitVec 8) (s : State) : Host.Outcome State Fault Refusal :=
  .next (s.onClock b fun y => y.pubRetx n.toNat)

/-- SUB_EXPIRY (R340). -/
def execSubExpiry (b : Fin 6) (n : BitVec 11) (s : State) : Host.Outcome State Fault Refusal :=
  .next (s.onClock b fun y => y.subExpiry n.toNat)

/-- A write of BYx_CAL_PUB_CMD: an entry write that names the live bank of a RUNNING or DEGRADED byre is locked (R19, R333). -/
def State.pubCmd (s : State) (b : Fin 6) (m : Master) (v : Nat) : State :=
  s.goWrite b m R.CAL_PUB_CMD v (fun y => y.get F.CAL_PUB_CMD_OP == 1 && y.lockedBank F.CAL_PUB_CMD_BANK)
    (fun y => y.set F.CAL_PUB_STATUS_RESULT 1) Byre.pubGo

/-- A write of BYx_CAL_SUB_CMD: an entry write that names the live bank of a RUNNING or DEGRADED byre is locked (R19, R339). -/
def State.subCmd (s : State) (b : Fin 6) (m : Master) (v : Nat) : State :=
  s.goWrite b m R.CAL_SUB_CMD v (fun y => y.get F.CAL_SUB_CMD_OP == 1 && y.lockedBank F.CAL_SUB_CMD_BANK)
    (fun y => y.set F.CAL_SUB_STATUS_RESULT 1) Byre.subGo

/-- The word of BYx_CAL_PUB_CMD and of BYx_CAL_SUB_CMD with GO. -/
def calCmdWord (op : Nat) (bank : Bool) (n : Nat) : Nat := 2147483648 + op * 2 ^ 29 + b2n bank * 2 ^ 28 + n

/-- PUB_ENTRY_READ (R333). -/
def execPubEntryRead (b : Fin 6) (m : Master) (bank : Bool) (n : BitVec 8) (s : State) : Host.Outcome State Fault Refusal :=
  .next (s.pubCmd b m (calCmdWord 0 bank n.toNat))

/-- PUB_ENTRY_WRITE (R333). -/
def execPubEntryWrite (b : Fin 6) (m : Master) (bank : Bool) (n : BitVec 8) (s : State) : Host.Outcome State Fault Refusal :=
  .next (s.pubCmd b m (calCmdWord 1 bank n.toNat))

/-- PUB_STATE_READ (R333). -/
def execPubStateRead (b : Fin 6) (m : Master) (bank : Bool) (n : BitVec 8) (s : State) : Host.Outcome State Fault Refusal :=
  .next (s.pubCmd b m (calCmdWord 2 bank n.toNat))

/-- SUB_ENTRY_READ (R339). -/
def execSubEntryRead (b : Fin 6) (m : Master) (bank : Bool) (n : BitVec 11) (s : State) : Host.Outcome State Fault Refusal :=
  .next (s.subCmd b m (calCmdWord 0 bank n.toNat))

/-- SUB_ENTRY_WRITE (R339). -/
def execSubEntryWrite (b : Fin 6) (m : Master) (bank : Bool) (n : BitVec 11) (s : State) : Host.Outcome State Fault Refusal :=
  .next (s.subCmd b m (calCmdWord 1 bank n.toNat))

/-- SUB_STATE_READ (R339). -/
def execSubStateRead (b : Fin 6) (m : Master) (bank : Bool) (n : BitVec 11) (s : State) : Host.Outcome State Fault Refusal :=
  .next (s.subCmd b m (calCmdWord 2 bank n.toNat))

end Sys2Proof.Machine
end

