-- ==== Sys2Proof/Machine/Tugus.lean ====
section
/-!
DEFINITION. The Tugus links, cans and their routing, shares and the tunnel (chapter 12).
-/

namespace Sys2Proof.Machine

/-- Parity space of share entries. -/
abbrev spShare : Nat := 22

/-! ### Cans (R347, R348) -/

/-- Words 0 and 1 of a can. -/
def canW0 (c : Can) : Nat := c.dst % 2 ^ 17 + c.vc % 4 * 2 ^ 17 + c.hops % 8 * 2 ^ 19 + b2n c.giveup * 2 ^ 22 + c.typ % 256 * 2 ^ 24
def canW1 (c : Can) : Nat := c.src % 2 ^ 17 + c.herd % 64 * 2 ^ 17 + c.lseq % 256 * 2 ^ 23 + b2n c.tqok * 2 ^ 31

/-- Bytes 0 to 239 of a can. -/
def canBody (c : Can) : List Byte :=
  leBytes 4 (canW0 c) ++ leBytes 4 (canW1 c) ++ leBytes 8 c.launch ++ (c.payload ++ List.replicate 224 0#8).take 224

/-- The 256 bytes of a can. -/
def canBytes (c : Can) : List Byte := canBody c ++ leBytes 4 (crc32c (canBody c)) ++ List.replicate 12 0#8

/-- The can in an image. -/
def canOf (bs : List Byte) : Can :=
  let w0 := leNat (bs.take 4)
  let w1 := leNat ((bs.drop 4).take 4)
  ⟨bits w0 16 0, bits w0 18 17, bits w0 21 19, bit w0 22, bits w0 31 24, bits w1 16 0, bits w1 22 17, bits w1 30 23, bit w1 31,
    leNat ((bs.drop 8).take 8), (bs.drop 16).take 224⟩

/-- Is the CRC of an image right? -/
def canCrcOk (bs : List Byte) : Bool := leNat ((bs.drop 240).take 4) == crc32c (bs.take 240)

/-- Does the TYPE belong to the VC (R348)? -/
def canTypeOk (vc typ : Nat) : Bool :=
  match vc with
  | 0 => typ == 1 || typ == 2
  | 1 => (decide (0x10 ≤ typ) && decide (typ ≤ 0x13)) || typ == 0x20 || typ == 0x21
  | 2 => typ == 0x30
  | _ => decide (0x40 ≤ typ) && decide (typ ≤ 0x7F)

/-- Does an image pass R348? -/
def canOk (bs : List Byte) : Bool :=
  let w0 := leNat (bs.take 4)
  !bit w0 23 && canTypeOk (bits w0 18 17) (bits w0 31 24)

namespace Byre

/-! ### Addresses, roles and links (R344 to R346) -/

/-- The byre's own node, area and member. -/
def ownNode (y : Byre) : Nat := y.get F.TUG_NODE_DEVICE * 8 + y.num
def ownArea (y : Byre) : Nat := y.get F.TUG_NODE_DEVICE / 128
def ownMember (y : Byre) : Nat := y.get F.TUG_NODE_DEVICE % 128

/-- The herd that the byre names; 63 when EN is 0 (R350). -/
def ownHerd (y : Byre) : Nat := if y.flag F.TUG_NODE_EN then y.get F.TUG_NODE_HERD else 63

/-- Is the link a PEER link (R346)?  HERD 63 in an INIT word says that the far end's EN is 0 (R350). -/
def peerLink (y : Byre) (l : Nat) : Bool :=
  let far := y.get (F.TUG_LINK_FAR_HERD l)
  !(y.flag F.TUG_NODE_EN && far != 63 && far == y.get F.TUG_NODE_HERD &&
    y.get (F.TUG_LINK_FAR_NODE l) / 8 != y.get F.TUG_NODE_DEVICE)

/-- State of a link. -/
def linkSt (y : Byre) (l : Nat) : Nat := y.get (F.TUG_LINK_STATUS_STATE l)

/-- A link in INIT that has sent eight INIT words and received one is ACTIVE (R351). -/
def linkActive (y : Byre) (l : Nat) : Byre :=
  let k := y.tugAt l
  if y.linkSt l = 1 ∧ 8 ≤ k.initSent ∧ k.initGot then
    let y := (y.set (F.TUG_LINK_STATUS_STATE l) 2).put (F.TUG_LINK_STATUS_PEER l) (y.peerLink l)
    let y := (List.range 4).foldl (fun y v =>
      (y.set (F.TUG_LINK_TX_CRED_AVAIL l v) (y.get (F.TUG_LINK_TX_CRED_TOTAL l v))).set (F.TUG_LINK_TX_CRED_OUT l v) 0) y
    y.onTug l fun k => { k with txSeq := 0, rxSeq := 0, echoAt := y.tu.clk }
  else y

/-- INIT_WORD_SEND. -/
def initSend (y : Byre) (l : Nat) : Byre :=
  if y.linkSt l = 1 then
    let tot := ((y.tugAt l).tot.foldl (fun (acc : Nat × Nat) v => (acc.1 + v * 2 ^ acc.2, acc.2 + 7)) (0, 5)).1
    let w := y.ownNode * 2 ^ 39 + y.ownHerd * 2 ^ 33 + tot
    (y.onTug l fun k => { k with initSent := k.initSent + 1, wordTyp := 0x3C, word := w }).linkActive l
  else y

/-- INIT_WORD_RECEIVE: the far end's node, herd and TOTAL of the four channels. -/
def initGet (y : Byre) (l node herd tot : Nat) : Byre :=
  if y.linkSt l = 1 then
    let y := (y.set (F.TUG_LINK_FAR_NODE l) node).set (F.TUG_LINK_FAR_HERD l) herd
    let y := (List.range 4).foldl (fun y v => y.set (F.TUG_LINK_TX_CRED_TOTAL l v) (tot / 2 ^ (7 * v) % 128)) y
    (y.onTug l fun k => { k with initGot := true }).linkActive l
  else y

/-! ### Credits (R352, R375) -/

/-- A received can is held; a credit awaits return. -/
def credHold (y : Byre) (l v : Nat) : Byre := y.set (F.TUG_LINK_RX_CRED_HELD l v) (y.get (F.TUG_LINK_RX_CRED_HELD l v) + 1)
def credPend (y : Byre) (l v : Nat) : Byre := y.set (F.TUG_LINK_RX_CRED_RET_PEND l v) (y.get (F.TUG_LINK_RX_CRED_RET_PEND l v) + 1)

/-- A can held without a pail is let go. -/
def credDrop (y : Byre) (l v : Nat) : Byre :=
  (y.set (F.TUG_LINK_RX_CRED_HELD l v) (y.get (F.TUG_LINK_RX_CRED_HELD l v) - 1)).credPend l v

/-- A credit returned by the far end, or restored (R352, R354). -/
def credBack (y : Byre) (l v n : Nat) : Byre :=
  let n := min n (y.get (F.TUG_LINK_TX_CRED_OUT l v))
  (y.set (F.TUG_LINK_TX_CRED_OUT l v) (y.get (F.TUG_LINK_TX_CRED_OUT l v) - n)).set (F.TUG_LINK_TX_CRED_AVAIL l v)
    (y.get (F.TUG_LINK_TX_CRED_AVAIL l v) + n)

/-- The credit of a can that came over a link is returned at once; a can from the tunnel has none. -/
def pendFrom (y : Byre) (l : Option Nat) (v : Nat) : Byre := l.elim y fun l => y.credPend l v

/-! ### Transmission (R352 to R357) -/

/-- Cans queued for a channel of a link. -/
def canQ (y : Byre) (l v : Nat) : List QCan := SMap.get (fun _ => []) y.canq (l * 4 + v)
def setCanQ (y : Byre) (l v : Nat) (q : List QCan) : Byre := { y with canq := SMap.set (fun _ => []) y.canq (l * 4 + v) q }

/-- A can joins the queue of its channel (R357). -/
def canPut (y : Byre) (l : Nat) (c : Can) (pail : Option Nat) (ready : Nat) : Byre :=
  y.setCanQ l c.vc (y.canQ l c.vc ++ [⟨c, pail, ready⟩])

/-- The pail of a can is no longer needed. -/
def canLet (y : Byre) (p : Option Nat) : Byre := p.elim y y.pailReturn

/-- Cans of channels 0 to 2 that are due on a PEER link are dropped (R346). -/
def peerDrop (y : Byre) (l : Nat) : Byre :=
  if !y.flag (F.TUG_LINK_STATUS_PEER l) then y
  else (List.range 3).foldl (fun y v =>
    (y.canQ l v).foldl (fun y q => (y.canLet q.pail).inc R.TUG_CNT_HERD_DROP) (y.setCanQ l v [])) y

/-- The link word that goes out now (R350): the credits it returns are no longer pending. -/
def wordOut (y : Byre) (l : Nat) : Byre :=
  let k := y.tugAt l
  let n := fun v => min 15 (y.get (F.TUG_LINK_RX_CRED_RET_PEND l v))
  let rets := n 0 * 2 ^ 30 + n 1 * 2 ^ 34 + n 2 * 2 ^ 38 + n 3 * 2 ^ 42
  let w := (k.rxSeq + 255) % 256 * 2 ^ 48 + b2n k.refusing * 2 ^ 47 + b2n (k.acked || k.refusing) * 2 ^ 46 + rets
  let y := (List.range 4).foldl (fun y v => y.set (F.TUG_LINK_RX_CRED_RET_PEND l v) (y.get (F.TUG_LINK_RX_CRED_RET_PEND l v) - n v)) y
  y.onTug l fun k => { k with wordTyp := 0xC3, word := w }

/-- The transmitter's fields of a can as it leaves (R347), and the can's bytes on the line. -/
def canLaunch (y : Byre) (l : Nat) (c : Can) : Can × Byre :=
  let (t, y) := y.stampAt y.now (y.boardDelay (R.TIME_EGR_DLY (22 + l)) y.tu.clk)
  let c := { c with giveup := c.giveup || (y.tugAt l).give, tqok := y.tst == tLOCKED, launch := short t }
  (c, (y.inc (R.TUG_LINK_CNT_TX_CANS l)).onTug l fun k => { k with give := false, out := canBytes c })

/-- The channel that sends next (R357): of those with a credit, the first whose oldest can may leave now; where every one of them is a
forwarded can that is not due yet, the first to be due. -/
def canNext (y : Byre) (l : Nat) : Option (Nat × QCan) :=
  let heads := (List.range 4).filterMap fun v =>
    if y.get (F.TUG_LINK_TX_CRED_AVAIL l v) = 0 then none else (y.canQ l v).head?.map fun q => (v, q)
  match heads.find? fun h => decide (h.2.ready ≤ y.tu.clk) with
  | some h => some h
  | none => heads.find? fun h => heads.all fun i => decide (h.2.ready ≤ i.2.ready)

/-- A can slot: a link word, and the can that is due (R349, R352, R354, R357). -/
def canTransmit (y : Byre) (l : Nat) : Byre :=
  if y.linkSt l ≠ 2 then y
  else
    let y := (y.wordOut l).peerDrop l
    let k := y.tugAt l
    match k.retry[k.sent]? with
    | some r =>
      let (c, y) := y.canLaunch l r.can
      y.onTug l fun k => { k with retry := k.retry.set k.sent { r with can := c, at_ := y.tu.clk }, sent := k.sent + 1 }
    | none =>
      if 64 ≤ k.retry.length then y
      else
        match y.canNext l with
        | none => y
        | some (v, q) =>
          let y := (y.advanceClk q.ready).setCanQ l v ((y.canQ l v).drop 1)
          let y := (y.set (F.TUG_LINK_TX_CRED_AVAIL l v) (y.get (F.TUG_LINK_TX_CRED_AVAIL l v) - 1)).set (F.TUG_LINK_TX_CRED_OUT l v)
            (y.get (F.TUG_LINK_TX_CRED_OUT l v) + 1)
          let (c, y) := y.canLaunch l { q.can with hops := q.can.hops + 1, lseq := k.txSeq, giveup := false }
          let y := y.onTug l fun k =>
            { k with retry := k.retry ++ [⟨c, 0, y.tu.clk⟩], sent := k.sent + 1, txSeq := (k.txSeq + 1) % 256 }
          y.canLet q.pail

/-- The oldest unacknowledged can has failed (R354). -/
def canFail (y : Byre) (l : Nat) : Byre :=
  let k := y.tugAt l
  match k.retry with
  | [] => y
  | r :: rest =>
    if k.sent = 0 then y
    else if r.fails = 0 then
      (y.inc (R.TUG_LINK_CNT_RETRY l)).onTug l fun k => { k with retry := { r with fails := 1 } :: rest, sent := 0 }
    else
      ((y.inc (R.TUG_LINK_CNT_CAN_LOST l)).credBack l r.can.vc 1).onTug l fun k => { k with retry := rest, sent := 0, give := true }

/-- LINK_WORD_RECEIVE (R353, R354): an acknowledgement, which covers cans that wait to be sent again too, a refusal of the can after it,
and returned credits.  `late`: the refusal is of a send before the latest one, which has failed already (assumption log entry 89). -/
def wordGet (y : Byre) (l : Nat) (valid : Bool) (ack : Nat) (nak late : Bool) (rets : Nat) : Byre :=
  if y.linkSt l ≠ 2 then y
  else
    let y := (List.range 4).foldl (fun y v => y.credBack l v (rets / 2 ^ (4 * v) % 16)) y
    if !valid then y
    else
      let k := y.tugAt l
      let n := (k.retry.findIdx? fun r => r.can.lseq == ack).elim 0 (· + 1)
      let y := y.onTug l fun k => { k with retry := k.retry.drop n, sent := k.sent - n }
      if nak && !late then y.canFail l else y

/-- RETRY_TIMEOUT (R354). -/
def retryTimeout (y : Byre) (l : Nat) : Byre :=
  match (y.tugAt l).retry with
  | [] => y
  | r :: _ =>
    if y.linkSt l ≠ 2 ∨ (y.tugAt l).sent = 0 then y
    else (y.advanceClk (r.at_ + y.get F.TUG_LINK_CFG_RETRY_NS)).canFail l

/-! ### Shares (R364, R365) -/

/-- The entry of a sender's group in the live bank; none inside where no entry matches. -/
def shareFind (y : Byre) (src grp : Nat) : Option Nat :=
  (List.range 256).find? fun n =>
    let w := y.shrWord y.bank n 0
    bit w 31 && bits w 30 28 == grp && bits w 16 0 == src

/-- Change the record of a share of an open tick. -/
def onShare (y : Byre) (g : Nat) (t : Tick) (n : Nat) (f : ShareRec → ShareRec) : Byre :=
  let same := fun (s : ShareRec) => s.g == g && s.t == t && s.n == n
  if y.shares.any same then { y with shares := y.shares.map fun s => if same s then f s else s }
  else { y with shares := y.shares ++ [f ⟨g, t, n, [], 0, false⟩] }

/-- A fragment of a share has come since its group started (R173). -/
def shareSeen (y : Byre) (g n : Nat) : Byre :=
  let k := g * 256 + n
  let run := (SMap.get (fun _ => (0, false)) y.shareRun k).1
  { y with shareRun := SMap.set (fun _ => (0, false)) y.shareRun k (run, true) }

/-- Place a SHARE can that arrived at the instant `at_`. -/
def sharePlace (y : Byre) (c : Can) (at_ : Nat) : Byre :=
  let p := c.payload
  let frag := leNat ((p.drop 8).take 2)
  let nfrag := leNat ((p.drop 10).take 2)
  match y.tableParity 13 ((List.range 256).map fun n => (spShare, y.bank * 256 + n)) with
  | some y => y
  | none =>
    match y.shareFind c.src (leNat ((p.drop 6).take 1)) with
    | none => y.inc R.TUG_CNT_SHARE_UNKNOWN
    | some n =>
      let g := bits (y.shrWord y.bank n 1) 26 24
      let off := bits (y.shrWord y.bank n 1) 16 0 * 8
      let len := bits (y.shrWord y.bank n 2) 23 0
      let t : Tick := ⟨y.nearSec (leNat (p.take 4)), leNat ((p.drop 4).take 2)⟩
      if nfrag ≠ fragCount len ∨ nfrag ≤ frag ∨ y.tu.rate ≤ t.k then y.inc R.TUG_CNT_SHARE_BAD
      else if !y.tu.issued || decide (tickNo y.tu.rate y.tu.cur < tickNo y.tu.rate t) then y.inc R.TUG_CNT_SHARE_EARLY
      else if y.lateIn g t then
        let y := y.inc R.TUG_CNT_SHARE_LATE
        let y := y.shareSeen g n
        if (y.shares.any fun s => s.g == g && s.t == t && s.n == n) || (y.sealq.any fun q => q.g == g && q.t == t) then
          y.onShare g t n fun s => { s with late := true }
        else y
      else if (y.shares.any fun s => s.g == g && s.t == t && s.n == n && s.frags.contains frag) then y.inc R.TUG_CNT_SHARE_REPEAT
      else
        let a := y.slotAddr y.bank y.tu.rate g t + off
        let m := min 208 (len - frag * 208)
        let y := y.vatWrite (a + 16 + frag * 208) ((p.drop 16).take m)
        let y := (fragWords a len frag).foldl (fun y w => y.parClear 0 w) y
        (y.onShare g t n fun s => { s with frags := s.frags ++ [frag], arrival := at_ }).shareSeen g n

/-! ### Delivery and routing (R356, R357, R363) -/

/-- CTL_RX_STATUS and CTL_RX_DATA show the head of the control receive queue. -/
def ctlSync (y : Byre) : Byre :=
  let h := (y.ctlRx.head?.map (·.1)).getD []
  let y := (y.put F.TUG_CTL_RX_STATUS_VALID (!y.ctlRx.isEmpty)).set F.TUG_CTL_RX_STATUS_OCC y.ctlRx.length
  (List.range 60).foldl (fun y n => y.wrN (R.TUG_CTL_RX_DATA n) (leNat ((h.drop (4 * n)).take 4))) y

/-- The head of the control receive queue is removed and its credit returned. -/
def ctlPop (y : Byre) : Byre :=
  match y.ctlRx with
  | [] => y
  | (_, l) :: rest => ({ y with ctlRx := rest }.ctlSync |> fun y => l.elim y fun l => y.credDrop l 1)

/-- A pail of 256 bytes for a can of channel `v` from link `l`, written with an image; its freeing returns the credit. -/
def canPailFor (y : Byre) (l : Option Nat) (v : Nat) (bs : List Byte) : Option Nat × Byre :=
  match y.alloc (22 + 4 * l.getD 0 + v) 256 with
  | (none, y) => (none, (y.inc R.TUG_CNT_RX_NOPAIL).pendFrom l v)
  | (some off, y) =>
    let y := y.pailWrite off bs
    (some off, l.elim y fun l => { y with canPail := SMap.set (fun _ => 0) y.canPail off (l * 4 + v + 1) }.credHold l v)

/-- A can addressed to the node (R363). -/
def canLocal (y : Byre) (c : Can) (l : Option Nat) (at_ : Nat) : Byre :=
  match c.vc with
  | 1 =>
    if 64 ≤ y.ctlRx.length then (y.inc R.TUG_CNT_CTL_DROP).pendFrom l 1
    else
      let y := { y with ctlRx := y.ctlRx ++ [(canBytes c, l)] }.ctlSync
      l.elim y fun l => y.credHold l 1
  | 2 => (y.sharePlace c at_).pendFrom l 2
  | _ =>
    if y.get F.TUG_BULK_OP_ROTA_OP = 0xFFFF then (y.inc R.TUG_CNT_BAD_CAN).pendFrom l 3
    else
      match y.canPailFor l 3 (canBytes c) with
      | (none, y) => y
      | (some off, y) => { y with ingq := y.ingq ++ [(off, 256, y.get F.TUG_BULK_OP_ROTA_OP, 0, 0xFFFF)] }

/-- A route field: 0 drop, 1 T0, 2 T1, 3 tunnel. -/
def routeField (y : Byre) (base i : Nat) : Nat := bits (y.rdN (base + i / 16 * 4)) (2 * (i % 16) + 1) (2 * (i % 16))

/-- The route of a destination that is not the own node (R356). -/
def routeOf (y : Byre) (dst : Nat) : Nat :=
  if dst / 8 = y.get F.TUG_NODE_DEVICE then y.routeField (R.TUG_ROUTE_MEMBER 0) y.ownMember
  else if dst / 1024 = y.ownArea then y.routeField (R.TUG_ROUTE_MEMBER 0) (dst / 8 % 128)
  else y.routeField (R.TUG_ROUTE_AREA 0) (dst / 1024)

/-- A can joins the tunnel queue in a pail, with its CRC computed (R373): false where the queue is full. -/
def tunPut (y : Byre) (c : Can) (l : Option Nat) : Byre :=
  let c := { c with launch := short y.now, tqok := y.tst == tLOCKED, lseq := 0, giveup := false }
  match y.canPailFor l c.vc (canBytes c) with
  | (none, y) => y
  | (some off, y) => { y with tunq := y.tunq ++ [off] }

/-- A received can that is not for this node (R356, R357). -/
def canForward (y : Byre) (c : Can) (l : Option Nat) : Byre :=
  if 7 ≤ c.hops then (y.inc R.TUG_CNT_HOP_DROP).pendFrom l c.vc
  else
    let out := y.routeOf c.dst
    if out = 0 ∨ l = some (out - 1) then (y.inc R.TUG_CNT_ROUTE_DROP).pendFrom l c.vc
    else if out = 3 then
      let (bad, y) := y.queueBad 13 27
      if bad ∨ 64 ≤ y.tunq.length then (y.inc R.TUG_CNT_TUN_QFULL).pendFrom l c.vc else y.tunPut c l
    else
      match y.canPailFor l c.vc (canBytes c) with
      | (none, y) => y
      | (some off, y) => y.canPut (out - 1) c (some off) (y.tu.clk + 400)

/-- A can that the unit has received: delivered or forwarded. -/
def canTake (y : Byre) (c : Can) (l : Option Nat) (at_ : Nat) : Byre :=
  if c.dst = y.ownNode then y.canLocal c l at_ else y.canForward c l

/-- A full instant from a short form (R31). -/
def fromShort (y : Byre) (v : Nat) : Nat := y.nearSec (v / 2 ^ 32) * 1000000000 + v % 2 ^ 32

/-- The HERD_TIME event of R359 and R374: at most one per second. -/
def herdTimeEvt (y : Byre) (last which src : Nat) (d : Int) : Bool × Byre :=
  if last ≠ 0 ∧ y.tu.clk < last - 1 + 1000000000 then (false, y)
  else (true, y.event 0x32 ([BitVec.ofNat 8 which, 0#8, 0#8, 0#8] ++ leBytes 4 src ++ leBytes 4 (pat 32 d)))

/-- The time check of R359 on a received can. -/
def canTime (y : Byre) (l : Nat) (c : Can) (a : Nat) : Byre :=
  if y.flag (F.TUG_LINK_STATUS_PEER l) || !c.tqok || !y.flag (F.TUG_LINK_STATUS_DLY_VALID l) || y.tst != tLOCKED then y
  else
    let d : Int := (a : Int) - y.fromShort c.launch - y.rdN (R.TUG_LINK_DLY l)
    if d.natAbs ≤ y.get F.TUG_TIME_CFG_THRESH_NS then y
    else
      let y := (y.inc (R.TUG_LINK_CNT_TIME_MISMATCH l)).put (F.TUG_LINK_STATUS_TIME_ALARM l) true
      let y := if y.flag F.TUG_TIME_CAP_VALID then y
        else (((y.set F.TUG_TIME_CAP_LINK l).set F.TUG_TIME_CAP_SRC c.src).put F.TUG_TIME_CAP_VALID true).wrN R.TUG_TIME_CAP_OFS (pat 32 d)
      let (sent, y) := y.herdTimeEvt (y.tugAt l).evtAt l c.src d
      if sent then y.onTug l fun k => { k with evtAt := y.tu.clk + 1 } else y

/-- An ECHO_RESP completes an exchange (R358): t1 and t2 from its payload, t3 its LAUNCH, t4 its arrival. -/
def echoDone (y : Byre) (l : Nat) (c : Can) (t4 : Nat) : Byre :=
  let t1 : Int := y.fromShort (leNat (c.payload.take 8))
  let t2 : Int := y.fromShort (leNat ((c.payload.drop 8).take 8))
  let t3 : Int := y.fromShort c.launch
  let dly := ((t4 : Int) - t1 - (t3 - t2)) / 2
  let ofs := ((t2 - t1) - ((t4 : Int) - t3)) / 2
  let y := y.inc (R.TUG_LINK_CNT_ECHO l)
  if 0 ≤ dly ∧ dly ≤ 50000 then
    ((y.wrN (R.TUG_LINK_DLY l) dly.toNat).wrN (R.TUG_LINK_OFS l) (pat 32 ofs)).put (F.TUG_LINK_STATUS_DLY_VALID l) true
  else y.inc (R.TUG_LINK_CNT_DLY_BAD l)

/-- What becomes of an accepted can (R348, R352, R358, R359). -/
def canAccepted (y : Byre) (l : Nat) (bs : List Byte) : Byre :=
  let c := canOf bs
  let (a, y) := y.stampAt y.now (-(y.boardDelay (R.TIME_ING_DLY (22 + l)) y.tu.clk))
  let y := (y.inc (R.TUG_LINK_CNT_RX_CANS l)).put (F.TUG_LINK_STATUS_FAR_TQ l) c.tqok
  if (y.tugAt l).tot.getD c.vc 0 ≤ y.get (F.TUG_LINK_RX_CRED_HELD l c.vc) + y.get (F.TUG_LINK_RX_CRED_RET_PEND l c.vc) then
    y.inc (R.TUG_LINK_CNT_CREDIT_VIOL l)
  else
    if !canOk bs then (y.inc R.TUG_CNT_BAD_CAN).credPend l c.vc
    else
      let y := y.canTime l c a
      if c.vc = 0 then
        let y := y.credPend l 0
        if c.typ = 1 then y.onTug l fun k => { k with echoDue := k.echoDue ++ [(c.launch, short a)] } else y.echoDone l c a
      else y.canTake c (some l) a

/-- CAN_RECEIVE (R353). -/
def canReceive (y : Byre) (l : Nat) (bs : List Byte) : Byre :=
  if y.linkSt l ≠ 2 then y
  else if !canCrcOk bs then (y.inc (R.TUG_LINK_CNT_CRC_ERR l)).onTug l fun k => { k with refusing := true }
  else
    let c := canOf bs
    let k := y.tugAt l
    if c.lseq = k.rxSeq ∨ (c.giveup ∧ c.lseq = (k.rxSeq + 1) % 256) then
      (y.onTug l fun k => { k with rxSeq := (c.lseq + 1) % 256, refusing := false, acked := true }).canAccepted l bs
    else y.inc (R.TUG_LINK_CNT_SEQ_DISCARD l)

/-! ### Echo (R358) -/

/-- A can of the byre's own: SRC and HERD are the hardware's. -/
def canNew (y : Byre) (dst vc typ : Nat) (payload : List Byte) : Can :=
  ⟨dst, vc, 0, false, typ, y.ownNode, y.get F.TUG_NODE_HERD, 0, false, 0, (payload ++ List.replicate 224 0#8).take 224⟩

/-- ECHO_REQUEST: ECHO_US after the last one. -/
def echoReq (y : Byre) (l : Nat) : Byre :=
  if y.linkSt l ≠ 2 then y
  else
    let y := y.advanceClk ((y.tugAt l).echoAt + y.get F.TUG_TIME_CFG_ECHO_US * 1000)
    (y.canPut l (y.canNew (y.get (F.TUG_LINK_FAR_NODE l)) 0 1 []) none 0).onTug l fun k => { k with echoAt := y.tu.clk }

/-- ECHO_RESPONSE: the answer to the oldest ECHO_REQ received. -/
def echoResp (y : Byre) (l : Nat) : Byre :=
  match (y.tugAt l).echoDue with
  | [] => y
  | (t1, t2) :: rest =>
    if y.linkSt l ≠ 2 then y
    else
      (y.canPut l (y.canNew (y.get (F.TUG_LINK_FAR_NODE l)) 0 2 (leBytes 8 t1 ++ leBytes 8 t2)) none 0).onTug l fun k =>
        { k with echoDue := rest }

/-! ### Control cans (R371) -/

/-- Depth of the control queue of an output. -/
def ctlDepth : Nat := max 1 Config.ctlDepth

/-- CTL_TX: the can in CTL_TX_DATA goes out, and RESULT says how (R356, R371). -/
def ctlSend (y : Byre) : Byre :=
  let bs := (List.range 60).flatMap fun n => leBytes 4 (y.rdN (R.TUG_CTL_TX_DATA n))
  let c0 := canOf bs
  let c := { y.canNew c0.dst 1 c0.typ c0.payload with vc := 1 }
  let ans := fun (y : Byre) (r : Nat) => y.set F.TUG_CTL_TX_STATUS_RESULT r
  if !canOk bs || c0.vc != 1 then ans y 3
  else if c.dst = y.ownNode then ans (y.canLocal c none y.now) 0
  else
    let out := y.routeOf c.dst
    if out = 0 then ans (y.inc R.TUG_CNT_ROUTE_DROP) 1
    else if out = 3 then (if 64 ≤ y.tunq.length then ans y 2 else ans (y.tunPut c none) 0)
    else if ctlDepth ≤ (y.canQ (out - 1) 1).length then ans y 2
    else ans (y.canPut (out - 1) c none 0) 0

/-- Firmware sends a control can through the CTL_TX registers. -/
def fwCan (y : Byre) (dst typ : Nat) (payload : List Byte) : Byre :=
  let bs := leBytes 4 (dst % 2 ^ 17 + 2 ^ 17 + typ * 2 ^ 24) ++ List.replicate 12 0#8 ++ (payload ++ List.replicate 224 0#8).take 224
  ((List.range 60).foldl (fun y n => y.wrN (R.TUG_CTL_TX_DATA n) (leNat ((bs.drop (4 * n)).take 4))) y).ctlSend

/-! ### The tunnel (R373, R374) -/

/-- Is the thread the tunnel runtime? -/
def isTunEp (y : Byre) (e t : Nat) : Bool := y.get F.TUG_TUN_EP_EP == e * 8 + t

/-- TUN_HEAD as it reads. -/
def tunHead (y : Byre) : Nat := (y.tunq.head?).elim 0 fun off => 2 ^ 31 + off

/-- A write of TUN_HEAD removes the head. -/
def tunPop (y : Byre) : Byre := { y with tunq := y.tunq.drop 1 }

/-- The cross-check of R374. -/
def tunTime (y : Byre) (c : Can) (a : Nat) : Byre :=
  let th := y.get F.TUG_TUN_EP_THRESH_US
  let d : Int := (a : Int) - y.fromShort c.launch
  if th = 0 ∨ !c.tqok ∨ y.tst ≠ tLOCKED ∨ d.natAbs ≤ th * 1000 then y
  else
    let y := y.inc R.TUG_CNT_TUN_TIME
    let (sent, y) := y.herdTimeEvt y.tunEvt 2 c.src d
    if sent then { y with tunEvt := y.tu.clk + 1 } else y

/-- TUN_INJECT of the image in a pail.  An image with a word that fails parity (R294) is taken for one with a CRC error (DEDUCED,
assumption log entry 40). -/
def tunInject (y : Byre) (off : Nat) : Byre :=
  if !y.flag F.TUG_TUN_CFG_TUN_EN then { y with tunInj := 2 }
  else if Config.injFull y.free then { y.useFree with tunInj := 3 }
  else
    let (bad, y) := y.useFree.anyParity (pailWords off 0 256)
    let y := y.when bad fun y => y.inc R.PAIL_CNT_DATA_PARITY
    let bs := y.vatRead off 256
    let c := canOf bs
    if bad || !canCrcOk bs || !canOk bs || c.vc == 0 then { y.pailReturn off with tunInj := 1 }
    else
      let a := y.fromShort (leNat (bs.drop 248))
      let y := (y.tunTime c a).pailReturn off
      { y.canTake { c with hops := c.hops + 1 } none a with tunInj := 0 }

/-- TUN_DROP. -/
def tunDrop (y : Byre) (v : Nat) : Byre :=
  match v with
  | 1 => y.inc R.TUG_CNT_TUN_TAG
  | 2 => y.inc R.TUG_CNT_TUN_REPLAY
  | 3 => y.inc R.TUG_CNT_TUN_FORMAT
  | _ => y

/-! ### Share table registers (R364, R376) -/

/-- Read a share entry. -/
def shrRead (y : Byre) (bank n : Nat) : Byre :=
  ((List.range 3).foldl (fun y w => y.wrN (R.TUG_SHR_DATA w) (y.shrWord bank n w)) y).set F.TUG_SHR_STATUS_RESULT 0

/-- Write a share entry. -/
def shrWrite (y : Byre) (bank n : Nat) : Byre :=
  let w := fun j => y.rdN (R.TUG_SHR_DATA j)
  if bits (w 0) 27 17 != 0 || bits (w 1) 31 27 != 0 || bits (w 1) 23 17 != 0 || bits (w 2) 31 24 != 0 || w 2 % 8 != 0 ||
    (bit (w 0) 31 && decide (w 2 < 64)) then y.set F.TUG_SHR_STATUS_RESULT 5
  else
    let tab := (List.range 3).foldl (fun m j => SMap.set (fun _ => 0#32) m (bank * 0x400 + n * 4 + j) (BitVec.ofNat 32 (w j))) y.shrTab
    (({ y with shrTab := tab }.parClear spShare (bank * 256 + n)).tableWritten bank).set F.TUG_SHR_STATUS_RESULT 0

/-- The operation that BYx_TUG_SHR_CMD names. -/
def shrGo (y : Byre) : Byre :=
  let bank := y.get F.TUG_SHR_CMD_BANK
  let n := y.get F.TUG_SHR_CMD_INDEX
  if y.flag F.TUG_SHR_CMD_OP then y.shrWrite bank n else y.shrRead bank n

/-! ### Books (R375) -/

/-- Do the credit books of both links balance? -/
def tugBooks (y : Byre) : Bool :=
  (List.range 2).all fun l => (List.range 4).all fun v =>
    y.get (F.TUG_LINK_TX_CRED_AVAIL l v) + y.get (F.TUG_LINK_TX_CRED_OUT l v) == y.get (F.TUG_LINK_TX_CRED_TOTAL l v) &&
    decide (y.get (F.TUG_LINK_RX_CRED_HELD l v) + y.get (F.TUG_LINK_RX_CRED_RET_PEND l v) ≤ (y.tugAt l).tot.getD v 0)

end Byre

/-! ### Commands -/

/-- INIT_WORD_SEND (R351). -/
def execInitWordSend (b : Fin 6) (l : Fin 2) (dt : Nat) (s : State) : Host.Outcome State Fault Refusal :=
  .next (s.onPort b (22 + l) fun y => (y.advance dt).initSend l)

/-- INIT_WORD_RECEIVE (R351). -/
def execInitWordReceive (b : Fin 6) (l : Fin 2) (dt : Nat) (node : BitVec 17) (herd : BitVec 6) (tot : BitVec 28) (s : State) :
    Host.Outcome State Fault Refusal :=
  .next (s.onPort b (22 + l) fun y => (y.advance dt).initGet l node.toNat herd.toNat tot.toNat)

/-- LINK_WORD_RECEIVE (R353). -/
def execLinkWordReceive (b : Fin 6) (l : Fin 2) (dt : Nat) (valid : Bool) (ack : BitVec 8) (nak : NakField) (ret : BitVec 16) (s : State) :
    Host.Outcome State Fault Refusal :=
  .next (s.onPort b (22 + l) fun y => (y.advance dt).wordGet l valid ack.toNat nak.nak nak.late ret.toNat)

/-- CAN_RECEIVE (R353). -/
def execCanReceive (b : Fin 6) (l : Fin 2) (dt : Nat) (bytes : List Byte) (s : State) : Host.Outcome State Fault Refusal :=
  .next (s.onPort b (22 + l) fun y => (y.advance dt).canReceive l bytes)

/-- CAN_TRANSMIT (R352, R357). -/
def execCanTransmit (b : Fin 6) (l : Fin 2) (dt : Nat) (s : State) : Host.Outcome State Fault Refusal :=
  .next (s.onPort b (22 + l) fun y => (y.advance dt).canTransmit l)

/-- RETRY_TIMEOUT (R354). -/
def execRetryTimeout (b : Fin 6) (l : Fin 2) (s : State) : Host.Outcome State Fault Refusal :=
  .next (s.onPort b (22 + l) fun y => y.retryTimeout l)

/-- ECHO_REQUEST (R358). -/
def execEchoRequest (b : Fin 6) (l : Fin 2) (s : State) : Host.Outcome State Fault Refusal :=
  .next (s.onPort b (22 + l) fun y => y.echoReq l)

/-- ECHO_RESPONSE (R358). -/
def execEchoResponse (b : Fin 6) (l : Fin 2) (dt : Nat) (s : State) : Host.Outcome State Fault Refusal :=
  .next (s.onPort b (22 + l) fun y => (y.advance dt).echoResp l)

/-- CTL_TX_SEND (R371): a write of BYx_TUG_CTL_TX_CMD with GO. -/
def execCtlTxSend (b : Fin 6) (m : Master) (s : State) : Host.Outcome State Fault Refusal :=
  .next (s.mgmtWrite b m R.TUG_CTL_TX_CMD Byre.ctlSend)

/-- CTL_RX_REMOVE (R371): 1 is written to VALID. -/
def execCtlRxRemove (b : Fin 6) (m : Master) (s : State) : Host.Outcome State Fault Refusal :=
  .next (s.mgmtWrite b m R.TUG_CTL_RX_STATUS Byre.ctlPop)

/-- TUN_HEAD_REMOVE (R373): the store of a thread that is not the tunnel runtime traps instead (ST and the other stores). -/
def execTunHeadRemove (b : Fin 6) (e : Fin 32) (t : Fin 8) (s : State) : Host.Outcome State Fault Refusal :=
  .next (if s.engOn b e && (s.byre b).isTunEp e t then s.onByre b Byre.tunPop else s)

/-- TUN_INJECT (R374). -/
def execTunInject (b : Fin 6) (e : Fin 32) (t : Fin 8) (off : Word) (s : State) : Host.Outcome State Fault Refusal :=
  .next (if s.engOn b e && (s.byre b).isTunEp e t then s.onByre b fun y => y.tunInject off.toNat else s)

/-- TUN_DROP (R373). -/
def execTunDrop (b : Fin 6) (e : Fin 32) (t : Fin 8) (v : Word) (s : State) : Host.Outcome State Fault Refusal :=
  .next (if s.engOn b e && (s.byre b).isTunEp e t then s.onByre b fun y => y.tunDrop v.toNat else s)

/-- A write of BYx_TUG_SHR_CMD: an entry write that names the live bank of a RUNNING or DEGRADED byre is locked (R19, R364). -/
def State.shrCmd (s : State) (b : Fin 6) (m : Master) (v : Nat) : State :=
  s.goWrite b m R.TUG_SHR_CMD v (fun y => y.flag F.TUG_SHR_CMD_OP && y.lockedBank F.TUG_SHR_CMD_BANK)
    (fun y => y.set F.TUG_SHR_STATUS_RESULT 1) Byre.shrGo

/-- SHARE_ENTRY_READ (R364). -/
def execShareEntryRead (b : Fin 6) (m : Master) (bank : Bool) (n : BitVec 8) (s : State) : Host.Outcome State Fault Refusal :=
  .next (s.shrCmd b m (2147483648 + b2n bank * 2 ^ 29 + n.toNat))

/-- SHARE_ENTRY_WRITE (R364, R376). -/
def execShareEntryWrite (b : Fin 6) (m : Master) (bank : Bool) (n : BitVec 8) (s : State) : Host.Outcome State Fault Refusal :=
  .next (s.shrCmd b m (2147483648 + 1073741824 + b2n bank * 2 ^ 29 + n.toNat))

end Sys2Proof.Machine
end

