-- ==== Sys2Proof/Machine/Tanker.lean ====
section
/-!
DEFINITION. Tankers (R296 to R305, R361, R362, R425), of the byres and of the creamery, and the engine's SEND (R295).
A transfer's data moves at DESCRIPTOR_COMPLETE, in one step (assumption log entry 40).
-/

namespace Sys2Proof.Machine

/-! ### A channel's registers -/

/-- The registers of one tanker channel: its register file and base address, and where its descriptors lie. -/
structure Chan where
  crm : Bool
  regs : SMap Word
  base : Nat
  shAt : Nat
  liveAt : Nat

/-- CODE of R300. -/
abbrev tcOK : Nat := 0
abbrev tcALIGN : Nat := 1
abbrev tcOWNER : Nat := 2
abbrev tcRANGE : Nat := 3
abbrev tcABORTED : Nat := 4
abbrev tcPARITY : Nat := 5
abbrev tcSKIPPED : Nat := 6
abbrev tcBAD : Nat := 7
abbrev tcBUSY : Nat := 8
abbrev tcNOPAIL : Nat := 9

namespace Chan

/-- A register's word, by its offset in the channel. -/
def rd (c : Chan) (o : Nat) : Nat := (SMap.get (if c.crm then crmRst else byreRst) c.regs (c.base + o)).toNat
def wr (c : Chan) (o v : Nat) : Chan :=
  { c with regs := SMap.set (if c.crm then crmRst else byreRst) c.regs (c.base + o) (BitVec.ofNat 32 v) }
def inc (c : Chan) (o : Nat) : Chan := c.wr o (c.rd o + 1)

/-- STATUS fields. -/
def st (c : Chan) : Nat := bits (c.rd 0x44) 2 0
def held (c : Chan) : Nat := bits (c.rd 0x44) 6 5
def armed (c : Chan) : Bool := bit (c.rd 0x44) 4
def setSt (c : Chan) (v : Nat) : Chan := c.wr 0x44 (insBits (c.rd 0x44) 2 0 v)
def setHeld (c : Chan) (v : Nat) : Chan := c.wr 0x44 (insBits (c.rd 0x44) 6 5 v)
def setBit (c : Chan) (i : Nat) (b : Bool) : Chan := c.wr 0x44 (insBits (c.rd 0x44) i i (b2n b))

/-- Is DISABLE set? -/
def disabled (c : Chan) : Bool := bit (c.rd 0x40) 31

/-- Word `w` of the shadow and of the live set. -/
def sh (c : Chan) (w : Nat) : Nat := c.rd (4 * w)
def live (c : Chan) (w : Nat) : Nat := c.rd (0x20 + 4 * w)

/-- A management write of a shadow word (R299). -/
def shWrite (c : Chan) (w v : Nat) : Chan :=
  if c.armed then (c.setBit 10 true).inc 0x94 else { c.wr (4 * w) v with shAt := 0 }

/-- A descriptor's words become the live set, in which COUNT runs from 0 (R313). -/
def setLive (c : Chan) (ws : List Nat) (at_ : Nat) : Chan :=
  { (List.range 8).foldl (fun (c : Chan) w => c.wr (0x20 + 4 * w) (if w = 7 then insBits (ws.getD 7 0) 23 0 0 else ws.getD w 0)) c with
    liveAt := at_ }.setSt 1

/-- COUNT of the live set: the bytes moved. -/
def count (c : Chan) : Nat := bits (c.live 7) 23 0
def setCount (c : Chan) (n : Nat) : Chan := c.wr 0x3C (insBits (c.live 7) 23 0 n)

/-- Word 7 of the live set as it reads, stored as `v`: how much of a live transfer has been moved is a free value, but for TUGUS, whose
cans are counted (assumption log entry 40). -/
def liveCount (c : Chan) (free v : Nat) : Nat :=
  if c.st = 1 ∧ bits (c.live 0) 22 20 ≠ 3 then insBits v 23 0 (Config.moved free % (bits (c.live 1) 23 0 / 8 + 1) * 8) else v

/-- The armed shadow becomes live (R299). -/
def goLive (c : Chan) : Chan := (c.setLive ((List.range 8).map c.sh) c.shAt).setBit 4 false

/-- A descriptor is taken with OWN 1. -/
def take (c : Chan) : Chan := (c.inc 0x4C).setHeld (c.held + 1)

/-- An arm of the shadow (R299): refused while DISABLE is 1 or the shadow is armed, and for a shadow whose OWN is 0. -/
def arm (c : Chan) : Chan :=
  if c.disabled || c.armed || !bit (c.sh 0) 31 then c.inc 0x94
  else
    let c := c.take
    if c.st = 1 then c.setBit 4 true else c.goLive

/-- A descriptor's words go into the shadow and are armed (the TANKER word, R299): a load into an armed shadow sets SH_BUSY too.  A
descriptor that cannot be read arms nothing (DESIGN CHOICE, assumption log entry 40). -/
def loadArm (c : Chan) (ws : Option (List Nat)) (at_ : Nat) : Chan :=
  if c.armed then (c.setBit 10 true).inc 0x94
  else match ws with
  | none => c.inc 0x94
  | some ws =>
    if c.disabled || !bit (ws.getD 0 0) 31 then c.inc 0x94
    else { (List.range 8).foldl (fun (c : Chan) w => c.wr (4 * w) (ws.getD w 0)) c with shAt := at_ + 1 }.arm

/-- The live descriptor ends with a code (R300): status in the live set, books, counters, DONE; any code but OK stops the
channel in ERROR, and an armed shadow then becomes live. -/
def ends (c : Chan) (code count : Nat) : Chan :=
  let c := (c.wr 0x3C (2147483648 + code * 16777216 + count)).wr 0x20 (insBits (c.live 0) 31 31 0)
  let c := ((c.inc 0x50).setHeld (c.held - 1)).setBit 9 true
  let c := c.inc (if code = tcOK then 0x80 else 0x84)
  let c := if code = tcABORTED then c.inc 0x88 else if code = tcSKIPPED then c.inc 0x8C else c
  if code = tcOK then c
  else
    let c := (c.wr 0x44 (insBits (c.rd 0x44) 15 12 code)).setSt 3
    let c := if c.liveAt = 0 then c else c.wr 0x48 (c.liveAt - 1)
    if c.armed then c.goLive else c

/-- The chain goes on with the descriptor at `at_`, or stops and latches the offset of the last one (R301). -/
def follow (c : Chan) (next : Option (List Nat × Nat)) : Chan :=
  match next with
  | some (ws, at_) => c.take.setLive ws (at_ + 1)
  | none =>
    let c := (if c.liveAt = 0 then c else c.wr 0x48 (c.liveAt - 1)).setSt 2
    if c.armed then c.goLive else c

/-- DISABLE is set (R304). -/
def disable (c : Chan) : Chan :=
  let h := c.held
  let c := c.wr 0x40 (insBits (c.rd 0x40) 31 31 1)
  let c := (c.wr 0x50 (c.rd 0x50 + h)).wr 0x90 (c.rd 0x90 + h)
  { ((c.setHeld 0).setBit 4 false).setSt 4 with shAt := 0, liveAt := 0 }

/-- DISABLE is cleared (R304). -/
def enable (c : Chan) : Chan :=
  let c := c.wr 0x40 (insBits (c.rd 0x40) 31 31 0)
  if c.st = 4 then c.setSt 0 else c

end Chan

/-! ### Descriptors -/

/-- The fields of R297 in a channel's live set. -/
structure Desc where
  evt : Bool
  sp : Nat
  dp : Nat
  sm : Nat
  dm : Nat
  wrap : Nat
  len : Nat
  src : Nat
  dst : Nat
  rsv : Bool

/-- The live descriptor. -/
def Chan.desc (c : Chan) : Desc where
  evt := bit (c.live 0) 29
  sp := bits (c.live 0) 26 24
  dp := bits (c.live 0) 22 20
  sm := bits (c.live 0) 17 16
  dm := bits (c.live 0) 13 12
  wrap := bits (c.live 0) 8 4
  len := bits (c.live 1) 23 0
  src := c.live 2 + c.live 3 * 2 ^ 32
  dst := c.live 4 + c.live 5 * 2 ^ 32
  rsv := bit (c.live 0) 30 || bits (c.live 0) 28 27 != 0 || bit (c.live 0) 23 || bits (c.live 0) 19 18 != 0 ||
    bits (c.live 0) 15 14 != 0 || bits (c.live 0) 11 9 != 0 || bits (c.live 0) 3 0 != 0 || bits (c.live 1) 31 24 != 0 ||
    bits (c.live 6) 31 24 != 0 || bits (c.live 6) 2 1 != 0 || bits (c.live 7) 30 28 != 0

/-- The contiguous pieces, as (address, length), that `n` bytes from `a` use in a mode of R298. -/
def segs (mode wrap a n : Nat) : List (Nat × Nat) :=
  match mode with
  | 1 => (List.range (n / 8)).map fun _ => (a, 8)
  | 2 =>
    let sz := 2 ^ wrap
    let base := a - a % sz
    let m := min n (sz - a % sz)
    (a, m) :: (List.range ((n - m + sz - 1) / sz)).map fun i => (base, min sz (n - m - i * sz))
  | _ => [(a, n)]

/-- Is every byte of a space of `lim` bytes? -/
def segsIn (lim : Nat) (l : List (Nat × Nat)) : Bool := l.all fun q => decide (q.1 + q.2 ≤ lim)

/-- The 8-byte words of pieces. -/
def segWords (l : List (Nat × Nat)) : List Nat := l.flatMap fun q => (List.range (q.2 / 8)).map fun i => q.1 + 8 * i

/-- The first bytes of pieces, at most `n`. -/
def segCut : List (Nat × Nat) → Nat → List (Nat × Nat)
  | [], _ => []
  | q :: qs, n => if q.2 ≤ n then q :: segCut qs (n - q.2) else if n = 0 then [] else [(q.1, n)]

/-- Mode and wrap are legal for a memory space. -/
def modeOk (mode wrap : Nat) : Bool := mode == 0 || mode == 1 || (mode == 2 && decide (6 ≤ wrap) && decide (wrap ≤ 24))

namespace Byre

/-- A byre's tanker channel. -/
def chan (y : Byre) (n : Nat) : Chan :=
  let a := SMap.get (fun _ => (0, 0)) y.tnkAt n
  ⟨false, y.regs, R.TNK_SH n 0, a.1, a.2⟩
def setChan (y : Byre) (n : Nat) (c : Chan) : Byre :=
  { y with regs := c.regs, tnkAt := SMap.set (fun _ => (0, 0)) y.tnkAt n (c.shAt, c.liveAt) }
def onChan (y : Byre) (n : Nat) (f : Chan → Chan) : Byre := y.setChan n (f (y.chan n))

/-- Is a descriptor's place one that the channel may access (R283, R297)? -/
def descOpen (y : Byre) (n a : Nat) : Bool :=
  a % 8 == 0 && decide (a + 32 ≤ 0xC00000) && (y.bankOpen (a / 0x40000) (0x10 + n) || y.bankOpen (a / 0x40000) 0x20)

/-- Read words, each once more where its parity fails (R300): does any stay unreadable, and how many re-reads succeeded? -/
def vatReread (y : Byre) : List Nat → Bool × Nat × Byre
  | [] => (false, 0, y)
  | a :: as =>
    match y.parCheck 0 a with
    | (false, y) => y.vatReread as
    | (true, y) =>
      match y.parCheck 0 a with
      | (true, y) => (true, 0, y)
      | (false, y) => let (bad, k, y) := y.vatReread as; (bad, k + 1, y)

/-- The same for channel `n`, whose counter counts the transients. -/
def tnkReread (y : Byre) (n : Nat) (as : List Nat) : Bool × Byre :=
  let (bad, k, y) := y.vatReread as
  (bad, y.incBy (R.TNK_CNT_REREAD n) k)

/-- The eight words of the descriptor at a vat offset; none where the channel may not access it or it stays unreadable. -/
def descRead (y : Byre) (n a : Nat) : Option (List Nat) × Byre :=
  if !y.descOpen n a then (none, y)
  else
    let ws := (List.range 8).map fun i => a + 4 * i
    let (bad, y) := y.tnkReread n ws
    (if bad then none else some (ws.map y.ldw), y)

/-- A TANKER word (R299). -/
def tankerWord (y : Byre) (n a : Nat) : Byre :=
  let (ws, y) := y.descRead n a
  y.onChan n fun c => c.loadArm ws a

/-- What the pre-checks of R298, R300 and R361 say of the live descriptor; OK where it may run. -/
def descCheck (y : Byre) (n : Nat) (d : Desc) : Nat :=
  let mem := decide (d.dp < 2)
  if d.len = 0 ∨ d.len % 8 ≠ 0 ∨ d.src % 8 ≠ 0 ∨ (mem ∧ d.dst % 8 ≠ 0) then tcALIGN
  else if d.rsv || decide (1 < d.sp) || decide (4 < d.dp) || !modeOk d.sm d.wrap ||
      (if mem then !modeOk d.dm d.wrap else d.dm != 1) || (d.dp == 4 && decide (2044 < d.len)) then tcBAD
  else if d.dp == 3 && decide (d.dst < 16) &&
      (match d.dst % 4 with
       | 0 => true
       | 2 => !(y.get F.TUG_NODE_ROLE == 1 || y.get F.TUG_NODE_ROLE == 2)
       | _ => d.len % 256 != 0) then tcBAD
  else if !(segsIn (if d.sp = 0 then 0xC00000 else y.dramSize) (segs d.sm d.wrap d.src d.len)) ||
      (match d.dp with
       | 0 => !segsIn 0xC00000 (segs d.dm d.wrap d.dst d.len)
       | 1 => !segsIn y.dramSize (segs d.dm d.wrap d.dst d.len)
       | 2 => decide (256 ≤ d.dst)
       | 3 => decide (16 ≤ d.dst)
       | _ => false) then tcRANGE
  else if y.flag F.SW_TALLY_CTRL_EN && y.get F.SW_TALLY_CTRL_TANKER == n then tcBUSY
  else tcOK

/-- Read 8-byte words of the vat or the DRAM in order, until one is not the channel's or stays unreadable. -/
def tnkRead (y : Byre) (n : Nat) (dram : Bool) : List Nat → List Byte → Nat × List Byte × Byre
  | [], acc => (tcOK, acc, y)
  | a :: as, acc =>
    if dram then
      match y.verifyBlocks (if a % 64 = 0 ∨ acc.isEmpty then [a / 64] else []) with
      | ([], y) => y.tnkRead n dram as (acc ++ y.dramBytes a 8)
      | (_, y) =>
        match y.verifyBlocks [a / 64] with
        | ([], y) => (y.inc (R.TNK_CNT_REREAD n)).tnkRead n dram as (acc ++ y.dramBytes a 8)
        | (_, y) => (tcPARITY, acc, y)
    else if !y.bankOpen (a / 0x40000) (0x10 + n) then (tcOWNER, acc, y)
    else
      match y.tnkReread n [a, a + 4] with
      | (true, y) => (tcPARITY, acc, y)
      | (false, y) => y.tnkRead n dram as (acc ++ y.vatRead a 8)

/-- Write bytes to the vat; every whole word renews its parity. -/
def vatFill (y : Byre) (a : Nat) (bs : List Byte) : Byre :=
  (List.range (bs.length / 4)).foldl (fun y i => y.parClear 0 (a + 4 * i)) (y.vatWrite a bs)

/-- Write data to pieces of the vat or the DRAM. -/
def tnkPut (y : Byre) (dram : Bool) : List (Nat × Nat) → List Byte → Byre
  | [], _ => y
  | q :: qs, bs => (if dram then y.dramWrite q.1 (bs.take q.2) else y.vatFill q.1 (bs.take q.2)).tnkPut dram qs (bs.drop q.2)

/-- Bytes of the destination that the channel owns before the first it does not. -/
def tnkOwned (y : Byre) (n : Nat) (l : List (Nat × Nat)) : Nat :=
  8 * ((segWords l).takeWhile fun a => y.bankOpen (a / 0x40000) (0x10 + n)).length

/-- Send can images (R361): the bytes sent, and whether all passed R348. -/
def canImages (y : Byre) (dst : Nat) : Nat → List Byte → Nat × Byre
  | 0, _ => (0, y)
  | k + 1, bs =>
    let img := bs.take 256
    let c := canOf img
    let c := { c with vc := dst % 4, src := y.ownNode, herd := y.get F.TUG_NODE_HERD, hops := 0, giveup := false, tqok := false,
                      lseq := 0, launch := 0 }
    if !canOk (canBytes c) || bits (leNat (img.take 4)) 18 17 != dst % 4 || bit (leNat (img.take 4)) 23 then (0, y)
    else
      let y := if 8 ≤ dst then (if 64 ≤ y.tunq.length then y else y.tunPut c none) else y.canPut (dst / 4 % 2) c none 0
      let (m, y) := y.canImages dst k (bs.drop 256)
      (m + 256, y)

/-- SHARE cans of a transfer of `len` bytes that starts with the bytes `hd`: the fragments from number `first`, whose bytes are `bs`
(R362). -/
def shareCans (y : Byre) (dst len : Nat) (hd : List Byte) (first : Nat) (bs : List Byte) : Byre :=
  let nf := (len + 207) / 208
  (List.range (if first * 208 + bs.length = len then nf - first else bs.length / 208)).foldl (fun y i =>
    let pay := hd.take 7 ++ [0#8] ++ leBytes 2 (first + i) ++ leBytes 2 nf ++ leBytes 4 0 ++
      ((bs.drop (208 * i)).take 208 ++ List.replicate 208 0#8).take 208
    let c := y.canNew (y.get F.TUG_MGR_NODE) 2 0x30 pay
    if 8 ≤ dst then (if 64 ≤ y.tunq.length then y else y.tunPut c none) else y.canPut (dst / 4 % 2) c none 0) y

/-- How many cans a TUGUS address can take now (R361): credits that no queued can will take and room in the retry buffer, or room in
the tunnel queue. -/
def tugRoom (y : Byre) (dst : Nat) : Nat :=
  if 8 ≤ dst then 64 - y.tunq.length
  else
    let l := dst / 4 % 2
    let queued := ((List.range 4).map fun v => (y.canQ l v).length).sum
    if y.linkSt l ≠ 2 ∨ (y.flag (F.TUG_LINK_STATUS_PEER l) ∧ dst % 4 ≠ 3) then 0
    else min (y.get (F.TUG_LINK_TX_CRED_AVAIL l (dst % 4)) - (y.canQ l (dst % 4)).length) (64 - (y.tugAt l).retry.length - queued)

/-- The bytes of a transfer that one can takes. -/
def tugUnit (dst : Nat) : Nat := if dst % 4 = 2 then 208 else 256

/-- A transfer to TUGUS goes on, by at most `lim` bytes in all, with as many cans as the destination takes now (R302, R361, R362): its
code and the bytes moved so far. -/
def tugMove (y : Byre) (n : Nat) (d : Desc) (lim : Nat) : Nat × Nat × Byre :=
  let p := (y.chan n).count
  let u := tugUnit d.dst
  let want := if d.len ≤ lim then (d.len - p + u - 1) / u else (lim - p) / u
  let stop := min d.len (p + min want (y.tugRoom d.dst) * u)
  let ws := segWords (segs d.sm d.wrap d.src d.len)
  let (code, data, y) := y.tnkRead n (d.sp == 1) ((ws.take (stop / 8)).drop (p / 8)) []
  if d.dst % 4 = 2 then
    let (hd, y) := if p = 0 then (data.take 8, y) else (y.tnkRead n (d.sp == 1) (ws.take 1) []).2
    (code, p + data.length, y.shareCans d.dst d.len hd (p / 208) data)
  else
    let (m, y) := y.canImages d.dst (data.length / 256) data
    (if code = 0 ∧ m < data.length / 256 * 256 then tcBAD else code, p + m, y)

/-- Must the live transfer wait (R96, R302, R361, R385)?  `room` says that the host's staging can take it. -/
def tnkWaits (y : Byre) (d : Desc) (room : Bool) : Bool :=
  (y.training && (d.sp == 1 || d.dp == 1)) ||
  (match d.dp with
   | 2 => !room
   | 3 => y.tugRoom d.dst == 0
   | 4 => decide (64 ≤ y.inLen 26)
   | _ => false)

/-- Execute the live descriptor, at most `lim` bytes of it: its code, the bytes moved, and what goes to HOST. -/
def tnkMove (y : Byre) (n : Nat) (d : Desc) (lim : Nat) : Nat × Nat × Option (Nat × List Byte) × Byre :=
  match y.descCheck n d with
  | 0 =>
    if d.dp = 3 then let (code, m, y) := y.tugMove n d lim; (code, m, none, y)
    else
    let len := min d.len lim
    let dsegs := segCut (segs d.dm d.wrap d.dst d.len) len
    let own := if d.dp = 0 then y.tnkOwned n dsegs else len
    let ssegs := segCut (segs d.sm d.wrap d.src d.len) (min len own)
    let (code, data, y) := y.tnkRead n (d.sp == 1) (segWords ssegs) []
    let code := if code = 0 ∧ own < len then tcOWNER else code
    match d.dp with
    | 0 => (code, data.length, none, y.tnkPut false (segCut dsegs data.length) data)
    | 1 => (code, data.length, none, y.tnkPut true (segCut dsegs data.length) data)
    | 2 => (code, data.length, some (d.dst, data), y)
    | _ =>
      if code ≠ 0 ∨ len < d.len then (code, data.length, none, y)
      else
        match y.alloc 34 d.len with
        | (none, y) => (tcNOPAIL, 0, none, y)
        | (some off, y) => (tcOK, d.len, none, { y.vatFill off data with inq := y.inq ++ [y.newFrame off d.len 26 y.now] })
  | code => (code, 0, none, y)

/-- Write the live descriptor's status back and go on (R300, R301, R282). -/
def tnkFinish (y : Byre) (n code count : Nat) : Byre :=
  let c := y.chan n
  let at_ := c.liveAt
  let evt := bit (c.live 0) 29
  let own := at_ != 0 && y.descOpen n (at_ - 1)
  let y := if own then
      let a := at_ - 1
      let b := (y.vatRead (a + 3) 1).headD 0#8
      let w := fun (y : Byre) (a : Nat) (bs : List Byte) =>
        if y.bankOwner (a / 0x40000) = 0x20 then y.portWrite (16 + n) a bs else y.vatFill a bs
      w (w y (a + 28) (leBytes 4 (2147483648 + code * 16777216 + count))) (a + 3) [b &&& 0x7F#8]
    else y
  let y := if evt then y.event 0x43 ([BitVec.ofNat 8 n, 0#8, 0#8, 0#8] ++ leBytes 4 (at_ - 1) ++ leBytes 4 code ++ leBytes 4 count)
    else y
  let next := if own then y.ldw (at_ - 1 + 24) else c.live 6
  let y := y.onChan n fun c => c.ends code count
  if code ≠ tcOK then y
  else if bit next 0 then y.onChan n fun c => c.follow none
  else
    let a := bits next 23 3 * 8
    let (ws, y) := y.descRead n a
    match ws with
    | some ws => y.onChan n fun c => c.follow (if bit (ws.getD 0 0) 31 then some (ws, a) else none)
    | none => y.onChan n fun c => c.follow none

/-- DOORBELL (R301). -/
def tnkDoorbell (y : Byre) (n : Nat) : Byre :=
  let c := y.chan n
  if c.st ≠ 2 then y
  else
    let l := c.rd 0x48
    if !y.descOpen n l || bit (y.ldw (l + 24)) 0 then y
    else
      let a := bits (y.ldw (l + 24)) 23 3 * 8
      let (ws, y) := y.descRead n a
      match ws with
      | some ws => if bit (ws.getD 0 0) 31 then y.onChan n fun c => c.take.setLive ws (a + 1) else y
      | none => y

/-- DESCRIPTOR_COMPLETE of a byre channel: what it sends to HOST, and the byre.  A transfer to TUGUS that finds too few credits sends
what they let out and stays live (R302). -/
def tnkRun (y : Byre) (n : Nat) (room : Nat → Nat → Bool) : Option (Nat × List Byte) × Byre :=
  let c := y.chan n
  let d := c.desc
  if c.st ≠ 1 then (none, y)
  else if y.training && (d.sp == 1 || d.dp == 1) then (none, y)
  else if y.descCheck n d = 0 && y.tnkWaits d (room d.dst d.len) then (none, y)
  else
    let (code, count, out, y) := y.tnkMove n d d.len
    if d.dp = 3 ∧ code = 0 ∧ count < d.len then (none, y.onChan n fun c => c.setCount count)
    else (if code = 0 then out else none, y.tnkFinish n code count)

/-- ABORT (R303) when `cells` cells have been moved: what went to HOST before it, and the byre. -/
def tnkAbort (y : Byre) (n cells : Nat) : Option (Nat × List Byte) × Byre :=
  let c := y.chan n
  let d := c.desc
  let lim := min (64 * cells) d.len
  let late := (none, y.onChan n fun c => c.setBit 8 true)
  if c.st ≠ 1 then late
  else
    let (code, count, out, y') := y.tnkMove n d lim
    if code ≠ 0 then late else (out, y'.tnkFinish n tcABORTED count)

/-- A transfer to HOST, TUGUS or FRAME that is still live at COMMIT (R302): how much of it had been moved is free. -/
def tnkSkip (y : Byre) (n : Nat) : Option (Nat × List Byte) × Byre :=
  let c := y.chan n
  let d := c.desc
  if c.st ≠ 1 ∨ d.dp < 2 ∨ y.descCheck n d ≠ 0 then (none, y)
  else
    let u := tugUnit d.dst
    let p := c.count
    let lim := if d.dp = 2 then Config.moved y.free % (d.len / 64 + 1) * 64
      else if d.dp = 3 then min (d.len - 1) (p + Config.moved y.free % (min (y.tugRoom d.dst) ((d.len - p) / u) + 1) * u)
      else 0
    let (code, count, out, y) := y.useFree.tnkMove n d lim
    (out, y.tnkFinish n (if code = 0 then tcSKIPPED else code) count)

/-- The end of a tanker's work lets a pending handover of its banks apply (R282). -/
def tnkDisable (y : Byre) (n : Nat) : Byre :=
  let c := y.chan n
  let d := c.desc
  let y := if c.st = 1 ∧ d.dp < 2 ∧ y.descCheck n d = 0 then
      let bs := (List.range d.len).map (Config.lostByte y.free)
      let l := segs d.dm d.wrap d.dst d.len
      let l := if d.dp = 0 then segCut l (y.tnkOwned n l) else l
      (y.tnkPut (d.dp == 1) l bs).useFree
    else y
  let y := if c.st = 1 then
      { y.wrN (R.TNK_LIVE n 7) (insBits (y.rdN (R.TNK_LIVE n 7)) 23 0 (Config.moved y.free % 2 ^ 24)) with free := y.free + 1 }
    else y
  y.onChan n Chan.disable

/-- May an engine's SEND enter the switch now (R96)? -/
def sendRoom (y : Byre) : Bool := decide (y.inLen 24 < 64)

/-- A write to SEND (R295): the pail goes to switch input 24, or the SEND is refused. -/
def pailSend (y : Byre) (e t off : Nat) : Byre :=
  match y.sendCheck e t off with
  | (false, y) => y
  | (true, y) => { y with inq := y.inq ++ [y.newFrame off (y.thread e t).sendLen 24 y.now] }

end Byre

/-! ### Creamery tankers (R305, R425) -/

namespace Creamery

/-- A creamery tanker channel, 0 to 7. -/
def chan (c : Creamery) (n : Nat) : Chan :=
  let a := SMap.get (fun _ => (0, 0)) c.tnkAt n
  ⟨true, c.regs, R.CRM_TNK_SH n 0, a.1, a.2⟩
def setChan (c : Creamery) (n : Nat) (k : Chan) : Creamery :=
  { c with regs := k.regs, tnkAt := SMap.set (fun _ => (0, 0)) c.tnkAt n (k.shAt, k.liveAt) }
def onChan (c : Creamery) (n : Nat) (f : Chan → Chan) : Creamery := c.setChan n (f (c.chan n))

/-- The management address of management SRAM (R25). -/
abbrev sram : Nat := 0x00400000

/-- Write bytes to the management SRAM; every word written whole has new parity (R24). -/
def fill (c : Creamery) (a : Nat) (bs : List Byte) : Creamery :=
  { c with mem := Mem.write c.mem a bs, badPar := c.badPar.filter fun w => !(decide (a ≤ w) && decide (w + 4 ≤ a + bs.length)) }

/-- The descriptor at a management SRAM offset. -/
def descRead (c : Creamery) (a : Nat) : Option (List Nat) :=
  if a % 8 = 0 ∧ a + 32 ≤ 0x400000 then some ((List.range 8).map fun i => (Mem.ldw c.mem (sram + a + 4 * i)).toNat) else none

/-- The pre-checks for the spaces of R425. -/
def descCheck (d : Desc) : Nat :=
  let lim := fun sp => if sp = 0 then 6 * 0x1000000 else if sp = 1 then 0x400000 else 2 ^ 64
  if d.len = 0 ∨ d.len % 8 ≠ 0 ∨ d.src % 8 ≠ 0 ∨ d.dst % 8 ≠ 0 then tcALIGN
  else if d.rsv || decide (2 < d.sp) || decide (2 < d.dp) || !modeOk d.sm d.wrap || !modeOk d.dm d.wrap then tcBAD
  else if !segsIn (lim d.sp) (segs d.sm d.wrap d.src d.len) || !segsIn (lim d.dp) (segs d.dm d.wrap d.dst d.len) ||
      (d.sp == 0 && (segWords (segs d.sm d.wrap d.src d.len)).any fun a => decide (0xC00000 ≤ a % 0x1000000)) ||
      (d.dp == 0 && (segWords (segs d.dm d.wrap d.dst d.len)).any fun a => decide (0xC00000 ≤ a % 0x1000000)) then tcRANGE
  else tcOK

/-- Write a descriptor's status back and follow the chain (R300, R301). -/
def tnkFinish (c : Creamery) (n code count : Nat) : Creamery :=
  let k := c.chan n
  let at_ := k.liveAt
  let evt := bit (k.live 0) 29
  let c := if at_ = 0 then c else
      let a := sram + at_ - 1
      let b := Mem.ldb c.mem (a + 3)
      (c.fill (a + 28) (leBytes 4 (2147483648 + code * 16777216 + count))).fill (a + 3) [b &&& 0x7F#8]
  let c := if evt then c.event 0x43 ([BitVec.ofNat 8 (16 + n), 0#8, 0#8, 0#8] ++ leBytes 4 (at_ - 1) ++ leBytes 4 code ++ leBytes 4 count)
    else c
  let next := if at_ = 0 then k.live 6 else (Mem.ldw c.mem (sram + at_ - 1 + 24)).toNat
  let c := c.onChan n fun k => k.ends code count
  if code ≠ tcOK then c
  else if bit next 0 then c.onChan n fun k => k.follow none
  else
    let a := bits next 23 3 * 8
    match c.descRead a with
    | some ws => c.onChan n fun k => k.follow (if bit (ws.getD 0 0) 31 then some (ws, a) else none)
    | none => c.onChan n fun k => k.follow none

/-- DOORBELL of a creamery tanker. -/
def tnkDoorbell (c : Creamery) (n : Nat) : Creamery :=
  let k := c.chan n
  if k.st ≠ 2 then c
  else
    match c.descRead (k.rd 0x48) with
    | none => c
    | some l =>
      if bit (l.getD 6 0) 0 then c
      else
        let a := bits (l.getD 6 0) 23 3 * 8
        match c.descRead a with
        | some ws => if bit (ws.getD 0 0) 31 then c.onChan n fun k => k.take.setLive ws (a + 1) else c
        | none => c

/-- The words of the management SRAM at an offset, by management address. -/
def sramWords (a n : Nat) : List Nat := (List.range (n / 4)).map fun i => sram + a + 4 * i

/-- The words of the management SRAM that a descriptor's successor is read from: NEXT of the one at `at_`, and the descriptor there. -/
def chainWords (c : Creamery) (at_ : Nat) : List Nat :=
  let next := (Mem.ldw c.mem (sram + at_ + 24)).toNat
  (sram + at_ + 24) :: if bit next 0 then [] else sramWords (bits next 23 3 * 8) 32

/-- The words of the management SRAM that a doorbell, or the end of the live transfer, makes channel `n` read: source and chain. -/
def tnkWords (c : Creamery) (n : Nat) (bell : Bool) : List Nat :=
  let k := c.chan n
  let d := k.desc
  if bell then (if k.st = 2 then c.chainWords (k.rd 0x48) else [])
  else if k.st ≠ 1 then []
  else
    (if d.sp = 1 ∧ descCheck d = 0 then (segWords (segs d.sm d.wrap d.src d.len)).flatMap fun a => sramWords a 8 else []) ++
      (if k.liveAt = 0 then [] else c.chainWords (k.liveAt - 1))

/-- Does one of them fail parity?  A detection in the management SRAM restarts the creamery (R473). -/
def tnkBad (c : Creamery) (n : Nat) (bell : Bool) : Bool :=
  !c.badPar.isEmpty && (c.tnkWords n bell).any fun a => c.badPar.contains a

end Creamery

namespace State

/-- A vat access of a creamery tanker through the host window (R425): the bus error that refuses it is recorded with MASTER 0b100
(R28). -/
def crmStop (s : State) (a : Nat) (write : Bool) : Option State :=
  if h : a / 0x1000000 < 6 then
    match s.stop ⟨a / 0x1000000, h⟩ .tanker (a % 0x1000000) write with
    | some e => some (s.busErr e .tanker write (0x10000000 + a))
    | none => none
  else some (s.busErr .unmapped .tanker write (0x10000000 + a))

/-- The byre of an address of the space VAT. -/
def crmByre (a : Nat) : Fin 6 := Fin.ofNat 6 (a / 0x1000000)

/-- Read 8-byte words of a creamery tanker's source: what host memory answers comes with the command.  A vat word is read once more
where it fails parity (R300). -/
def crmRead (s : State) (n sp : Nat) : List Nat → List Byte → List Byte → Nat × List Byte × State
  | [], _, acc => (tcOK, acc, s)
  | a :: as, hb, acc =>
    match sp with
    | 0 =>
      match s.crmStop a false with
      | some s => (tcOWNER, acc, s)
      | none =>
        let o := a % 0x1000000
        let (bad, k, y) := (s.byre (crmByre a)).vatReread [o, o + 4]
        let s := (s.onByre (crmByre a) fun _ => y).onCrm fun c => c.wrN (R.CRM_TNK_CNT_REREAD n) (c.rdN (R.CRM_TNK_CNT_REREAD n) + k)
        if bad then (tcPARITY, acc, s) else s.crmRead n sp as hb (acc ++ y.vatRead o 8)
    | 1 => s.crmRead n sp as hb (acc ++ Mem.read s.crm.mem (Creamery.sram + a) 8)
    | _ => s.crmRead n sp as (hb.drop 8) (acc ++ (hb ++ List.replicate 8 0#8).take 8)

/-- Write 8-byte words of a creamery tanker's destination; how many bytes were written. -/
def crmPut (s : State) (n dp : Nat) : List Nat → List Byte → Nat × State
  | [], _ => (0, s)
  | a :: as, bs =>
    if bs.isEmpty then (0, s)
    else
      let next := fun (s : State) => let (k, s) := s.crmPut n dp as (bs.drop 8); (k + 8, s)
      match dp with
      | 0 =>
        match s.crmStop a true with
        | some s => (0, s)
        | none => next (s.onByre (crmByre a) fun y => y.portWrite (2 + n) (a % 0x1000000) (bs.take 8))
      | 1 => next (s.onCrm fun c => c.fill (Creamery.sram + a) (bs.take 8))
      | _ => next (s.onCrm fun c => { c with host := Mem.put c.host a (bs.take 8) })

/-- Execute a creamery tanker's live descriptor, at most `lim` bytes: its code and the bytes moved. -/
def crmMove (s : State) (n : Nat) (d : Desc) (lim : Nat) (hb : List Byte) : Nat × Nat × State :=
  match Creamery.descCheck d with
  | 0 =>
    let len := min d.len lim
    let (code, data, s) := s.crmRead n d.sp ((segWords (segs d.sm d.wrap d.src d.len)).take (len / 8)) hb []
    let (m, s) := s.crmPut n d.dp (segWords (segs d.dm d.wrap d.dst d.len)) data
    (if m < data.length then tcOWNER else code, m, s)
  | code => (code, 0, s)

/-- DESCRIPTOR_COMPLETE of a creamery tanker. -/
def crmRun (s : State) (n : Nat) (hb : List Byte) : State :=
  let k := s.crm.chan n
  if k.st ≠ 1 then s
  else
    let (code, m, s) := s.crmMove n k.desc k.desc.len hb
    s.onCrm fun c => c.tnkFinish n code m

/-- ABORT of a creamery tanker. -/
def crmAbort (s : State) (n cells : Nat) (hb : List Byte) : State :=
  let k := s.crm.chan n
  let late := s.onCrm fun c => c.onChan n fun k => k.setBit 8 true
  if k.st ≠ 1 then late
  else
    let (code, m, s') := s.crmMove n k.desc (64 * cells) hb
    if code ≠ 0 then late else s'.onCrm fun c => c.tnkFinish n tcABORTED m

/-- DISABLE of a creamery tanker (R304): what a live transfer leaves in its destination, and COUNT, are free values. -/
def crmDisable (s : State) (n : Nat) : State :=
  let k := s.crm.chan n
  let d := k.desc
  let f := s.crm.free
  let s := if k.st = 1 then
      let ws := segWords (segs d.dm d.wrap d.dst d.len)
      let ws := if d.dp = 0 then ws.takeWhile fun a => (s.crmStop a true).isNone else ws
      let s := if Creamery.descCheck d = 0 then (s.crmPut n d.dp ws ((List.range d.len).map (Config.lostByte f))).2 else s
      s.onCrm fun c => { c.onChan n fun k => k.setCount (Config.moved f % 2 ^ 24) with free := f + 1 }
    else s
  s.onCrm fun c => c.onChan n Chan.disable

/-! ### What reaches the creamery's staging (R420 to R424) -/

/-- The running ring that binds a byre and stream. -/
def ringOf (s : State) (b : Fin 6) (stream : Nat) : Option Nat :=
  (List.range 32).find? fun r => s.crm.flag (F.CRM_EXP_CFG_EN r) && s.crm.get (F.CRM_EXP_CFG_BYRE r) == b &&
    s.crm.get (F.CRM_EXP_CFG_STREAM r) == stream

/-- A byre's staging. -/
def stagingOf (s : State) (b : Fin 6) : List Xfer := SMap.get (fun _ => []) s.crm.staging b

/-- Can the staging take a whole transfer: it is not bound, it fits in 64 KiB, or it drains straight into a given
descriptor (R424)? -/
def hostRoom (s : State) (b : Fin 6) (stream len : Nat) : Bool :=
  s.crm.up &&
    match s.ringOf b stream with
    | none => true
    | some r =>
      let q := s.stagingOf b
      decide ((q.map fun x => x.data.length).sum + len ≤ 65536) ||
        (q.isEmpty && s.crm.get (F.CRM_EXP_HEAD_HEAD r) != s.crm.get (F.CRM_EXP_TAIL_TAIL r))

/-- The transfer at the front of a staging that finds no given descriptor is counted once (NODESC). -/
def stageFront (s : State) (b : Fin 6) : State :=
  match s.stagingOf b with
  | [] => s
  | x :: xs =>
    match s.ringOf b x.stream with
    | none => s
    | some r =>
      if x.waited || s.crm.get (F.CRM_EXP_HEAD_HEAD r) != s.crm.get (F.CRM_EXP_TAIL_TAIL r) then s
      else s.onCrm fun c =>
        { c.inc (R.CRM_EXP_CNT_NODESC r) with staging := SMap.set (fun _ => []) c.staging b ({ x with waited := true } :: xs) }

/-- A transfer of byre `b` arrives from output 27 (R420): an unbound one is discarded and counted. -/
def hostTake (s : State) (b : Fin 6) (code : Nat) (x : Option (Nat × List Byte)) : State :=
  match x with
  | none => s
  | some (stream, data) =>
    if !s.crm.up then s
    else
      match s.ringOf b stream with
      | none => s.onCrm fun c => c.inc R.CRM_EXP_CNT_UNBOUND
      | some _ =>
        let q := s.stagingOf b ++ [⟨stream, data, code, false⟩]
        (s.onCrm fun c => { c with staging := SMap.set (fun _ => []) c.staging b q }).stageFront b

/-- At the byre's COMMIT every transfer to HOST, TUGUS or FRAME that is live ends (R302); HOST skips while the creamery is
away are counted for its return (R14). -/
def tnkCommit (s : State) (b : Fin 6) : State :=
  (List.range 16).foldl (fun s n =>
    let c := (s.byre b).chan n
    let host := c.st == 1 && c.desc.dp == 2
    let (out, y) := (s.byre b).tnkSkip n
    let y := if host && !s.crm.up then { y with hostSkips := y.hostSkips + 1 } else y
    (s.onByre b fun _ => y).hostTake b 2 out) s

/-- A management write to a creamery tanker: the host's is not applied (R402, R425). -/
def crmTnk (s : State) (m : Master) (a : Nat) (f : State → State) : State :=
  match m with
  | .bar0 => s.busErr .readOnly m true a
  | .bar2 => s.busErr .readOnly m true a
  | _ => if s.shut m then s else f s

/-- A write of the word `v` to BYx_TNK_CTRL: DISABLE, ARM, DOORBELL, ABORT (R299 to R304), the abort after `cells` cells.  While the
byre is RUNNING or DEGRADED, only DOORBELL and ABORT are applied (R313), and a write with anything else is recorded as a locked one. -/
def tnkCtrl (s : State) (b : Fin 6) (m : Master) (n : Fin 24) (v cells : Nat) : State :=
  match s.stop b m (R.TNK_CTRL n) true with
  | some e => s.busErr e m true (byreAddr b (R.TNK_CTRL n))
  | none =>
    let y := s.byre b
    let dis := y.flag (F.TNK_CTRL_DISABLE n)
    let s' := s.onByre b fun y =>
      (if y.live then y
        else ((y.when (!dis && bit v 31) fun y => y.tnkDisable n).when (dis && !bit v 31) fun y => y.onChan n Chan.enable).when (bit v 0)
          fun y => y.onChan n Chan.arm).when (bit v 1) fun y => y.tnkDoorbell n
    let s' := if bit v 2 then
        let (out, y) := (s'.byre b).tnkAbort n cells
        (s'.onByre b fun _ => y).hostTake b 2 out
      else s'
    if y.live && (bit v 31 != dis || bit v 0 || bits v 2 1 == 0) then s'.busErr .locked m true (byreAddr b (R.TNK_CTRL n)) else s'

/-- DISABLE of a channel as it stands, in its place in BYx_TNK_CTRL. -/
def disBit (s : State) (b : Fin 6) (n : Fin 24) : Nat := b2n ((s.byre b).flag (F.TNK_CTRL_DISABLE n)) * 2147483648

end State

/-! ### Commands.  Channels 16 to 23 are the creamery's 0 to 7; `b` names the byre of a channel below 16. -/

/-- TNK_SHADOW_WRITE (R299). -/
def execTnkShadowWrite (b : Fin 6) (m : Master) (n : Fin 24) (w : Fin 8) (v : Word) (s : State) : Host.Outcome State Fault Refusal :=
  .next (if n < 16 then s.mgmtWrite b m (R.TNK_SH n w) fun y => y.onChan n fun c => c.shWrite w v.toNat
    else s.crmTnk m (R.CRM_TNK_SH (n - 16) w) fun s => s.onCrm fun c => c.onChan (n - 16) fun c => c.shWrite w v.toNat)

/-- TNK_ARM (R299): applied only while the byre is neither RUNNING nor DEGRADED. -/
def execTnkArm (b : Fin 6) (m : Master) (n : Fin 24) (s : State) : Host.Outcome State Fault Refusal :=
  .next (if n < 16 then s.tnkCtrl b m n (s.disBit b n + 1) 0
    else s.crmTnk m (R.CRM_TNK_CTRL (n - 16)) fun s => s.onCrm fun c => c.onChan (n - 16) Chan.arm)

/-- TNK_DISABLE (R304): a write of DISABLE is refused while the byre is RUNNING or DEGRADED (R19). -/
def execTnkDisable (b : Fin 6) (m : Master) (n : Fin 24) (s : State) : Host.Outcome State Fault Refusal :=
  .next (if n < 16 then s.tnkCtrl b m n 0x80000000 0
    else s.crmTnk m (R.CRM_TNK_CTRL (n - 16)) fun s => s.crmDisable (n - 16))

/-- TNK_DISABLE_CLEAR (R304). -/
def execTnkDisableClear (b : Fin 6) (m : Master) (n : Fin 24) (s : State) : Host.Outcome State Fault Refusal :=
  .next (if n < 16 then s.tnkCtrl b m n 0 0
    else s.crmTnk m (R.CRM_TNK_CTRL (n - 16)) fun s => s.onCrm fun c => c.onChan (n - 16) Chan.enable)

/-- PAIL_SEND (R295): the thread waits while the input queue is full (R96). -/
def execPailSend (b : Fin 6) (e : Fin 32) (t : Fin 8) (off : Word) (s : State) : Host.Outcome State Fault Refusal :=
  .next (s.onFab b fun y => if y.sendRoom then y.pailSend e t off.toNat else y)

end Sys2Proof.Machine
end

