-- ==== Sys2Proof/Machine/Churn.lean ====
section
/-!
DEFINITION. The churn sequencer (chapter 3): boundaries, plans, schedule words, commit and overrun, audits, epochs,
freeze, and the entry into FAULTED (R468).  A word's effect takes place at its fetch, and its cost elapses after it.
-/

namespace Sys2Proof.Machine

namespace Byre

/-! ### Phases and states -/

/-- PHASE codes of BYx_CHURN_STATUS. -/
abbrev phSTOPPED : Nat := 0
abbrev phIDLE : Nat := 1
abbrev phBEFORE : Nat := 2
abbrev phWAIT : Nat := 3
abbrev phAFTER : Nat := 4
abbrev phPAST : Nat := 5
abbrev phFROZEN : Nat := 6

/-- Set PHASE. -/
def setPhase (y : Byre) (v : Nat) : Byre := y.set F.CHURN_STATUS_PHASE v

/-- Does the churn start plans: RUNNING, DEGRADED, or TEST with a verified live bank that has started (R465)? -/
def plansRun (y : Byre) : Bool := y.live || (y.st == stTEST && y.verified y.bank && !y.ch.startPend)

/-- BYx_TIME_SERVO_OWNER: the live package's thread, or T7 of E0 under the idle plan. -/
def servoSync (y : Byre) : Byre :=
  y.wrN R.TIME_SERVO_OWNER (if y.plansRun then y.servoEp else 7)

/-- A mailbox event that carries a given tick identity (R74). -/
def eventAt (y : Byre) (t : Tick) (code : Nat) (data : List Byte) : Byre :=
  let c := y.tu.cur
  let y := { y with tu := { y.tu with cur := t } }.event code data
  { y with tu := { y.tu with cur := c } }

/-- Change the plan in progress. -/
def onPlan (y : Byre) (f : Plan → Plan) : Byre := { y with ch := { y.ch with plan := y.ch.plan.map f } }

/-- Let `n` churn cycles of 2 ns elapse. -/
def cycles (y : Byre) (n : Nat) : Byre := y.advance (2 * n)

/-- A routine that an interrupt abandons is restarted (R71): a DISPATCH that waits has not reached its commit micro-word; of any other
routine `inRoutine` says whether the interrupt falls before it, which the microcode image decides (assumption log entry 84).  The
time that the abandoned routine has taken lies before the interrupt. -/
def restarted (y : Byre) (inRoutine : Bool) : Byre :=
  y.when (y.ch.plan.elim false fun p => inRoutine || p.wait == .dispatch) fun y => y.inc R.CHURN_CNT_RESTART

/-- An interrupt's routine of `n` cycles (R72): it costs a running plan its cycles. -/
def interrupt (y : Byre) (inRoutine : Bool) (n : Nat) : Byre :=
  y.when y.ch.plan.isSome fun y => (y.restarted inRoutine).cycles n

/-- Whether an interrupt whose command does not say so falls before the commit micro-word of a routine: a free value. -/
def freeMid (y : Byre) : Bool × Byre := (Config.midRoutine y.free, y.useFree)

/-! ### Words (R62 to R69) -/

/-- The eight lanes of a word. -/
def lanes (y : Byre) (bank w : Nat) : List Nat := (List.range 8).map (y.lane bank (w % 16384))

/-- Only the lanes and bits of `masks` hold anything (lanes L1 up). -/
def onlyLanes (ls : List Nat) (masks : List Nat) : Bool :=
  (List.range 7).all fun i => onlyBits (ls.getD (i + 1) 0) (masks.getD i 0)

/-- Is a word free of nonzero reserved bits and of operand values that R67 marks reserved or out of range? -/
def wordOk (ls : List Nat) : Bool :=
  let l := fun i => ls.getD i 0
  bits (l 0) 15 9 == 0 &&
  match bits (l 0) 7 0 with
  | 0x01 => onlyLanes ls [0xFFFFFFFF]
  | 0x02 => onlyLanes ls [0x7]
  | 0x03 => onlyLanes ls [0xFFFF, 0xFFFFFFFF, 0xB1F, 0xFF, 0xFFFFFFFF, 0xFFFFFFFF, 0xFFFF] && bits (l 3) 9 8 != 3
  | 0x04 => onlyLanes ls [0xF, 0xFFFFFFFF] && l 2 % 8 == 0
  | 0x05 => onlyLanes ls [0xF003F, 0xFFFFFFFF, 0xFFFF] &&
      (decide (bits (l 1) 5 0 < 24) || (decide (32 ≤ bits (l 1) 5 0) && decide (bits (l 1) 5 0 < 48)))
  | 0x06 => onlyLanes ls [0x7F]
  | 0x08 => onlyLanes ls [0xFFFF, 0x3FFF] && l 1 != 0
  | 0x0A => onlyLanes ls [0xFF3F] && decide (bits (l 1) 5 0 < 48) && ownerCode (bits (l 1) 15 8)
  | 0x0B => onlyLanes ls [0x3FFF, 0x7FF] && decide (1 ≤ l 2) && decide (l 2 ≤ 1024)
  | 0x0C => onlyLanes ls [0x107]
  | 0x0D => onlyLanes ls [0xFFFF]
  | _ => onlyLanes ls []

/-- The micro-words that a routine fetches: its first one and those that the loaded image makes it execute (R64). -/
def microWords (start : Nat) : List Nat := start :: (Config.microPath start).map (· % 4096)

/-- What a fetch of word `w` finds wrong (R64, R90), with the address that the machine check records. -/
def fetchCheck (y : Byre) (w : Nat) : Option (Nat × Nat) :=
  let opc := y.lane y.bank w 0 % 256
  let disp := y.rdN (R.CHURN_DISP opc)
  match (List.range 8).find? fun l => y.parBad 0 (laneAddr y.bank w l) with
  | some l => some (1, laneAddr y.bank w l)
  | none =>
    if y.parBad 3 opc then some (3, 0x400 + opc * 4)
    else if !bit disp 31 || 0x0F ≤ opc then some (4, w)
    else
      match (microWords (bits disp 11 0)).find? fun m => (List.range 4).any fun q => y.parBad 0 (0xF00000 + m * 16 + q * 4) with
      | some m => some (2, 0xF00000 + m * 16)
      | none => if wordOk (y.lanes y.bank w) then none else some (5, w)

/-- Where the churn goes after word `w` (R69). -/
def afterWord : List LoopLvl → Nat → Nat × List LoopLvl
  | [], w => (w + 1, [])
  | l :: ls, w =>
    if w = l.last then
      if l.left = 0 then afterWord ls w else (l.first, { l with left := l.left - 1, iter := l.iter + 1 } :: ls)
    else (w + 1, l :: ls)

/-- Does the overrun path execute word `w` (R78)? -/
def alwaysWord (y : Byre) (w : Nat) : Bool :=
  let l0 := y.lane y.bank (w % 16384) 0
  bit l0 8 || l0 % 256 == 0x08 || l0 % 256 == 0x0E

/-- From word `w` on, the next word that the overrun path executes (R78).  A body with no such word is left at its end. -/
def skipTo (y : Byre) : Nat → List LoopLvl → Nat → Nat × List LoopLvl
  | 0, ls, w => (w, ls)
  | n + 1, ls, w =>
    if y.alwaysWord w then (w, ls)
    else
      match ls with
      | [] => skipTo y n [] (w + 1)
      | l :: r =>
        if w = l.last then
          (if l.left = 0 ∨ (List.range (l.last + 1 - l.first)).all fun i => !y.alwaysWord (l.first + i) then
            let (w', ls') := afterWord r w
            skipTo y n ls' w'
          else skipTo y n ({ l with left := l.left - 1, iter := l.iter + 1 } :: r) l.first)
        else skipTo y n ls (w + 1)

/-- The most words a skip can pass: every word of the bank once for each loop level. -/
abbrev skipMax : Nat := 49152

/-- The next word of a plan that has gone on from word `w`. -/
def goOn (y : Byre) (p : Plan) (w : Nat) : Plan :=
  let (w', ls) := afterWord p.loops w
  let (w', ls) := if p.overran then y.skipTo skipMax ls w' else (w', ls)
  { p with pc := w', loops := ls, wait := .none }

/-! ### Bindings (R65, R87) -/

/-- First word of binding `n` of a bank. -/
def bindStart (y : Byre) (bank n : Nat) : Nat :=
  if n = 0 then y.lane bank 0 4 % 16384 else y.lane bank 1 (n - 1) % 16384

/-- The engines that a word's DISPATCH can reach, as a mask (R87). -/
def wordEngines (ls : List Nat) : Nat :=
  if ls.getD 0 0 % 256 = 3 then
    let h := bits (ls.getD 3 0) 4 0
    if bits (ls.getD 3 0) 9 8 = 0 then 2 ^ h else 255 * 2 ^ (8 * (h / 8))
  else 0

/-- The engines of the plan at word `w`, up to its END. -/
def planEngines (y : Byre) (bank : Nat) : Nat → Nat → Nat
  | 0, _ => 0
  | n + 1, w =>
    if 16384 ≤ w ∨ y.lane bank w 0 % 256 = 0x0E then 0 else wordEngines (y.lanes bank w) ||| planEngines y bank n (w + 1)

/-- Does binding `n` of a bank use an engine marked bad? -/
def bindBad (y : Byre) (bank n : Nat) : Bool :=
  y.planEngines bank 16384 (y.bindStart bank n) &&& y.rdN R.CHURN_BADENG != 0

/-- The lowest alternate binding whose ALT_AVOID covers every bad engine (R87). -/
def altFor (y : Byre) (bank : Nat) : Option Nat :=
  (List.range 7).map (· + 1) |>.find? fun n =>
    let a := y.lane bank 2 (n - 1)
    a != 0 && (y.rdN R.CHURN_BADENG ||| a) == a

/-! ### The reserve and the boundary after a plan's (R77) -/

/-- The reserve of a rate and RESERVE_NS. -/
def reserveOf (rate ns : Nat) : Nat := if ns = 0 then (1000000000 / max 1 rate + 7) / 8 else ns

/-- B_(t+1) of a plan: the boundary issued next after its own, or the one that the generator issues next. -/
def boundAfter (y : Byre) (p : Plan) : Nat := p.nb.getD y.nextBoundary

/-- Has a plan passed its overrun threshold? -/
def pastThreshold (y : Byre) (p : Plan) : Bool := p.nb.elim false fun n => decide (n + 2000 < y.now)

/-! ### Conservation faults (R479) -/

/-- A conservation fault after COMMIT clears COMMITTED in each header that the press still holds (R479). -/
def uncommit (y : Byre) (slots : List Snap) : Byre :=
  slots.foldl (fun y q => (y.heldAt q).foldl (fun y a =>
    let v := leNat (y.vatRead (a + 56) 2)
    y.vatWrite (a + 56) (leBytes 2 (v - v % 2))) y) y

/-! ### Overrun (R78) -/

/-- Operations of a tick's plan, re-runs among them. -/
def ofPlan (t : Tick) (o : OpEnt) : Bool := o.cls != 2 && o.tick == t

/-- Terminate a thread that runs an operation of the plan: trap 0x07 with detail 1, at once or when a halted thread is
resumed (R78, R247, R481). -/
def terminate (y : Byre) (e t : Nat) : Byre :=
  let y := y.endOp e t 5
  let th := y.thread e t
  if th.halted then y.onThread e t fun th => { th with termDue := true }
  else (y.onThread e t fun th => { th with wait := none }).takeTrap e t ⟨7, 1, 0, 0⟩

/-- End all work of the plan of tick `t`: list entries are withdrawn, threads terminated, results dropped. -/
def endWork (y : Byre) (t : Tick) : Byre :=
  let y := { y with rota := { y.rota with recq := y.rota.recq.filter fun o => !ofPlan t o, stalled := false } }
  let y := (y.rota.ents.filter (ofPlan t)).foldl withdraw y
  let y := (y.thr.map (·.1)).foldl (fun y k =>
    if (y.thread (k / 8) (k % 8)).op.elim false fun r => ofPlan t r.ent then
      { y.terminate (k / 8) (k % 8) with waiters := SMap.set (fun _ => 0) y.waiters k 0 }
    else y) y
  (y.dropResults t).pressOverrun t

/-- The plan in progress goes to its overrun path; `w` says the first word that is not skipped over unseen (R78). -/
def overPath (y : Byre) (p : Plan) (ls : List LoopLvl) (w : Nat) (conserve : Bool) : Byre :=
  let y := y.endWork p.tick
  let (w, ls) := y.skipTo skipMax ls w
  let y := { y with ch := { y.ch with overs := (p.tick :: y.ch.overs).take 4 } }
  y.onPlan fun p => { p with overran := true, conserve := conserve, wait := .none, pc := w, loops := ls }

/-- An overrun is counted, and the third in a row outside TEST faults the byre at the next boundary (R78, R79, R472). -/
def countOverrun (y : Byre) : Byre :=
  let y := y.inc R.CHURN_CNT_OVERRUN
  let n := y.get F.CHURN_STATUS_OVR_RUN
  if n < 2 then y.set F.CHURN_STATUS_OVR_RUN (n + 1)
  else if y.st = stTEST then y
  else { y with ch := { y.ch with halted := true, faultPend := some 2 } }

/-- OVERRUN: the threshold of the plan in progress passes without a commit. -/
def overrun (y : Byre) : Byre :=
  match y.ch.plan with
  | none => y
  | some p =>
    match p.committed || p.overran, p.nb with
    | false, some n =>
      let y := (y.advanceTo (n + 2000)).countOverrun
      let (w, ls) := match p.wait with
        | .none => (p.pc, p.loops)
        | _ => afterWord p.loops p.pc
      y.overPath p ls w false
    | _, _ => y

/-! ### Arms (R84, R85) -/

/-- An arm comes too late: flagged, counted and evented (R20). -/
def lateFlag (y : Byre) (a : Tick) : Byre :=
  ((y.put F.CHURN_ARM_STATUS_LATE_EPOCH true).inc R.CHURN_CNT_LATE_EPOCH).event 0x20
    (leBytes 4 (y.lane y.stby 0 2 % 65536) ++ leBytes 4 (a.s % 2 ^ 32) ++ leBytes 4 a.k)

/-- A pending arm that comes too late (R20, R88). -/
def lateArm (y : Byre) (a : Tick) : Byre :=
  ({ y with ch := { y.ch with arm := none, armGone := true } }.put F.CHURN_STATUS_ARMED false).lateFlag a

/-- The arm of the standby banks. -/
def armWrite (y : Byre) : Byre :=
  let t : Tick := ⟨y.nearSec (y.rdN R.CHURN_ARM_SEC), y.get F.CHURN_ARM_K_K⟩
  let sb := y.lane y.stby 0 0 % 16384
  let code :=
    if !y.verified y.stby then 1
    else if sb ≠ y.lane y.bank 0 0 % 16384 ∧ t.k ≠ 0 then 2
    else if y.ch.arm.isSome then 3
    else if !(y.live || y.st == stREADY) then 4
    else if sb ≤ t.k then 5 else 0
  if code ≠ 0 then ((y.put F.CHURN_ARM_STATUS_REFUSED true).set F.CHURN_ARM_STATUS_REFUSE_CODE code).inc R.CHURN_CNT_REFUSED_ARM
  else
    let y := { y with ch := { y.ch with armGone := false } }
    if tickNs (max 1 sb) t ≤ y.now ∨ (y.tu.issued ∧ Tick.le t y.tu.cur) then y.lateArm t
    else
      ({ y with ch := { y.ch with arm := some t } }.put F.CHURN_STATUS_ARMED true).set F.CHURN_ARM_STATUS_ARMED_EPOCH
        (y.lane y.stby 0 2)

/-- CANCEL: a pending arm is removed; one that its boundary has consumed is not (R85). -/
def armCancel (y : Byre) : Byre := { y with ch := { y.ch with arm := none } }.put F.CHURN_STATUS_ARMED false

/-! ### The epoch swap (R86) -/

/-- Is the header of a bank readable and free of reserved bits (R65, R90)?  Otherwise cause and address. -/
def headerCheck (y : Byre) (bank : Nat) : Option (Nat × Nat) :=
  let masks := [0x3FFF, 0xFFFFFFFF, 0xFFFF, 0xFFFFFFFF, 0x3FFF, 0xFF, 0, 0] ++ List.replicate 7 0x3FFF ++ [0] ++
    List.replicate 7 0xFFFFFFFF ++ [0] ++ List.replicate 8 0
  match (List.range 32).find? fun i => y.parBad 0 (laneAddr bank (i / 8) (i % 8)) with
  | some i => some (1, laneAddr bank (i / 8) (i % 8))
  | none =>
    match (List.range 32).find? fun i => !onlyBits (y.lane bank (i / 8) (i % 8)) (masks.getD i 0) with
    | some i => some (5, i / 8)
    | none => none

/-- Does group `g` restart at a swap between two banks (R176)? -/
def restarts (y : Byre) (old new g : Nat) : Bool :=
  y.lane old 0 0 != y.lane new 0 0 || (List.range 8).any (fun w => y.pGroup old g w != y.pGroup new g w) ||
    ((y.groupMembers old g ++ y.groupMembers new g).any fun m =>
      (List.range 8).any fun w => y.pStream old m.1 w != y.pStream new m.1 w)

/-- Run every queued seal; the press works beside the churn, so the byre's time does not move on here. -/
def runSeals (y : Byre) : Nat → Byre
  | 0 => y
  | n + 1 => runSeals y.sealPass n

/-- The restart seals of a swap boundary (R49, R176): every open tick of a restarting group is sealed under the old
configuration, and its ring closes until the swap. -/
def restartSeals (y : Byre) (t : Tick) : Byre :=
  let old := y.bank
  let rate := y.tu.rate
  let cn := tickNo rate t
  let gs := (List.range 8).filter fun g => (y.group g).on && y.restarts old (1 - old) g
  let reqs := gs.flatMap fun g =>
    (((List.range (cn - (y.group g).next)).map ((y.group g).next + ·)).filter fun n => !y.skipped n).map fun n =>
      (⟨g, tickOf rate n, true, old, rate, t, y.tu.clk⟩ : SealReq)
  let tu := y.tu
  let y := { y with sealq := y.sealq ++ reqs }
  let y := y.runSeals y.sealq.length
  { gs.foldl groupStop y with tu := tu }

/-- The new rate reaches the tick generator at the swap boundary (R86): skipped ticks of the old numbering are forgotten. -/
def newRate (y : Byre) (t : Tick) (rate : Nat) : Byre :=
  if rate = y.tu.rate then y
  else
    let y := { y with tu := { y.tu with rate := rate }, skips := [] }
    (y.genAt (tickOf rate (tickNo rate t + 1))).set F.TIME_TICK_RATE_RATE rate

/-- Select a binding (R86, R87): BINDING, the affinity table (R207), and RUNNING or DEGRADED.  A DEGRADED byre that selects the primary
binding returns to RUNNING also where that binding uses a bad engine and no alternate covers it: R86 says so without exception, and
R466 names only the case without bad engines (DEDUCED, assumption log entry 84). -/
def bindTo (y : Byre) (n : Nat) : Byre :=
  let y := { y.set F.CHURN_STATUS_BINDING n with rota := { y.rota with aff := [] } }
  if y.st = stRUNNING ∧ n ≠ 0 then y.setState stDEGRADED 4
  else if y.st = stDEGRADED ∧ n = 0 then y.setState stRUNNING 4
  else y

/-- Record the identity of a swap or binding flip. -/
def swapIdent (y : Byre) (t : Tick) : Byre := (y.wrN R.CHURN_SWAP_SEC (t.s % 2 ^ 32)).wrN R.CHURN_SWAP_K t.k

/-- The epoch swap of boundary `t` (R86); an arm that waited for it is judged now (R85). -/
def epochSwap (y : Byre) (t : Tick) : Byre :=
  let old := y.bank
  let new := 1 - old
  match y.headerCheck new with
  | some (c, a) => y.machineCheck c a
  | none =>
    let gs := (List.range 8).filter fun g => y.plansRun && y.restarts old new g
    let y := (y.set F.CHURN_STATUS_LIVE_BANK new).set F.CHURN_EPOCH_PREV (y.get F.CHURN_EPOCH_LIVE)
    let y := (y.set F.CHURN_EPOCH_LIVE (y.lane new 0 2)).put F.CHURN_VERIFY_VERIFIED_STBY (y.verified old)
    let y := y.wrN R.CHURN_RESERVE (reserveOf (y.lane new 0 0) (y.lane new 0 1))
    let y := ((y.swapIdent t).put F.CHURN_ARM_STATUS_SWAP_DONE true).inc R.CHURN_CNT_SWAP
    let alt := if y.bindBad new 0 then y.altFor new else none
    let y := (y.put F.CHURN_STATUS_DEGRADE_PEND false).bindTo (alt.getD 0)
    let y := y.when alt.isSome fun y => y.inc R.CHURN_CNT_DEGRADE
    let y := gs.foldl groupStart ((y.pubSwap old new).subSwap old new)
    let y := if y.ch.armDefer then { y with ch := { y.ch with armDefer := false } }.armWrite else y
    (y.servoSync).eventAt t 0x21 (leBytes 2 (y.get F.CHURN_EPOCH_LIVE) ++ leBytes 2 (y.get F.CHURN_EPOCH_PREV))

/-- A scheduled binding flip (R87). -/
def bindFlip (y : Byre) (t : Tick) : Byre :=
  (((y.bindTo y.ch.flipTo).put F.CHURN_STATUS_DEGRADE_PEND false).swapIdent t).inc R.CHURN_CNT_DEGRADE

/-! ### Plans (R73, R74) -/

/-- A plan starts: the flip due, then the start word of the live binding; past its own threshold it starts on the overrun
path. -/
def startPlan (y : Byre) (p : Plan) : Byre :=
  let y := if p.flip = 1 then y.epochSwap p.tick else if p.flip = 2 then y.bindFlip p.tick else y
  if y.ch.halted then y
  else
    let w := y.bindStart y.bank (y.get F.CHURN_STATUS_BINDING)
    let p := { p with pc := w, loops := [], wait := .none }
    let y := { y with ch := { y.ch with plan := some p, planNo := y.ch.planNo + 1, sealed := [] }, fresh := y.fresh.filter (·.plan == p.tick), goDec := [],
                      rota := { y.rota with ended := y.rota.ended.filter (·.1 == p.tick), disp := y.rota.disp.filter (·.1 == p.tick),
                                            seals := y.rota.seals.filter (·.1 == p.tick) } }
    let y := ((y.inc R.CHURN_CNT_PLAN).recPlanStart p.tick).setPhase (if p.nb.isSome then phPAST else phBEFORE)
    if y.pastThreshold p then y.countOverrun.overPath p [] w false else y

/-- PENDING_PLAN_START (R74): no plan starts while the byre is frozen (R82). -/
def pendingStart (y : Byre) : Byre :=
  match y.ch.plan, y.ch.pend with
  | none, p :: ps =>
    if y.ch.halted || !y.plansRun || y.tu.frozenAt.isSome then y
    else { y with ch := { y.ch with pend := ps } }.cycles 4 |>.startPlan p
  | _, _ => y

/-- The plan in progress ends (R74, R395). -/
def planEnds (y : Byre) (p : Plan) : Byre :=
  let y := { y with ch := { y.ch with plan := none } }.recPlanEnd p.tick
  y.setPhase (if y.ch.halted then phSTOPPED else if y.tu.frozenAt.isSome then phFROZEN else if y.plansRun then phAFTER else phIDLE)

/-! ### The boundary (R73) -/

/-- Sample the arm state at boundary `t` (R73 step 1, R88, R42): is a swap due? -/
def sampleArm (y : Byre) (t : Tick) : Bool × Byre :=
  match y.ch.arm with
  | none => (false, y)
  | some a =>
    if a = t then
      if y.verified y.stby then
        (true, { y with ch := { y.ch with arm := none, armGone := true } }.put F.CHURN_STATUS_ARMED false)
      else (false, y.lateArm a)
    else if Tick.le a t then (false, y.lateArm a)
    else (false, y)

/-- byre_stop at a boundary (R466, R328): the work of plans in progress ends uncommitted. -/
def stopAt (y : Byre) : Byre :=
  let y := (y.ch.plan.toList ++ y.ch.pend).foldl (fun y p => y.endWork p.tick) y
  let y := { y with ch := { y.ch with plan := none, pend := [], stopPend := false, startPend := false }, sealq := [] }
  let y := (List.range 8).foldl groupStop y
  (((y.setState stREADY 0).calStop).setPhase phIDLE).servoSync

/-- byre_start, and the first boundary of TEST (R466, R176): every group starts. -/
def startAt (y : Byre) : Byre :=
  let y := { y with ch := { y.ch with startPend := false } }
  let y := if y.st = stREADY then y.setState stRUNNING 0 else y
  ((List.range 8).foldl groupStart y).servoSync

/-- The boundaries seen by plans in progress: B_(t+1) of the latest is this one (R77). -/
def markNext (y : Byre) (bt : Nat) : Byre :=
  let f := fun (p : Plan) => { p with nb := some (p.nb.getD bt) }
  { y with ch := { y.ch with plan := y.ch.plan.map f, pend := y.ch.pend.map f } }

/-- The freeze takes effect at this boundary, which is not issued (R56, R82). -/
def freezeAt (y : Byre) (t : Tick) (bt : Nat) : Byre :=
  let y := { y with tu := { y.tu with freezePend := false, frozenAt := some t } }.put F.TIME_STATUS_FROZEN true |>.updTickRun
  let y := (y.markNext bt).updBound
  if y.ch.plan.isNone then y.setPhase phFROZEN else y

/-- The quality in force at a boundary (R37, R38, R175). -/
def boundaryQuality (y : Byre) : Byre :=
  let y := y.updBound.updQual
  { y with bq := (y.get F.TIME_QUAL_TQ, y.get F.TIME_QUAL_SMPSYNCH, y.rdN R.TIME_ERR_BOUND) }

/-- The identity of an issued boundary becomes the current tick, and the generator goes on (R46). -/
def issueTick (y : Byre) (t : Tick) : Byre :=
  let y := { y with tu := { y.tu with cur := t, issued := true } }
  ((y.set F.TIME_TICK_SEC_SEC t.s).set F.TIME_TICK_K_K t.k).genStep

/-- Step 5 of R73: the plan of boundary `t` starts or is marked pending. -/
def planDue (y : Byre) (t : Tick) (bt mono flip : Nat) : Byre :=
  let p : Plan := ⟨t, bt, mono, none, flip, y.tu.rate, 0, [], .none, false, false, false⟩
  let y := y.cycles 24
  if y.ch.plan.isNone && y.ch.pend.isEmpty then y.startPlan p
  else { y with ch := { y.ch with pend := y.ch.pend ++ [p] } }.setPhase phPAST

/-- The boundary routine of a churn that runs (R73). -/
def boundaryRoutine (y : Byre) (t : Tick) (bt mono : Nat) : Byre :=
  let (swap, y) := y.sampleArm t
  let y := y.refuse.recCut.releaseByTick.requestRebuilds
  let y := if swap then
      let rate := y.lane y.stby 0 0 % 16384
      (if y.plansRun then y.restartSeals t else y).newRate t rate
    else y
  let y := if y.ch.stopPend then y.stopAt else y
  let flip := if swap then 1 else if y.flag F.CHURN_STATUS_DEGRADE_PEND && t.k == 0 then 2 else 0
  let idleSwap := swap && !y.plansRun
  let y := if idleSwap then y.epochSwap t else y
  let y := if y.ch.startPend && y.verified y.bank && (y.st == stREADY || y.st == stTEST) then y.startAt else y
  if y.ch.halted then y
  else if y.plansRun then y.planDue t bt mono (if idleSwap then 0 else flip)
  else y.setPhase phIDLE

/-- TICK_BOUNDARY: the generator's next boundary.  A pending step applies there in its place (R41).  A detection in the time unit's
registers shows at a boundary (R474). -/
def tickBoundary (y : Byre) (inRoutine : Bool) : Byre :=
  if y.tu.rate = 0 || y.tu.frozenAt.isSome || y.tu.stopped || y.flag F.TIME_STATUS_STEP_PEND then y
  else
    let t : Tick := ⟨y.tu.genS, y.tu.genK⟩
    let bt := y.nextBoundary
    let y := y.advanceTo bt
    let mono := y.tu.mono - (y.now - bt)
    if y.tu.freezePend then y.freezeAt t bt
    else
      let y := ((y.issueTick t).markNext bt).boundaryQuality
      let (bad, y) := y.parCheck spTime 0
      let y := y.when bad fun y => y.detectFatal 10 0 0
      match y.ch.faultPend with
      | some r => { y with ch := { y.ch with faultPend := none, halted := true } }.setState stFAULTED r
      | none =>
        if y.ch.halted || !(y.plansRun || y.st == stREADY || y.st == stTEST) then y
        else (y.restarted inRoutine).boundaryRoutine t bt mono

/-- A boundary that is due takes its turn before the routines that R72 ranks below it. -/
def boundaryFirst (y : Byre) : Byre := if y.nextBoundary ≤ y.now then y.tickBoundary false else y

/-- An arm write, with CANCEL applied first where the write sets it too (R72, R84, R85).  Where the cancel comes too late for a swap that
still waits for its plan, the arm waits for that swap. -/
def armReq (y : Byre) (cancel inRoutine : Bool) : Byre :=
  let y := y.boundaryFirst.interrupt inRoutine 8
  let y := y.when cancel armCancel
  if cancel && y.ch.pend.any (·.flip == 1) then { y with ch := { y.ch with armDefer := true } } else y.armWrite

/-! ### Schedule words -/

/-- The churn runs the word at its program counter, if the word has opcode `opc` (R67): `f` gives its effect, `n` its cost
in cycles.  Whatever the opcode, a fetch that finds the word damaged or illegal is a machine check (R90). -/
def word (y : Byre) (opc n : Nat) (f : Plan → (Nat → Nat) → Byre → Byre) : Byre :=
  match y.ch.plan with
  | none => y
  | some p =>
    if p.wait ≠ .none || y.rota.stalled || !y.rota.recq.isEmpty || (!p.committed && !p.overran && y.pastThreshold p) then y
    else
      match y.fetchCheck (p.pc % 16384) with
      | some (c, a) => y.machineCheck c a
      | none =>
        let ls := y.lanes y.bank p.pc
        if ls.getD 0 0 % 256 ≠ opc then y
        else
          let y := (y.set F.CHURN_PC_TAG (bits (ls.getD 0 0) 31 16)).set F.CHURN_PC_WORD p.pc
          let y := (y.set F.CHURN_UPC_OPC opc).set F.CHURN_UPC_UPC (bits (y.rdN (R.CHURN_DISP opc)) 11 0)
          (f p (fun i => ls.getD i 0) y).cycles n

/-- The plan goes on after its present word. -/
def wordDone (y : Byre) : Byre := y.onPlan fun p => y.goOn p p.pc

/-- A word that completes in its own cost. -/
def plainWord (y : Byre) (opc n : Nat) (f : Plan → (Nat → Nat) → Byre → Byre) : Byre :=
  y.word opc n fun p l y => (f p l y).wordDone

/-- WAIT_OFS: its cost elapses, and it waits for B_t + OFS_NS or goes on. -/
def waitOfs (y : Byre) : Byre :=
  y.word 0x01 0 fun p l y =>
    let y := y.cycles 2
    if p.bt + l 1 ≤ y.now then y.wordDone else y.onPlan fun p => { p with wait := .ofs (p.bt + l 1) }

/-- WAIT_OFS_MET: the byre's time reaches the instant. -/
def waitMet (y : Byre) : Byre :=
  match y.ch.plan with
  | some p =>
    match p.wait with
    | .ofs t => (y.advanceTo t).wordDone
    | _ => y
  | none => y

/-- The ready-list entry of a DISPATCH word (R67, R201). -/
def dispatchEnt (p : Plan) (l : Nat → Nat) : OpEnt :=
  let i := if bit (l 3) 11 then (p.loops.head?).elim 0 (·.iter) else 0
  { seq := 0, cls := 1, id := (bits (l 1) 15 0 + i) % 65536, d1 := i, entry := bits (l 7) 15 0, home := bits (l 3) 4 0,
    spill := bits (l 3) 9 8, budget := l 2, groups := bits (l 4) 7 0,
    preds := [bits (l 5) 15 0, bits (l 5) 31 16, bits (l 6) 15 0, bits (l 6) 31 16], tick := p.tick, info := 0, ready := none }

/-- Place a plan's entry on the ready list. -/
def dispatchPut (y : Byre) (o : OpEnt) : Byre :=
  ({ y with rota := { y.rota with disp := y.rota.disp ++ [(o.tick, o.id)] } }.enterList o).inc R.ROTA_CNT_DISPATCH

/-- DISPATCH: enqueues, or waits while no entry outside the sixteen is free (R208). -/
def dispatchWord (y : Byre) : Byre :=
  y.word 0x03 4 fun p l y =>
    if y.occPlain < 4080 then (y.dispatchPut (dispatchEnt p l)).wordDone
    else (y.inc R.ROTA_CNT_FULL_STALL).onPlan fun p => { p with wait := .dispatch }

/-- Entries kept for re-runs that are taken (R208). -/
def rerunsIn (y : Byre) : Nat := (y.rota.ents.filter (·.cls == 0)).length

/-- The oldest recompute request enters the list (R80). -/
def rerunPut (y : Byre) : Byre :=
  match y.rota.recq with
  | [] => y
  | o :: r => ({ y with rota := { y.rota with recq := r, stalled := false } }.enterList o).cycles 4

/-- RECOMPUTE_REQUEST (R72, R80): the request is counted and its operation enqueued, or waits for one of the sixteen. -/
def recompute (y : Byre) (inRoutine : Bool) : Byre :=
  if y.rota.recq.isEmpty || y.rota.stalled || y.ch.halted then y
  else
    let y := (y.boundaryFirst.restarted inRoutine).inc R.CHURN_CNT_RECOMPUTE
    if y.rerunsIn < 16 then y.rerunPut
    else { y with rota := { y.rota with stalled := true } }.inc R.ROTA_CNT_FULL_STALL

/-- DISPATCH_STALL_END (R208). -/
def stallEnd (y : Byre) : Byre :=
  if y.rota.stalled then (if y.rerunsIn < 16 then y.rerunPut else y)
  else
    match y.ch.plan with
    | some p =>
      if p.wait = .dispatch ∧ y.occPlain < 4080 then
        let ls := y.lanes y.bank p.pc
        (y.dispatchPut (dispatchEnt p fun i => ls.getD i 0)).wordDone
      else y
    | none => y

/-- LAUNCH; on the overrun path it writes an empty entry (R78). -/
def launchW (y : Byre) : Byre :=
  y.plainWord 0x05 6 fun p l y => y.launchWord (bits (l 1) 5 0) (bits (l 1) 19 16) (l 2) (bits (l 3) 15 0) p.tick p.rate p.overran

/-- LOOP (R69).  The first iteration has number 0 (DESIGN CHOICE: R67 gives IDX no base, assumption log entry 84). -/
def loopWord (y : Byre) : Byre :=
  y.word 0x08 2 fun p l y =>
    let ls : List LoopLvl := ⟨p.pc + 1, bits (l 2) 13 0, l 1 - 1, 0⟩ :: p.loops
    let (w, ls) := if p.overran then y.skipTo skipMax ls (p.pc + 1) else (p.pc + 1, ls)
    y.onPlan fun p => { p with pc := w, loops := ls }

/-- COMMIT begins to wait: a predecessor that the plan has not dispatched counts as WITHDRAWN (R205).  On the overrun path
nothing is left to commit. -/
def commitWord (y : Byre) : Byre :=
  y.word 0x09 0 fun p _ y =>
    if p.overran then (y.cycles 4).wordDone
    else
      let miss := ((y.rota.ents.filter fun o => o.cls == 1 && o.tick == p.tick).flatMap (·.preds)).eraseDups.filter fun i =>
        i != 0xFFFF && !(y.rota.disp.contains (p.tick, i)) && (y.endedSt p.tick i).isNone
      let y := miss.foldl (fun y i =>
        { y with rota := { y.rota with ended := y.rota.ended ++ [(p.tick, i, 4)] } }.inc R.ROTA_CNT_PRED_MISSING) y
      (y.refresh.onPlan fun p => { p with wait := .commit }).setPhase (if p.nb.isSome then phPAST else phWAIT)

/-- Has all work of the plan of tick `t` ended (R76)? -/
def workDone (y : Byre) (t : Tick) : Bool :=
  !(y.rota.ents.any (ofPlan t)) && !(y.rota.recq.any (ofPlan t)) &&
    y.thr.all fun q => q.2.op.elim true fun r => !ofPlan t r.ent

/-- The commit instant of the plan (R76, R77, R79). -/
def commitNow (y : Byre) (p : Plan) : Byre :=
  let ofs := min 0xFFFFFFFF (y.tu.mono - p.btMono)
  let y := (y.wrN R.CHURN_COMMIT_LAST ofs).wrN R.CHURN_COMMIT_MAX (max ofs (y.rdN R.CHURN_COMMIT_MAX))
  let b := y.boundAfter p
  let y := if b < y.now then y.inc R.CHURN_CNT_MARGIN
    else if b < y.now + y.rdN R.CHURN_RESERVE then y.inc R.CHURN_CNT_RESERVE else y
  let y := { y.set F.CHURN_STATUS_OVR_RUN 0 with ch := { y.ch with committedOnce := true, marked := y.fresh.filter (·.plan == p.tick) } }
  let y := ((y.commitResults p.tick).pressCommit p.tick).updOk
  ((y.onPlan fun p => { p with committed := true }).setPhase (if p.nb.isSome then phPAST else phAFTER)).wordDone

/-- Is the commit of the plan in progress due? -/
def commitDue (y : Byre) : Option Plan :=
  match y.ch.plan with
  | some p => if p.wait = .commit && y.workDone p.tick && !y.pastThreshold p then some p else none
  | none => none

/-- RECORD (R392). -/
def recordW (y : Byre) : Byre := y.plainWord 0x0C 8 fun p l y => y.recWord (bits (l 1) 2 0) (bit (l 1) 8) p.tick

/-- SWAP: the binding check point (R87). -/
def swapWord (y : Byre) : Byre :=
  y.plainWord 0x07 8 fun _ _ y =>
    if y.bindBad y.bank (y.get F.CHURN_STATUS_BINDING) then
      match y.altFor y.bank with
      | some n => { y with ch := { y.ch with flipTo := n } }.put F.CHURN_STATUS_DEGRADE_PEND true
      | none => y
    else y

/-! ### AUDIT (R81, R312) -/

/-- Pails of a pool whose state bit is 1. -/
def allocated (y : Byre) (p : Nat) : Nat := ((y.pailsOf p).filter y.pailUsed).length

/-- Free pails that a rebuild has not pushed yet: they are in transit (R312). -/
def unlisted (y : Byre) (p : Nat) : Nat :=
  if y.flag (F.PAIL_POOL_STAT_REBUILDING p) then
    ((y.pailsOf p).filter fun o => !y.pailUsed o && !y.scanned p o).length
  else 0

/-- Does the book of a MASK bit balance? -/
def bookOk (y : Byre) : Nat → Bool
  | 0 => (List.range 4).all fun p =>
      y.get (F.PAIL_POOL_STAT_FREE p) + y.allocated p + y.unlisted p == y.poolTotal p
  | 1 => (List.range 32).all fun o =>
      y.get (F.SW_CREDIT_FREE o) + y.credHeld o ==
        y.get (F.SW_CREDIT_TOTAL o) + SMap.get (fun _ => 0) y.deficit o
  | 2 => y.get F.ROTA_TOKENS_FREE + y.rota.ents.length + y.get F.ROTA_TOKENS_IN_TRANSIT == 4096
  | 3 => y.tugBooks
  | 4 => ((List.range 36).map fun r => y.get (F.PAIL_USED_USED r)).sum ==
      ((List.range 4).map fun p => y.allocated p * (pailSize p / 128)).sum
  | 5 => (List.range 16).all fun n =>
      (y.rdN (R.TNK_TAKEN n) + (2 ^ 32 - y.rdN (R.TNK_RETURNED n))) % 2 ^ 32 == y.get (F.TNK_STATUS_HELD n) &&
        decide (y.get (F.TNK_STATUS_HELD n) ≤ 2)
  | _ => (List.range 48).all (fun k => ownerCode (y.bankOwner k)) &&
      ((List.range 48).filter fun k => y.flag (F.VAT_OWNER_PEND k)).length == y.get F.VAT_BOOK_IN_TRANSIT

/-- A conservation fault (R479, R480): counted, evented with the book's bit, and FAULTED at the next boundary when it follows
an earlier one within 16 plans. -/
def conserveFault (y : Byre) (i : Nat) : Byre :=
  let again := y.ch.lastConserve.elim false fun n => decide (n < y.ch.planNo) && decide (y.ch.planNo ≤ n + 16)
  let y := (y.inc R.CHURN_CNT_CONSERVE).stateEvent y.st y.st 6 i 0 0 0
  { y with ch := { y.ch with lastConserve := some y.ch.planNo, faultPend := if again then some 3 else y.ch.faultPend } }

/-- AUDIT: the lowest book that fails is named. -/
def auditWord (y : Byre) : Byre :=
  y.word 0x06 24 fun p l y =>
    match (List.range 7).find? fun i => bit (l 1) i && !y.bookOk i with
    | none => y.wordDone
    | some i =>
      let y := y.conserveFault i
      if p.committed then (y.uncommit y.ch.marked).wordDone
      else if p.overran then y.wordDone
      else
        let (w, ls) := afterWord p.loops p.pc
        y.overPath p ls w true

/-! ### Freeze (R56, R82) -/

/-- A write of FREEZE. -/
def freezeWrite (y : Byre) (v : Bool) : Byre :=
  let y := y.put F.CHURN_CTRL_FREEZE v
  if v then (if y.tu.frozenAt.isNone then { y with tu := { y.tu with freezePend := true } } else y)
  else
    let y := { y with tu := { y.tu with freezePend := false } }
    match y.tu.frozenAt with
    | none => y
    | some t =>
      let rate := y.tu.rate
      let y := ({ y with tu := { y.tu with frozenAt := none } }.put F.TIME_STATUS_FROZEN false).updTickRun
      let f := firstTickFrom rate (y.now + if y.tu.frac = 0 then 0 else 1)
      let n := tickNo rate f
      let n0 := tickNo rate t
      let y := ((y.genAt (if n < n0 then t else f)).incBy R.TIME_CNT_SKIP_FREEZE (n - n0)).addSkips n0 n
      if y.ch.plan.isSome then y else y.setPhase (if y.plansRun then phAFTER else phIDLE)

/-! ### FAULTED (R468) -/

/-- BYRE_FAULT_ENTRY: what the byre stops on entry to FAULTED. -/
def faultEntry (y : Byre) : Byre :=
  if !y.ch.entryDue then y
  else
    let y := { y with ch := { y.ch with entryDue := false, plan := none, pend := [], halted := true, startPend := false,
                                        stopPend := false }, sealq := [] }
    let y := if y.get F.CHURN_STATUS_PHASE = 7 then y else y.setPhase phSTOPPED
    let y := (List.range 32).foldl engineStop y
    let y := (List.range 16).foldl tnkDisable y
    let y := ({ y with rota := { y.rota with ents := [], recq := [], stalled := false } }.set F.ROTA_TOKENS_FREE 4096).rotaSync
    let y := (List.range 8).foldl groupStop y
    y.updOk.calStop

end Byre

/-! ### Commands -/

/-- PENDING_PLAN_START (R74). -/
def execPendingPlanStart (b : Fin 6) (s : State) : Host.Outcome State Fault Refusal := .next (s.onFab b Byre.pendingStart)

/-- NOP (R67). -/
def execNop (b : Fin 6) (s : State) : Host.Outcome State Fault Refusal :=
  .next (s.onFab b fun y => y.plainWord 0x00 1 fun _ _ y => y)

/-- WAIT_OFS (R67). -/
def execWaitOfs (b : Fin 6) (s : State) : Host.Outcome State Fault Refusal := .next (s.onFab b Byre.waitOfs)

/-- WAIT_OFS_MET (R67). -/
def execWaitOfsMet (b : Fin 6) (s : State) : Host.Outcome State Fault Refusal := .next (s.onClock b Byre.waitMet)

/-- SEAL (R67, R169). -/
def execSeal (b : Fin 6) (s : State) : Host.Outcome State Fault Refusal :=
  .next (s.onFab b fun y => y.plainWord 0x02 16 fun p l y => y.sealWord (l 1 % 8) p.tick)

/-- DISPATCH (R67, R205). -/
def execDispatch (b : Fin 6) (s : State) : Host.Outcome State Fault Refusal := .next (s.onFab b Byre.dispatchWord)

/-- DISPATCH_STALL_END (R208). -/
def execDispatchStallEnd (b : Fin 6) (s : State) : Host.Outcome State Fault Refusal := .next (s.onFab b Byre.stallEnd)

/-- TANKER (R67, R299). -/
def execTanker (b : Fin 6) (s : State) : Host.Outcome State Fault Refusal :=
  .next (s.onFab b fun y => y.plainWord 0x04 8 fun _ l y => y.tankerWord (l 1 % 16) (l 2))

/-- LAUNCH (R67, R323). -/
def execLaunch (b : Fin 6) (s : State) : Host.Outcome State Fault Refusal := .next (s.onFab b Byre.launchW)

/-- AUDIT (R81, R312). -/
def execAudit (b : Fin 6) (s : State) : Host.Outcome State Fault Refusal := .next (s.onFab b Byre.auditWord)

/-- SWAP (R87). -/
def execSwap (b : Fin 6) (s : State) : Host.Outcome State Fault Refusal := .next (s.onFab b Byre.swapWord)

/-- LOOP (R69). -/
def execLoop (b : Fin 6) (s : State) : Host.Outcome State Fault Refusal := .next (s.onFab b Byre.loopWord)

/-- COMMIT (R76). -/
def execCommit (b : Fin 6) (s : State) : Host.Outcome State Fault Refusal := .next (s.onFab b Byre.commitWord)

/-- COMMIT_INSTANT (R76, R180, R302): results become visible, transfers not begun at the commit point are skipped, and the
word's cost elapses. -/
def execCommitInstant (b : Fin 6) (s : State) : Host.Outcome State Fault Refusal :=
  .next (if s.on b domFAB then
    match (s.byre b).commitDue with
    | some p => ((s.onByre b fun y => y.commitNow p).tnkCommit b).onByre b fun y => y.cycles 4
    | none => s
  else s)

/-- HANDOVER (R67, R282). -/
def execHandover (b : Fin 6) (s : State) : Host.Outcome State Fault Refusal :=
  .next (s.onFab b fun y => y.plainWord 0x0A 4 fun _ l y => y.handoverWord (bits (l 1) 5 0) (bits (l 1) 15 8))

/-- SWEEP (R67, R145). -/
def execSweep (b : Fin 6) (s : State) : Host.Outcome State Fault Refusal :=
  .next (s.onFab b fun y => y.plainWord 0x0B 4 fun _ l y => (y.emuSweep (l 1) (l 2)).cycles (2 * l 2))

/-- RECORD (R67, R392). -/
def execRecord (b : Fin 6) (s : State) : Host.Outcome State Fault Refusal := .next (s.onFab b Byre.recordW)

/-- EVENT (R67). -/
def execEvent (b : Fin 6) (s : State) : Host.Outcome State Fault Refusal :=
  .next (s.onFab b fun y => y.plainWord 0x0D 4 fun p l y => y.eventAt p.tick 0x40 (leBytes 2 (l 1)))

/-- END (R67, R74). -/
def execPlanEnd (b : Fin 6) (s : State) : Host.Outcome State Fault Refusal :=
  .next (s.onFab b fun y => y.word 0x0E 2 fun p _ y => y.planEnds p)

/-- OVERRUN (R78). -/
def execOverrun (b : Fin 6) (s : State) : Host.Outcome State Fault Refusal := .next (s.onClock b Byre.overrun)

/-- RECOMPUTE_REQUEST (R80). -/
def execRecomputeRequest (b : Fin 6) (inRoutine : Bool) (s : State) : Host.Outcome State Fault Refusal :=
  .next (s.onFab b fun y => y.recompute inRoutine)

/-- A write that arms (R84): while the creamery is away no epoch is armed (R14). -/
def State.arm (s : State) (b : Fin 6) (m : Master) (cancel inRoutine : Bool) : State :=
  s.mgmtWrite b m R.CHURN_ARM fun y => y.when s.crm.up fun y => y.armReq cancel inRoutine

/-- EPOCH_ARM (R84); with `cancel`, a write of CANCEL and ARM together (R85). -/
def execEpochArm (b : Fin 6) (m : Master) (cancel inRoutine : Bool) (s : State) : Host.Outcome State Fault Refusal :=
  .next (s.arm b m cancel inRoutine)

/-- EPOCH_CANCEL (R85). -/
def execEpochCancel (b : Fin 6) (m : Master) (s : State) : Host.Outcome State Fault Refusal :=
  .next (s.mgmtWrite b m R.CHURN_ARM Byre.armCancel)

/-- VERIFIED_STBY_SET (R83). -/
def execVerifiedStbySet (b : Fin 6) (m : Master) (s : State) : Host.Outcome State Fault Refusal :=
  .next (s.mgmtWrite b m R.CHURN_VERIFY fun y => y.setVerified y.stby true)

/-- A write of FREEZE outside TEST or without Maker unlock is a locked write (R82). -/
def State.freeze (s : State) (b : Fin 6) (m : Master) (v inRoutine : Bool) : State :=
  s.lockedWrite b m R.CHURN_CTRL (fun y => !s.crm.dbg || y.st != Byre.stTEST) fun y =>
    (y.when v fun y => y.boundaryFirst.interrupt inRoutine 2).freezeWrite v

/-- FREEZE (R82). -/
def execFreeze (b : Fin 6) (m : Master) (v inRoutine : Bool) (s : State) : Host.Outcome State Fault Refusal :=
  .next (s.freeze b m v inRoutine)

end Sys2Proof.Machine
end

