-- ==== Sys2Proof/Machine/Herd.lean ====
section
/-!
DEFINITION. Herd membership and herd epochs (R368 to R370): what the management firmware does with the control cans at the
head of a byre's control receive queue, and at the end of its one-second and three-second intervals.
-/

namespace Sys2Proof.Machine

namespace Byre

/-- Membership states of R369. -/
abbrev hNONE : Nat := 0
abbrev hJOINING : Nat := 1
abbrev hMEMBER : Nat := 2
abbrev hISOLATED : Nat := 3

/-- The byre's manager. -/
def mgr (y : Byre) : Nat := y.get F.TUG_MGR_NODE

/-- ROLE of the byre: 1 worker, 2 area manager, 3 root; 0 while EN is 0 (R345). -/
def role (y : Byre) : Nat := if y.flag F.TUG_NODE_EN then y.get F.TUG_NODE_ROLE else 0

/-- Change what the firmware keeps. -/
def onHerd (y : Byre) (f : Herd → Herd) : Byre := { y with herd := f y.herd }

/-- Change the membership state; each change raises a HERD_MEMBER event (R369). -/
def setHerd (y : Byre) (st : Nat) : Byre :=
  if y.herd.st = st then y
  else (y.onHerd fun h => { h with st := st }).event 0x46 ([BitVec.ofNat 8 st, 0#8, 0#8, 0#8] ++ leBytes 4 y.mgr)

/-- The live EPOCH. -/
def liveEpoch (y : Byre) : Nat := y.get F.CHURN_EPOCH_LIVE

/-- Take the control can at the head of the receive queue when its TYPE is `typ`. -/
def ctlCan (y : Byre) (typ : Nat) (f : Can → Byre → Byre) : Byre :=
  match y.ctlRx with
  | [] => y
  | (bs, _) :: _ => if (canOf bs).typ = typ then f (canOf bs) y.ctlPop else y

/-- RESULT of a JOIN (R368): another herd, not the manager of that area, member table full, or accepted. -/
def joinResult (y : Byre) (c : Can) : Nat :=
  if c.herd ≠ y.ownHerd then 2
  else if !(y.role == 3 || (y.role == 2 && c.src / 1024 == y.ownArea)) then 1
  else if y.herd.members.contains c.src then 0
  else if max 1 Config.memberMax ≤ y.herd.members.length then 3
  else 0

/-- A manager receives a JOIN. -/
def join (y : Byre) : Byre :=
  y.ctlCan 0x10 fun c y =>
    let r := y.joinResult c
    let y := if r = 0 ∧ !y.herd.members.contains c.src then y.onHerd fun h => { h with members := h.members ++ [c.src] } else y
    y.fwCan c.src 0x11 ([BitVec.ofNat 8 r, 0#8] ++ leBytes 2 y.liveEpoch)

/-- A worker or area manager sends its first JOIN, or repeats an unanswered one after 1 s. -/
def joinSend (y : Byre) : Byre :=
  if !(y.role == 1 || y.role == 2) then y
  else if y.herd.st = hNONE ∨ (y.herd.st = hJOINING ∧ !y.herd.answered) then
    let y := if y.herd.st = hJOINING then y.advanceClk (y.herd.joinAt + 1000000000) else y
    let y := (y.onHerd fun h => { h with joinAt := y.tu.clk, answered := false }).fwCan y.mgr 0x10 (leBytes 2 y.liveEpoch)
    y.setHerd hJOINING
  else y

/-- A member receives a JOIN_ACK from its manager. -/
def joinAck (y : Byre) : Byre :=
  y.ctlCan 0x11 fun c y =>
    if c.src ≠ y.mgr ∨ y.herd.st ≠ hJOINING then y
    else
      let y := y.onHerd fun h => { h with answered := true }
      if leNat (c.payload.take 1) = 0 then (y.onHerd fun h => { h with beatAt := y.tu.clk }).setHerd hMEMBER else y

/-- A manager receives a LEAVE. -/
def leave (y : Byre) : Byre :=
  y.ctlCan 0x12 fun c y => y.onHerd fun h => { h with members := h.members.filter (· != c.src) }

/-- A member receives a HEARTBEAT from its manager. -/
def heartbeat (y : Byre) : Byre :=
  y.ctlCan 0x13 fun c y =>
    if c.src ≠ y.mgr ∨ (y.herd.st ≠ hMEMBER ∧ y.herd.st ≠ hISOLATED) then y
    else (y.onHerd fun h => { h with beatAt := y.tu.clk }).setHerd hMEMBER

/-- A manager sends HEARTBEAT to each joined member, 1 s after the last time. -/
def heartbeatSend (y : Byre) : Byre :=
  if !(y.role == 2 || y.role == 3) then y
  else
    let y := y.advanceClk (y.herd.sentAt + 1000000000)
    let y := (y.onHerd fun h => { h with sentAt := y.tu.clk }).updBound
    let p := leBytes 2 y.liveEpoch ++ leBytes 1 y.tst ++ leBytes 1 0 ++ leBytes 4 (y.rdN R.TIME_ERR_BOUND)
    y.herd.members.foldl (fun y m => y.fwCan m 0x13 p) y

/-- 3 s without a HEARTBEAT isolate a member. -/
def heartbeatTimeout (y : Byre) : Byre :=
  if y.herd.st = hMEMBER then (y.advanceClk (y.herd.beatAt + 3000000000)).setHerd hISOLATED else y

/-- Send the announcement of an epoch to every joined member (R370). -/
def announce (y : Byre) (epoch : Nat) (t : Tick) : Byre :=
  let p := leBytes 2 epoch ++ leBytes 6 t.s ++ leBytes 2 t.k
  y.herd.members.foldl (fun y m => y.fwCan m 0x20 p) y

/-- Arm the byre's own standby bank for an announced epoch: CODE and REFUSE_CODE of the report (R368, R370). -/
def armFor (y : Byre) (epoch : Nat) (t : Tick) : (Nat × Nat) × Byre :=
  if y.liveEpoch = epoch then ((4, 0), y)
  else if tickNs (max 1 (y.lane y.stby 0 0 % 16384)) t ≤ y.now then ((1, 0), y.lateFlag t)
  else if y.lane y.stby 0 2 % 65536 ≠ epoch then ((2, 0), y)
  else
    let n := y.rdN R.CHURN_CNT_REFUSED_ARM
    let y := ((y.wrN R.CHURN_ARM_SEC (t.s % 2 ^ 32)).set F.CHURN_ARM_K_K t.k)
    let (mid, y) := y.freeMid
    let y := y.armReq false mid
    if y.rdN R.CHURN_CNT_REFUSED_ARM ≠ n then ((3, y.get F.CHURN_ARM_STATUS_REFUSE_CODE), y)
    else if y.ch.arm.isNone then ((1, 0), y)
    else ((0, 0), y)

/-- A member receives an EPOCH_ANNOUNCE: it relays, arms and reports. -/
def epochAnnounce (y : Byre) : Byre :=
  y.ctlCan 0x20 fun c y =>
    let epoch := leNat (c.payload.take 2)
    let t : Tick := ⟨leNat ((c.payload.drop 2).take 6), leNat ((c.payload.drop 8).take 2)⟩
    let y := if y.role = 2 then y.announce epoch t else y
    let ((code, refuse), y) := y.armFor epoch t
    y.fwCan y.mgr 0x21 (leBytes 2 epoch ++ leBytes 1 code ++ leBytes 1 refuse ++ leBytes 4 y.ownNode)

/-- A manager receives an EPOCH_REPORT: an area manager relays it towards the root, and the root raises an event for every
CODE that is not 0. -/
def epochReport (y : Byre) : Byre :=
  y.ctlCan 0x21 fun c y =>
    if y.role = 3 then (if leNat ((c.payload.drop 2).take 1) = 0 then y else y.event 0x22 (c.payload.take 8))
    else if y.role = 2 then y.fwCan y.mgr 0x21 (c.payload.take 8)
    else y

end Byre

namespace State

/-- A step of the management firmware on a byre's Tugus block: while the firmware runs and the byre's FAB domain is on. -/
def firmware (s : State) (b : Fin 6) (f : Byre → Byre) : State := if s.crm.up then s.onFab b f else s

end State

/-! ### Commands -/

/-- JOIN (R368). -/
def execJoin (b : Fin 6) (s : State) : Host.Outcome State Fault Refusal := .next (s.firmware b Byre.join)

/-- JOIN_RESEND (R368): the first JOIN, and its repetition. -/
def execJoinResend (b : Fin 6) (s : State) : Host.Outcome State Fault Refusal := .next (s.firmware b Byre.joinSend)

/-- JOIN_ACK (R369). -/
def execJoinAck (b : Fin 6) (s : State) : Host.Outcome State Fault Refusal := .next (s.firmware b Byre.joinAck)

/-- LEAVE (R369). -/
def execLeave (b : Fin 6) (s : State) : Host.Outcome State Fault Refusal := .next (s.firmware b Byre.leave)

/-- HEARTBEAT (R369). -/
def execHeartbeat (b : Fin 6) (s : State) : Host.Outcome State Fault Refusal := .next (s.firmware b Byre.heartbeat)

/-- HEARTBEAT_SEND (R368). -/
def execHeartbeatSend (b : Fin 6) (s : State) : Host.Outcome State Fault Refusal := .next (s.firmware b Byre.heartbeatSend)

/-- HEARTBEAT_TIMEOUT (R369). -/
def execHeartbeatTimeout (b : Fin 6) (s : State) : Host.Outcome State Fault Refusal :=
  .next (s.firmware b Byre.heartbeatTimeout)

/-- EPOCH_ANNOUNCE (R370). -/
def execEpochAnnounce (b : Fin 6) (s : State) : Host.Outcome State Fault Refusal := .next (s.firmware b Byre.epochAnnounce)

/-- EPOCH_REPORT (R370). -/
def execEpochReport (b : Fin 6) (s : State) : Host.Outcome State Fault Refusal := .next (s.firmware b Byre.epochReport)

end Sys2Proof.Machine
end

