-- ==== Sys2Proof/Machine/Regs.lean ====
section
/-!
DEFINITION. Management reads and writes of any offset of a byre view (R7 to R9, R17, R19, R26 to R28): which command a
register's write executes, what a plain field's write brings with it, and what a register reads as.
-/

namespace Sys2Proof.Machine

/-- The state a command's meaning leads to. -/
def State.after (s : State) (o : Host.Outcome State Fault Refusal) : State :=
  match o with
  | .next t => t
  | _ => s

/-- The index of an offset in an array of registers. -/
def arrIdx (off base stride count : Nat) : Option Nat :=
  if base ≤ off ∧ (off - base) % stride = 0 ∧ (off - base) / stride < count then some ((off - base) / stride) else none

namespace Byre

/-! ### Writes -/

/-- May BYx_SW_PAIR `n` take the fields that a write would leave in it, `z` (R113)?  Fields with a reserved encoding have kept their
value there (R9). -/
def pairOk (y z : Byre) (n : Nat) : Bool :=
  let a := z.get (F.SW_PAIR_PORT_A n)
  let b := z.get (F.SW_PAIR_PORT_B n)
  let used := fun p => (List.range 11).any fun k =>
    k != n && y.get (F.SW_PAIR_MODE k) != 0 && (y.get (F.SW_PAIR_PORT_A k) == p || y.get (F.SW_PAIR_PORT_B k) == p)
  z.get (F.SW_PAIR_MODE n) == 0 || (a != b && !used a && !used b)

/-- Does a write, which would leave `z`, change LINE, FORCE_SPEED or MAX_FRAME of a port whose ADMIN_UP is 1 (R124)? -/
def portBad (y z : Byre) (p : Nat) : Bool :=
  y.flag (F.SW_PORT_CTRL_ADMIN_UP p) &&
    (z.get (F.SW_PORT_CTRL_LINE p) != y.get (F.SW_PORT_CTRL_LINE p) ||
      z.get (F.SW_PORT_CTRL_FORCE_SPEED p) != y.get (F.SW_PORT_CTRL_FORCE_SPEED p) ||
      z.get (F.SW_PORT_CTRL_MAX_FRAME p) != y.get (F.SW_PORT_CTRL_MAX_FRAME p))

/-- Would REC_BASE or REC_SIZE, written while EN is 1, name a region that EN does not allow (R389)? -/
def recRegionBad (y : Byre) (base size : Nat) : Bool :=
  y.flag F.DRAM_REC_CTRL_EN && !(decide (4096 ≤ size) && decide ((base + size) * 64 ≤ y.get F.DRAM_SIZE_MIB * 1048576))

/-- Is the whole write a reserved encoding for a reason that lies between fields or in a table (R9)? -/
def wholeBad (y : Byre) (off v : Nat) : Bool :=
  match arrIdx off (R.SW_PAIR 0) 4 11, arrIdx off (R.SW_PORT_CTRL 0) 0x100 24, arrIdx off (R.SKIM_DEF 0 0) 4 8 with
  | some n, _, _ => !y.pairOk (y.writeFlds off v) n
  | _, some p, _ => y.portBad (y.writeFlds off v) p
  | _, _, some k => !actWordOk (k % 4) v
  | _, _, _ =>
    if off = R.EMU_SEED then !y.emu.isEmpty
    else if off = R.DRAM_REC_BASE then y.recRegionBad (bits v 26 0) (y.rdN R.DRAM_REC_SIZE)
    else if off = R.DRAM_REC_SIZE then y.recRegionBad (y.rdN R.DRAM_REC_BASE) (bits v 26 0)
    else false

/-- EN or HERD of BYx_TUG_NODE has changed: a byre whose EN clears leaves its herd (R369), and links learn anew whether
they are PEER links (R346). -/
def nodeChanged (y : Byre) : Byre :=
  let y := if y.flag F.TUG_NODE_EN then y else y.setHerd hNONE
  (List.range 2).foldl (fun y l => if y.linkSt l = 2 then y.put (F.TUG_LINK_STATUS_PEER l) (y.peerLink l) else y) y

/-- What a changed register brings with it; `y` is the byre after the write, `old` before it. -/
def written (y old : Byre) (off v : Nat) : Byre :=
  match arrIdx off (R.SKIM_DEF 0 0) 4 8, arrIdx off (R.CAL_PIN_CFG 0) 0x10 16, arrIdx off (R.CHURN_DISP 0) 4 256,
    arrIdx off (R.ROTA_KEY_DATA 0) 4 8 with
  | some k, _, _, _ => (y.parClear spSkim (k / 4 * 0x2000 + 4096)).tableWritten (k / 4)
  | _, some m, _, _ => if y.get (F.CAL_PIN_CFG_MODE m) = old.get (F.CAL_PIN_CFG_MODE m) then y else y.pinMode m
  | _, _, some o, _ => y.parClear 3 o
  | _, _, _, some _ => y.wrN off v
  | _, _, _, _ =>
    if off = R.ROTA_CTRL then y.rotaSync
    else if off = R.DRAM_CFG then
      (if y.get F.DRAM_CFG_GRAIN_LOG2 = old.get F.DRAM_CFG_GRAIN_LOG2 then y else y.dramLose fun _ => false)
    else if off = R.DRAM_REC_CTRL then
      (if y.flag F.DRAM_REC_CTRL_EN = old.flag F.DRAM_REC_CTRL_EN then y else y.recEnable (y.flag F.DRAM_REC_CTRL_EN))
    else if off = R.TUG_NODE then y.nodeChanged
    else if (off - R.ROTA_ENG_SLOT0 0) % 0x100 < 0xC ∧ R.ROTA_ENG_SLOT0 0 ≤ off ∧ off < R.ROTA_ENG_SLOT0 32 then
      { y with slotOld := (old.slotNote ((off - R.ROTA_ENG_SLOT0 0) / 0x100)).slotOld }
    else if R.TIME_ING_DLY 0 ≤ off ∧ off < R.TIME_ING_DLY 24 then y.dlyNote off (old.rdN off)
    else y

/-- A write of a register's fields with all that belongs to it (R9). -/
def plainWrite (y : Byre) (off v : Nat) : Byre :=
  if y.wholeBad off v then y.rsvWrite ((off - 0xC00000) / 0x10000) off else (y.writeFlds off v).written y off v

/-- A whole word written to a memory of the byre view (R26): its parity is renewed, and a write into a schedule bank clears
that bank's VERIFIED (R83).  In a bank of the host window, the management processor is port 0 and JTAG port 1 (R284). -/
def memWrite (y : Byre) (m : Master) (off v : Nat) : Byre :=
  let y := if off < 0xC00000 then y.portWrite (if m = .jtag then 1 else 0) off (leBytes 4 v) else (y.stw off v).parClear 0 off
  if 0xD00000 ≤ off ∧ off < 0xE00000 then y.tableWritten ((off - 0xD00000) / 0x80000) else y

/-! ### Reads -/

/-- State of an engine as BYx_ROTA_ENG_STATUS shows it (R214). -/
def engState (y : Byre) (cl : Nat → Bool) (e : Nat) : Nat :=
  if !cl (clusterOf e) then 0
  else if !(y.engine e).on then 1
  else if (List.range 8).any fun t => (y.thread e t).halted then 3
  else 2

/-- A mask of the threads of an engine for which `p` holds. -/
def thrMask (p : Nat → Bool) : Nat := (List.range 8).foldl (fun a t => a + b2n (p t) * 2 ^ t) 0

/-- BYx_ROTA_ENG_STATUS. -/
def engStatus (y : Byre) (cl : Nat → Bool) (e : Nat) : Nat :=
  y.engState cl e * 2 ^ 29 + b2n (y.badEng e) * 2 ^ 28 + thrMask (fun t => y.isBound (e * 8 + t)) * 65536 +
    thrMask (fun t => y.isFree cl e t) * 256 + thrMask fun t => (y.thread e t).released

/-- STATE of BYx_ROTA_ENG_THR. -/
def thrState (y : Byre) (cl : Nat → Bool) (e t : Nat) : Nat :=
  let th := y.thread e t
  if !cl (clusterOf e) || !(y.engine e).on || !th.released then 0
  else if th.halted then 6
  else if y.isBound (e * 8 + t) then 4 + b2n th.wait.isSome
  else if th.op.isSome then 2 + b2n th.wait.isSome
  else if y.isFree cl e t then 1
  else 7

/-- BYx_ROTA_ENG_THR. -/
def thrWord (y : Byre) (cl : Nat → Bool) (e t : Nat) : Nat :=
  ((y.thread e t).op.elim 0xFFFF fun r => r.ent.id % 65536) * 65536 + y.thrState cl e t

/-- BYx_PRESS_STATUS. -/
def pressStatus (y : Byre) : Nat :=
  match y.sealq with
  | [] => 0
  | q :: qs => min 15 qs.length * 4096 + 128 + q.g % 8 * 16

/-- The word a register shows, WO fields aside: its stored word, or what the state makes of it.  `cl` says which clusters
are on. -/
def regShow (y : Byre) (cl : Nat → Bool) (off : Nat) : Nat :=
  match arrIdx off (R.ROTA_ENG_STATUS 0) 0x100 32, arrIdx off (R.PRESS_GRP_STAT 0) 0x10 8 with
  | some e, _ => y.engStatus cl e
  | _, some g => insBits (y.rdN off) 0 0 (b2n (y.areaHeld y.bank g))
  | none, none =>
    let d := off - R.ROTA_ENG_CTRL 0
    if R.ROTA_ENG_CTRL 0 ≤ off ∧ d < 0x2000 ∧ 0x20 ≤ d % 0x100 ∧ d % 0x100 < 0x40 then
      y.thrWord cl (d / 0x100) (d % 0x100 / 4 - 8)
    else if R.ROTA_ENG_CTRL 0 ≤ off ∧ d < 0x2000 ∧ 0x40 ≤ d % 0x100 ∧ d % 0x100 < 0x60 then
      ((y.thread (d / 0x100) (d % 0x100 / 4 - 16)).op.elim 0 fun r => r.left) % 2 ^ 32
    else if R.ROTA_ENG_CTRL 0 ≤ off ∧ d < 0x2000 ∧ d % 0x100 = 0x84 then
      let e := d / 0x100
      (y.rdN off + if (y.engine e).on then y.tu.clk - SMap.get (fun _ => 0) y.engCyc e else 0) % 2 ^ 32
    else if (arrIdx off (R.TNK_LIVE 0 7) 0x100 16).isSome then (y.chan ((off - R.TNK_LIVE 0 7) / 0x100)).liveCount y.free (y.rdN off)
    else if R.PAIL_POOL_CFG 0 ≤ off ∧ off < R.PAIL_POOL_CFG 4 ∧ (off - R.PAIL_POOL_CFG 0) % 0x10 = 4 then
      (y.scanNow ((off - R.PAIL_POOL_CFG 0) / 0x10)).rdN off
    else if off = R.PRESS_STATUS then y.pressStatus
    else if off = R.PRESS_CTRL ∨ off = R.SKIM_CTRL then insBits (y.rdN off) 0 0 y.bank
    else if off = R.ROTA_STATUS then
      insBits (insBits (y.rdN off) 31 31 (b2n (y.rota.stalled || y.ch.plan.any fun p => p.wait == .dispatch))) 29 29 y.bank
    else if off = R.ROTA_STR_STATUS then
      (List.range 4).foldl (fun a c => a + b2n (bit (y.rdN R.ROTA_CP_GATE_STR) c && cl c) * 2 ^ (16 + c)) 0 +
        min 64 (y.inq.filter fun f => f.stage == 1).length * 256 + y.bank
    else if off = R.TIME_SEC_HI then y.tu.latFrac % 65536 * 65536 + y.tu.latSec / 2 ^ 32 % 65536
    else if off = R.TIME_NS then y.tu.latNs
    else if off = R.TIME_MONO_HI then insBits (y.rdN off) 30 0 y.tu.monoLat
    else if off = R.TIME_TICK_SEC then y.tu.cur.s % 2 ^ 32
    else if off = R.TIME_TICK_K then y.tu.cur.k
    else if off = R.TIME_ERR_BOUND then y.errBound
    else y.rdN off

/-- The bits of a register that read as stored: the fields of a readable type (R7). -/
def readMask (fs : List FldD) : Nat :=
  fs.foldl (fun a f => if f.acc = .wo then a else a ||| (2 ^ (f.hi + 1 - f.lo) - 1) * 2 ^ f.lo) 0

/-- A read of a register: its word, and what the read port itself does (R17): latches, the step of an indirect address, and
the clear of a RC field (R7, R8). -/
def regRead (y : Byre) (m : Master) (cl : Nat → Bool) (off : Nat) : Byre × Nat :=
  match byreReg off with
  | none => (y, 0)
  | some r =>
    if off = R.TIME_SEC_LO then y.readSecLo
    else if off = R.TIME_MONO_LO then y.readMonoLo
    else if off = R.ROTA_IND_DATA then y.indRead
    else if off = R.DRAM_TRAIN_DATA then y.trainRead
    else
      match arrIdx off (R.LOCK_ACQ 0) 4 256 with
      | some l => let (v, y) := y.lockRead (.mgmt m) l; (y, v)
      | none =>
        let p := (off - R.SW_PORT_CTRL 0) / 0x100
        if R.SW_PORT_CTRL 0 ≤ off ∧ p < 24 ∧ (off = R.SW_PORT_CNT_RX_OCT_LO p ∨ off = R.SW_PORT_CNT_TX_OCT_LO p) then
          ({ y with octHi := SMap.set (fun _ => 0) y.octHi (off + 4) (y.rdN (off + 4)) }, y.rdN off)
        else if R.SW_PORT_CTRL 0 ≤ off ∧ p < 24 ∧ (off = R.SW_PORT_CNT_RX_OCT_HI p ∨ off = R.SW_PORT_CNT_TX_OCT_HI p) then
          (y, SMap.get (fun _ => 0) y.octHi off)
        else
          let v := y.regShow cl off &&& readMask r.flds
          let y := r.flds.foldl (fun y f => if f.acc = .rc then y.wrN off (insBits (y.rdN off) f.hi f.lo 0) else y) y
          (y, v)

end Byre

namespace State

/-- Which clusters of a byre are on. -/
def cls (s : State) (b : Fin 6) : Nat → Bool := fun c => s.on b (domCL + c)

/-- A write of a register's fields by management (R9, R19). -/
def fldWrite (s : State) (b : Fin 6) (m : Master) (off v : Nat) : State := s.mgmtWrite b m off fun y => y.plainWrite off v

/-- The GO registers of tables. -/
def tableGo (s : State) (b : Fin 6) (m : Master) (off v : Nat) : Option State :=
  if off = R.SKIM_ENT_CMD then some (s.skimCmd b m v)
  else if off = R.EMU_CMD then some (s.emuCmd b m v)
  else if off = R.PRESS_CFG_CMD then some (s.pressCmd b m v)
  else if off = R.ROTA_ING_CMD then some (s.ingCmd b m v)
  else if off = R.ROTA_KEY_CMD then some (s.keyCmd b m v)
  else if off = R.CAL_PUB_CMD then some (s.pubCmd b m v)
  else if off = R.CAL_SUB_CMD then some (s.subCmd b m v)
  else if off = R.TUG_SHR_CMD then some (s.shrCmd b m v)
  else none

/-- A management write of a word to an offset of a byre view: each register that a command of its own writes is handed to
that command. -/
def regWrite (s : State) (b : Fin 6) (m : Master) (off v : Nat) : State :=
  let w : Word := BitVec.ofNat 32 v
  let src := Src.mgmt m
  if off < 0xC00000 ∨ 0xD00000 ≤ off then s.mgmtWrite b m off fun y => y.memWrite m (off / 4 * 4) v
  else if off % 4 ≠ 0 then s.mgmtWrite b m off id
  else
    match s.tableGo b m off v with
    | some t => t
    | none => rest s w src
where
  /-- every register but the GO registers of tables -/
  rest (s : State) (w : Word) (src : Src) : State :=
    let one := fun (o : Host.Outcome State Fault Refusal) => s.after o
    let mid := (s.byre b).freeMid
    if off = R.CHURN_CTRL then (s.onByre b fun _ => mid.2).freeze b m (bit v 0) mid.1
    else if off = R.CHURN_ARM then
      (if bit v 0 then (s.onByre b fun _ => mid.2).arm b m (bit v 1) mid.1
        else if bit v 1 then one (execEpochCancel b m s) else s.fldWrite b m off v)
    else if off = R.CHURN_VERIFY then (if bit v 0 then one (execVerifiedStbySet b m s) else s.fldWrite b m off v)
    else if off = R.ROTA_IND_DATA then one (execIndDataWrite b m w s)
    else if off = R.ROTA_CP_GATE_SEP then one (execCpGateWrite b m false w s)
    else if off = R.ROTA_CP_GATE_STR then one (execCpGateWrite b m true w s)
    else if off = R.TIME_SERVO then s.adjust b src off fun y => y.servoWrite v
    else if off = R.TIME_STEP_NS then one (execTimeStepRequest b src w s)
    else if off = R.EMU_NOTE2 ∧ bit v 31 then one (execNoteRemove b m s)
    else if off = R.TUG_CTL_TX_CMD ∧ bit v 31 then one (execCtlTxSend b m s)
    else if off = R.TUG_CTL_RX_STATUS ∧ bit v 31 then one (execCtlRxRemove b m s)
    else if off = R.DRAM_CMD then s.dramCmd b m v
    else if off = R.DRAM_TRAIN_DATA then one (execTrainDataAccess b m true w s)
    else if off = R.DRAM_REC_CMD then s.recCmd b m v
    else
      match arrIdx off (R.ROTA_ENG_CTRL 0) 0x100 32, arrIdx off (R.SW_CREDIT 0) 4 32, arrIdx off (R.PAIL_POOL_CFG 0) 0x10 4,
        arrIdx off (R.VAT_OWNER 0) 4 48, arrIdx off (R.TNK_CTRL 0) 0x100 16 with
      | some e, _, _, _, _ => s.engCtrl b m (Fin.ofNat 32 e) v
      | _, some o, _, _, _ => one (execCreditTotalWrite b m (Fin.ofNat 32 o) (BitVec.ofNat 11 v) s)
      | _, _, some p, _, _ =>
        if bit v 31 then one (execPoolEnable b m (Fin.ofNat 4 p) (BitVec.ofNat 6 v) (BitVec.ofNat 6 (v / 256)) s)
        else one (execPoolDisable b m (Fin.ofNat 4 p) (BitVec.ofNat 6 v) (BitVec.ofNat 6 (v / 256)) s)
      | _, _, _, some k, _ =>
        s.rsvLocked b m off (bit v 31 && !(s.byre b).flag (F.VAT_OWNER_RET k)) fun y => y.ownerReg k v
      | _, _, _, _, some n =>
        (s.onByre b fun y => y.when (bit v 2) Byre.useFree).tnkCtrl b m (Fin.ofNat 24 n) v (Config.moved (s.byre b).free)
      | none, none, none, none, none =>
        let d := off - R.TNK_SH 0 0
        let p := (off - R.SW_PORT_CTRL 0) / 0x100
        match arrIdx off (R.LOCK_ACQ 0) 4 256, arrIdx off (R.LOCK_REL 0) 4 256 with
        | some l, _ => one (execLockAcquire b false src (Fin.ofNat 256 l) w s)
        | _, some l => one (execLockRelease b false src (Fin.ofNat 256 l) s)
        | none, none =>
          if R.TNK_SH 0 0 ≤ off ∧ d < 0x1000 ∧ d % 0x100 < 0x20 then
            one (execTnkShadowWrite b m (Fin.ofNat 24 (d / 0x100)) (Fin.ofNat 8 (d % 0x100 / 4)) w s)
          else if R.SW_PORT_CTRL 0 ≤ off ∧ p < 24 ∧ off = R.SW_PORT_CTRL p then
            s.lockedWrite b m off (fun y => bit v 26 != y.flag (F.SW_PORT_CTRL_LOOPBACK p) && y.st != Byre.stTEST) fun y =>
              y.plainWrite off v
          else if R.CHURN_DISP 0 ≤ off ∧ off < R.CHURN_DISP 256 then
            s.idleWrite b m off fun y => y.plainWrite off v
          else s.fldWrite b m off v

/-- A management read of a word of a byre view (R17, R26 to R28). -/
def regRead (s : State) (b : Fin 6) (m : Master) (off : Nat) : State :=
  s.mgmtRead b m off fun y =>
    if off < 0xC00000 ∨ 0xD00000 ≤ off then (y, y.ldw (off / 4 * 4)) else y.regRead m (s.cls b) off

end State

end Sys2Proof.Machine
end

