-- ==== Sys2Proof/Machine/Pmbus.lean ====
section
/-!
DEFINITION. The PMBus masters (R492 to R495, R512): what each puts on the segment of its byre's regulator, and what the regulator's
answers mean.  The codes of the commands, the packet error code and the number formats are PMBus 1.3's and SMBus 3.0's (PRESUMED,
assumption log entry 88).
-/

namespace Sys2Proof.Machine

/-- Command codes. -/
abbrev pbPAGE : Nat := 0x00
abbrev pbOPERATION : Nat := 0x01
abbrev pbCLEAR_FAULTS : Nat := 0x03
abbrev pbVOUT_MODE : Nat := 0x20
abbrev pbVOUT_COMMAND : Nat := 0x21
abbrev pbSTATUS_WORD : Nat := 0x79
abbrev pbREAD_VOUT : Nat := 0x8B
abbrev pbREAD_IOUT : Nat := 0x8C
abbrev pbREAD_TEMPERATURE_1 : Nat := 0x8D

/-- The packet error code: CRC-8 of polynomial x^8 + x^2 + x + 1 over every byte of a transaction. -/
def pec (bs : List Byte) : Byte :=
  bs.foldl (fun c b => (List.range 8).foldl (fun (c : Byte) _ => if c.msb then (c <<< 1) ^^^ 7#8 else c <<< 1) (c ^^^ b)) 0#8

/-- The address byte of byre `b`'s regulator: 0x40 + b, then the direction. -/
def pbAddr (b : Nat) (rd : Bool) : Byte := BitVec.ofNat 8 ((0x40 + b) * 2 + b2n rd)

/-- A write transaction. -/
def pbWrite (b cmd : Nat) (data : List Byte) : List Byte :=
  let bs := [pbAddr b false, BitVec.ofNat 8 cmd] ++ data
  bs ++ [pec bs]

/-- What the master sends of a read transaction. -/
def pbRead (b cmd : Nat) : List Byte := [pbAddr b false, BitVec.ofNat 8 cmd, pbAddr b true]

/-- The data word of an answer of two bytes and the packet error code; an error in it counts as no acknowledgement. -/
def pbAnswer (b cmd : Nat) (ans : List Byte) : Option Nat :=
  if ans.length = 3 ∧ pec (pbRead b cmd ++ ans) = 0#8 then some (leNat (ans.take 2)) else none

/-- A voltage in the linear format of VOUT_MODE with exponent pattern `e`: to mV, and from mV, rounded to the nearest. -/
def voutMv (e raw : Nat) : Nat :=
  let n := sgn 5 e
  if 0 ≤ n then raw * 1000 * 2 ^ n.toNat else (raw * 1000 + 2 ^ n.natAbs / 2) / 2 ^ n.natAbs
def voutRaw (e mv : Nat) : Nat :=
  let n := sgn 5 e
  if 0 ≤ n then (mv + 500 * 2 ^ n.toNat) / (1000 * 2 ^ n.toNat) else (mv * 2 ^ n.natAbs + 500) / 1000

/-- A LINEAR11 reading times `k`, rounded towards minus infinity, as a pattern of 16 bits. -/
def linear11 (k raw : Nat) : Nat :=
  let m := sgn 11 (raw % 2048) * k
  let n := sgn 5 (raw / 2048 % 32)
  pat 16 (if 0 ≤ n then m * 2 ^ n.toNat else m / 2 ^ n.natAbs)

namespace Creamery

/-- The exponent of a rail's VOUT_MODE as it was read when the rails last came up. -/
def vexp (c : Creamery) (b rail : Nat) : Nat := SMap.get (fun _ => 0) c.voutExp (b * 2 + rail)

/-- The master of byre `b` carries out transactions. -/
def pbPut (c : Creamery) (b : Nat) (ts : List (List Byte)) : Creamery := { c with pmb := SMap.set (fun _ => []) c.pmb b ts }

/-- The transactions that bring the rails up: both pages on, and the format of their voltages read (R492, R493).  Faults are cleared
first (DESIGN CHOICE: no rule says when CLEAR_FAULTS is sent, assumption log entry 88). -/
def pbRailsOn (c : Creamery) (b : Nat) : Creamery :=
  let c := c.pbPut b ([pbWrite b pbCLEAR_FAULTS []] ++ ([0, 1] : List Nat).flatMap fun r =>
    [pbWrite b pbPAGE [BitVec.ofNat 8 r], pbWrite b pbOPERATION [0x80#8], pbRead b pbVOUT_MODE])
  let set := fun (m : SMap Nat) (r : Nat) => SMap.set (fun _ => 0) m (b * 2 + r) ((Config.voutMode b r).toNat % 32)
  { c with voutExp := set (set c.voutExp 0) 1 }

/-- The transactions that turn the rails off. -/
def pbRailsOff (c : Creamery) (b : Nat) : Creamery :=
  c.pbPut b (([0, 1] : List Nat).flatMap fun r => [pbWrite b pbPAGE [BitVec.ofNat 8 r], pbWrite b pbOPERATION [0x00#8]])

/-- The transactions of a voltage request, and of the return to the previous setting (R494, R495). -/
def pbVolt (c : Creamery) (b rail mv : Nat) : Creamery :=
  c.pbPut b [pbWrite b pbPAGE [BitVec.ofNat 8 rail], pbWrite b pbVOUT_COMMAND (leBytes 2 (voutRaw (c.vexp b rail) mv))]

/-- The reads of power_status, page by page. -/
def pbReads : List (Nat × Nat) :=
  [(0, pbREAD_VOUT), (0, pbREAD_IOUT), (1, pbREAD_VOUT), (1, pbREAD_IOUT), (0, pbREAD_TEMPERATURE_1), (0, pbSTATUS_WORD)]

/-- The transactions of power_status. -/
def pbStatus (c : Creamery) (b : Nat) : Creamery :=
  c.pbPut b (pbReads.flatMap fun (r, cmd) => [pbWrite b pbPAGE [BitVec.ofNat 8 r], pbRead b cmd])

/-- The 12 bytes that power_status shows of byre `b`, from the regulator's answers of 3 bytes each; one that is not acknowledged shows
0 (DESIGN CHOICE, assumption log entry 88). -/
def pbShow (c : Creamery) (b : Nat) (ans : List Byte) : List Byte :=
  pbReads.zipIdx.flatMap fun ((r, cmd), i) =>
    leBytes 2 (match pbAnswer b cmd ((ans.drop (3 * i)).take 3) with
      | none => 0
      | some raw =>
        (if cmd = pbREAD_VOUT then voutMv (c.vexp b r) raw
         else if cmd = pbREAD_IOUT then linear11 1000 raw
         else if cmd = pbREAD_TEMPERATURE_1 then linear11 16 raw
         else raw) % 65536)

end Creamery

end Sys2Proof.Machine
end

