-- ==== Sys2Proof/Machine/Power.lean ====
section
/-!
DEFINITION. Power domains, wake, regulators, supply monitor and byre reset (chapter 17), and the power policy of the
firmware (R499).  Every entry and every exit is one step; the AON cycles of the handshake pass on the creamery's clock.
-/

namespace Sys2Proof.Machine

/-- The register block of a byre-view offset (R26). -/
def blockOf (off : Nat) : Nat := (off - 0xC00000) / 0x10000

namespace Byre

/-! ### Byre reset (R503) -/

/-- Every block of the FAB, CL, PRT and PRU domains at its reset values.  The time unit, the DRAM controller and its
contents stay; so do the vat and the stores where `mem` says so.  The registers of the dispatch table are reset with their
block, so microcode has to be loaded again. -/
def clear (y : Byre) (mem : Bool) : Byre :=
  { Byre.zero y.num with
    regs := SMap.keep (fun o => blockOf o == 10 || blockOf o == 12 || blockOf o == 14) y.regs
    mem := if mem then y.mem else []
    badPar := y.badPar.filter fun q => q.1 == spDram || (mem && q.1 == 0)
    softPar := y.softPar.filter fun q => q.1 == spDram || (mem && q.1 == 0)
    tu := { y.tu with rate := 0, issued := false, freezePend := false, frozenAt := none }
    dram := y.dram
    dramGen := y.dramGen
    dramChk := y.dramChk
    nbrGen := y.nbrGen
    train := y.train
    trainDone := y.trainDone
    rcd := y.rcd
    hostSkips := y.hostSkips
    evq := y.evq
    evDrop := y.evDrop
    unlocked := y.unlocked
    free := y.free }

/-- The blocks cleared, the byre in state `new` (R466, R467). -/
def clearTo (y : Byre) (mem : Bool) (new reason : Nat) : Byre :=
  let y := y.setState new reason
  let z := (y.clear mem).stopTick.put F.TIME_STATUS_FROZEN false
  ((z.set F.CHURN_BYRE_STATE new).set F.CHURN_BYRE_PREV (y.get F.CHURN_BYRE_PREV)).set F.CHURN_BYRE_REASON
    (y.get F.CHURN_BYRE_REASON)

/-- A byre reset to HELD (R503): the monotonic count restarts, DISC clears (R55). -/
def reset (y : Byre) (mem : Bool) (reason : Nat) : Byre :=
  let y := y.clearTo mem stHELD reason
  { y with tu := { y.tu with mono := 0 } }.put F.TIME_MONO_HI_DISC false

/-! ### What each domain does when it goes down or comes back (R485) -/

/-- The rate at which a READY byre's tick runs: that of a verified live bank, otherwise the idle plan's own. -/
def idleTickRate (y : Byre) : Nat :=
  let r := y.lane y.bank 0 0 % 16384
  if y.verified y.bank && decide (1000 ≤ r) then r else 1000 + Config.idleRate % 15001

/-- READY is entered: the idle plan's tick starts (R47). -/
def idleStart (y : Byre) : Byre := ((y.startTick y.idleTickRate).setPhase phIDLE).servoSync

/-- TIME leaves on: the counter stops (R51); off loses every register. -/
def timeDown (y : Byre) (off : Bool) : Byre :=
  let y := { y with tu := { y.tu with stopped := true, ppsOut := false, watchdog := none } }
  if off then
    { y with regs := SMap.keep (fun o => blockOf o != 10) y.regs
             tu := { TimeUnit.zero with clk := y.tu.clk, refFail := y.tu.refFail } }
  else y

/-- TIME comes back on (R52, R53, R55); `ret` says that it was retained.  Where Bn_REFCLK is missing, the unit loads its counter and
stands as after a loss, until the clock returns (R39). -/
def timeUp (y : Byre) (rtc : Option Nat) (refOk ret : Bool) : Byre :=
  let held := y.now
  let y := (y.loadCounter rtc).put F.TIME_STATUS_REFCLK_OK refOk
  let lost := y.tu.refFail || !refOk
  let y := { y with tu := { y.tu with stopped := lost, refFail := lost } }.put F.TIME_MONO_HI_DISC true
  let y := y.when lost fun y => y.put F.TIME_STATUS_CLK_FAIL true
  let y := if ret then
      let gap : Int := (y.now : Int) - held
      let mag := gap.natAbs
      let sec : Int := if gap < 0 then -((mag / 1000000000 : Nat) : Int) else ((mag / 1000000000 : Nat) : Int)
      let y := (y.wrN R.TIME_GAP_SEC (pat 32 sec)).wrN R.TIME_GAP_NS (2147483648 + mag % 1000000000)
      y.event 0x31 (leBytes 4 (pat 32 sec) ++ leBytes 4 (mag % 1000000000))
    else y
  y.updBound.updQual

/-- FAB enters retention: the state held is kept, the tick stops (R466). -/
def fabRetain (y : Byre) : Byre :=
  let y := { y with ch := { y.ch with retained := y.st } }
  (y.setState stRETAINED 7).stopTick

/-- FAB wakes (R490): the state held at entry, with its tick where it was READY. -/
def fabWake (y : Byre) : Byre :=
  let due := y.ch.entryDue
  let y := y.setState y.ch.retained 7
  let y := { y with ch := { y.ch with entryDue := due } }
  if y.st = stREADY then y.idleStart else y

/-- The registers of engine `e` in the rota's block. -/
def engRegs (off c : Nat) : Bool :=
  decide (R.ROTA_ENG_CTRL (8 * c) ≤ off) && decide (off < R.ROTA_ENG_CTRL (8 * c) + 0x800)

/-- A cluster is turned off: engines, separators, strainer, code store and scratch lose everything. -/
def clOff (y : Byre) (c : Nat) : Byre :=
  let codeIn := fun (a : Nat) => decide (0xE00000 + c * 0x40000 ≤ a) && decide (a < 0xE40000 + c * 0x40000)
  let keep := fun (q : Nat × Nat) => !(q.1 == 0 && codeIn q.2) && !(q.1 == 1 && q.2 / 0x100000 == c) &&
    !(q.1 == 5 && q.2 / 0x80000 == c)
  { y with
    regs := SMap.keep (fun o => !engRegs o c) y.regs
    thr := SMap.keep (fun k => k / 64 != c) y.thr
    eng := SMap.keep (fun e => e / 8 != c) y.eng
    scratch := SMap.keep (fun a => a / 0x100000 != c) y.scratch
    mem := SMap.keep (fun a => !codeIn a) y.mem
    badPar := y.badPar.filter keep
    softPar := y.softPar.filter keep }

/-- The ports of a port domain. -/
def domPorts (d : Nat) : List Nat := (List.range 24).filter fun p => portDom p == d

/-- A port domain leaves on: its ports go down; off loses their registers. -/
def portsDown (y : Byre) (d : Nat) (off : Bool) : Byre :=
  let y := (domPorts d).foldl (fun y p => y.portDrop p false) y
  if off then
    { y with regs := SMap.keep (fun o => !((domPorts d).any fun p =>
        decide (R.SW_PORT_CTRL p ≤ o) && decide (o < R.SW_PORT_CTRL p + 0x100))) y.regs }
  else y

/-- Is a DRAM address in a segment that DRM retention keeps (R388): one that holds a byte of the recorder region, or the
metadata?  Segments are eighths of a channel of the installed capacity (R380). -/
def pasrKeeps (y : Byre) (a : Nat) : Bool :=
  let g := 2 ^ y.get F.DRAM_CFG_GRAIN_LOG2
  let seg := y.dramSize * 32 / 31 / 16
  let ch := a / g % 2
  let s := (a / (2 * g) * g + a % g) / max 1 seg
  let lo := max (y.rdN R.DRAM_REC_BASE * 64) (2 * s * seg)
  let hi := min ((y.rdN R.DRAM_REC_BASE + y.rdN R.DRAM_REC_SIZE) * 64) (2 * (s + 1) * seg)
  s == 7 || (decide (lo < hi) && (lo / g % 2 == ch || (hi - 1) / g % 2 == ch || decide (lo / g + 1 < (hi - 1) / g)))

/-- DRM leaves on (R388); off loses content and registers, but not the training store in AON. -/
def dramDown (y : Byre) (off : Bool) : Byre :=
  if off then
    let tv := y.get F.DRAM_STATUS_TVALID
    let y := y.dramLose fun _ => false
    { y with regs := SMap.keep (fun o => blockOf o != 12) y.regs, rcd := Recorder.zero }.set F.DRAM_STATUS_TVALID tv
  else (y.dramLose y.pasrKeeps).setDst drRETAINED

/-- DRM comes back: from retention it loads at the current point; from off it loads or trains, unless no training has ever
succeeded (R385, R386); the noise source seeds the generator of neighbour refresh at power-up (R384). -/
def dramUp (y : Byre) (ret : Bool) : Byre :=
  if ret then y.setDst drLOADING
  else
    let y := { y.useFree with nbrGen := Config.nbrNext y.free }
    if y.get F.DRAM_STATUS_TVALID = 0 then y else y.dramLoad

/-! ### The blocks asked to stop (R487) -/

/-- Does tanker `n` have a live access to DRAM? -/
def tnkDram (y : Byre) (n : Nat) : Bool :=
  let c := y.chan n
  c.st == 1 && (c.desc.sp == 1 || c.desc.dp == 1)

/-- Does the block with this code refuse? -/
def refuses (y : Byre) (d code : Nat) : Bool :=
  match code with
  | 0x01 => runs y.st
  | 0x02 => !y.rota.ents.isEmpty || y.thr.any fun q => !q.2.post.isEmpty
  | 0x03 => !y.sealq.isEmpty
  | 0x04 => (List.range 16).any y.chanBusy
  | 0x05 => !y.cells.isEmpty
  | 0x06 => (List.range 4).any fun p => y.flag (F.PAIL_POOL_STAT_REBUILDING p)
  | 0x07 => (List.range 48).any fun k => y.flag (F.VAT_OWNER_WAKING k) || y.flag (F.VAT_OWNER_PEND k)
  | 0x20 => y.flag F.TIME_STATUS_TICK_RUN
  | 0x30 => (domPorts d).any fun p => y.flag (F.SW_PORT_CTRL_ADMIN_UP p)
  | 0x31 => (List.range 2).any fun l => !(y.tugAt l).retry.isEmpty
  | 0x40 => y.training || (List.range 16).any y.tnkDram || !y.rcd.stage.isEmpty
  | _ =>
    if 0x10 ≤ code ∧ code < 0x14 then (List.range 8).any fun i => (y.engine ((code - 0x10) * 8 + i)).on
    else if 0x14 ≤ code ∧ code < 0x18 then (List.range 8).any fun i => (y.engine ((code - 0x14) * 8 + i)).str.active
    else false

end Byre

/-- The blocks of a byre's domain in the order in which they are asked (R487). -/
def domBlocks (d : Nat) : List Nat :=
  if d = domTIME then [0x20]
  else if d = domFAB then [1, 2, 3, 4, 5, 6, 7, 8]
  else if d < 6 then [0x10 + (d - 2), 0x14 + (d - 2)]
  else if d = domPRU then [0x30, 0x31]
  else if d = domDRM then [0x40]
  else [0x30]

/-- The dependencies of R486 over the states of a byre's domains: 0 off, 1 retention, 2 on. -/
def depOk (f : Nat → Nat) : Bool :=
  let time := f domTIME
  let fab := f domFAB
  let low := fun d => decide (f d ≤ 1)
  let below := [2, 3, 4, 5, 6, 7, 8]
  (fab != 2 || time == 2) &&
  (fab != 1 || (time != 0 && below.all low && low domDRM)) &&
  (fab != 0 || (below.all (fun d => f d == 0) && low domDRM)) &&
  ([2, 3, 4, 5].all fun d => (f d != 2 || fab == 2) && (f d != 1 || fab != 0)) &&
  ([6, 7, 8].all fun d => (f d != 2 || (fab == 2 && time == 2)) && (f d != 1 || fab != 0)) &&
  (f domDRM != 2 || fab == 2) && (time != 1 || fab != 2)

/-- Does the handshake refuse, wait for a mute block, or pass?  `i` blocks have stopped: (refusing block, blocks stopped, the
block is mute). -/
def askBlocks (no : Nat → Bool) (mute : Nat) : List Nat → Nat → Option (Nat × Nat × Bool)
  | [], _ => none
  | c :: cs, i => if c = mute then some (c, i, true) else if no c then some (c, i, false) else askBlocks no mute cs (i + 1)

namespace Creamery

/-- Time passes for the creamery; a vector 8 that waits is raised when its 10 µs are over (R406). -/
def tick (c : Creamery) (dt : Nat) : Creamery :=
  let c := { c with clk := c.clk + dt }
  if c.evqDue && decide (c.evqAt + 9999 ≤ c.clk) then { c.raise 8 with evqAt := c.evqAt + 10000, evqDue := false } else c

/-- The last request's result (R487), counted when it is not done. -/
def pwrResult (c : Creamery) (dom blk res : Nat) : Creamery :=
  let c := (((c.put F.AON_PWR_RESULT_BUSY false).set F.AON_PWR_RESULT_DOMAIN dom).set F.AON_PWR_RESULT_BLOCK blk).set
    F.AON_PWR_RESULT_RESULT res
  if res = 0 then c else c.inc R.AON_CNT_PWR_REFUSED

/-- The rails of a byre go on where they are off; `pg` says that Bn_PGOOD is then high for 100 µs (R493). -/
def railsOn (c : Creamery) (b : Fin 6) (pg : Bool) : Creamery :=
  let c := if SMap.get (fun _ => false) c.rails b then c
    else { c.pbRailsOn b with rails := SMap.set (fun _ => false) c.rails b true }
  c.put (F.AON_VSTAT_PGOOD b) (pg || c.flag (F.AON_VSTAT_PGOOD b))

/-- The rails go off when every domain is off, or all but a retained DRM (R493). -/
def railsCheck (c : Creamery) (b : Fin 6) : Creamery :=
  if (List.range 9).all (fun d => c.dom b d == 0) && c.dom b domDRM != 2 then
    { c.pbRailsOff b with rails := SMap.set (fun _ => false) c.rails b false }.put (F.AON_VSTAT_PGOOD b) false
  else c

/-- Does wake input `i` of byre `b`, enabled, show the level that POL names (R490)? -/
def wakeSees (c : Creamery) (b : Fin 6) (i : Nat) : Bool :=
  bit (c.get (F.AON_WAKE_CFG_EN b)) i && SMap.get (fun _ => false) c.wakePin (b * 4 + i) == bit (c.get (F.AON_WAKE_CFG_POL b)) i

/-- VCORE_MIN of a byre (R494). -/
def vcoreMin (b : Nat) : Nat := 650 + Config.vcoreMin b % 151

/-- A byre is reset or faulted by a source of R502. -/
def byreRst (c : Creamery) (b : Fin 6) (code : Nat) : Creamery :=
  let c := c.set (F.AON_BYRE_RST_LAST b) code
  if code = 0xA then c else c.inc (R.AON_CNT_BYRE_RST b)

end Creamery

namespace State

/-- The firmware's record of a byre's state (R465). -/
def fwSt (s : State) (b : Fin 6) : Nat :=
  match s.crm.dom b domFAB with
  | 2 => (s.byre b).st
  | 1 => Byre.stRETAINED
  | _ => Byre.stOFF

/-- A domain reaches off or retention. -/
def domDown (s : State) (b : Fin 6) (d tgt : Nat) : State :=
  let off := tgt == 0
  let s := s.onByre b fun y =>
    if d = domTIME then y.timeDown off
    else if d = domFAB then
      (if off then y.clearTo false Byre.stOFF 7 else y.fabRetain)
    else if d < 6 then (if off then y.clOff (d - domCL) else y)
    else if d = domDRM then y.dramDown off
    else y.portsDown d off
  let s := s.onCrm fun c => (c.setDom b d tgt).railsCheck b
  if d = domFAB ∧ off then
    s.onCrm fun c => { c with ucode := SMap.set (fun _ => []) c.ucode b [], loaded := SMap.keep (fun k => k / 2 != b) c.loaded,
                              placed := SMap.keep (fun k => k / 2 != b) c.placed }
  else s

/-- A domain comes on from state `from_`. -/
def domUp (s : State) (b : Fin 6) (d from_ : Nat) : State :=
  let ret := from_ == 1
  let s := s.onCrm fun c => c.setDom b d 2
  let s := s.onByre b fun y =>
    if d = domTIME then y.timeUp s.crm.rtcNow (bit (s.crm.rdN R.AON_CLK_STAT) b) ret
    else if d = domFAB then (if ret then y.fabWake else y.reset false 7)
    else if d = domDRM then y.dramUp ret
    else y
  if d = domFAB ∧ !ret then s.onCrm fun c => c.byreRst b 9 else s

/-- A request for a byre's domain (R486, R487, R493): result and block code, or none while a mute block is waited for. -/
def byreReq (s : State) (b : Fin 6) (d tgt mute : Nat) (pg : Bool) : Option (Nat × Nat) × State :=
  let cur := s.crm.dom b d
  if tgt = cur then (some (0, 0), s)
  else if !depOk (fun k => if k = d then tgt else s.crm.dom b k) then (some (2, 0xF0), s)
  else
    let s := if cur = 0 then s.onCrm fun c => c.railsOn b pg else s
    if cur = 0 ∧ !s.crm.flag (F.AON_VSTAT_PGOOD b) then (some (4, 0xF2), s.onCrm fun c => c.railsCheck b)
    else if tgt = 2 then (some (0, 0), s.domUp b d cur)
    else if cur ≠ 2 then (some (0, 0), s.domDown b d tgt)
    else
      match askBlocks ((s.byre b).refuses d) mute (domBlocks d) 0 with
      | some (c, i, true) =>
        (none, s.onCrm fun k => { k.tick (i * 40) with shake := some ⟨b, d, tgt, c, k.clk⟩ })
      | some (c, i, false) => (some (1, c), s.onCrm fun k => k.tick ((2 * i + 1) * 40))
      | none => (some (0, 0), (s.onCrm fun k => k.tick ((domBlocks d).length * 40 + 280)).domDown b d tgt)

/-! ### The power policy (R499) -/

/-- The target of a domain under a policy in a state, where the policy names one. -/
def policyTarget (p : Policy) (st d : Nat) : Nat :=
  let mask := if st = Byre.stHELD ∨ st = Byre.stFAULTED then p.held else p.run
  if d < 2 || bit mask d then 2 else b2n (bit p.ret d)

/-- Apply a byre's policy for a state: domains on in dependency order, then the others down in the reverse order. -/
def policyApply (s : State) (b : Fin 6) (st : Nat) (pg : Bool) : State :=
  match SMap.get (fun _ => none) s.crm.policy b with
  | none => s
  | some p =>
    let s := (List.range 10).foldl (fun s d =>
      if policyTarget p st d = 2 then (s.byreReq b d 2 0 pg).2 else s) s
    (List.range 10).reverse.foldl (fun s d =>
      let t := policyTarget p st d
      if t ≠ 2 ∧ s.crm.dom b d ≠ 0 ∧ s.crm.dom b d ≠ t then (s.byreReq b d t 0 pg).2 else s) s

/-- The firmware applies the policy at every change of a byre's state. -/
def policySync (s : State) (b : Fin 6) : State :=
  let st := s.fwSt b
  if s.crm.up && SMap.get (fun _ => 0) s.crm.polAt b != st + 1 then
    let s := s.onCrm fun c => { c with polAt := SMap.set (fun _ => 0) c.polAt b (st + 1) }
    if st = Byre.stOFF ∨ st = Byre.stRETAINED then s else s.policyApply b st false
  else s

/-! ### AON requests -/

/-- Only the management processor and JTAG reach the AON registers; for any other master their addresses are none. -/
def aonWrite (s : State) (m : Master) (a : Nat) (f : State → State) : State :=
  if reaches m a && !s.shut m then f s else s.busErr .unmapped m true a

/-- Record a reserved encoding written to an AON register (R9). -/
def aonRsv (s : State) (a : Nat) : State :=
  s.onCrm fun c =>
    let c := if bit (c.rdN R.AON_RSV_FLAG) 0 then c else c.wrN R.AON_RSV_ADDR a
    c.wrN R.AON_RSV_FLAG 1

/-- Does CRM refuse to leave on (R487, block 0x50)? -/
def crmBusy (s : State) : Bool :=
  (List.range 8).any fun n => s.crm.get (F.CRM_MB_STATUS_STATE n) == 1 || (s.crm.chan n).st == 1

/-- The CRM domain leaves on.  In retention its firmware sleeps; off, it waits for the creamery reset's release. -/
def crmDown (s : State) (tgt : Nat) : State :=
  s.onCrm fun c =>
    let c := c.wrN R.AON_PWR_STATE_CRM (insBits (c.rdN R.AON_PWR_STATE_CRM) 1 0 tgt)
    { c with up := false, mode := if tgt = 1 ∧ c.mode = 3 ∧ c.up then 4 else 0 }

/-- The CRM domain comes back on. -/
def crmUp (s : State) : State :=
  let s := s.onCrm fun c =>
    let c := c.wrN R.AON_PWR_STATE_CRM (insBits (c.rdN R.AON_PWR_STATE_CRM) 1 0 2)
    if c.mode = 4 then { c with mode := 3, up := true } else c
  ([0, 1, 2, 3, 4, 5] : List (Fin 6)).foldl drain s

/-- A request for the CRM or AON domain. -/
def crmReq (s : State) (d tgt mute : Nat) : Option (Nat × Nat) × State :=
  let cur := if d = 0xE then bits (s.crm.rdN R.AON_PWR_STATE_CRM) 1 0 else 2
  if tgt = cur then (some (0, 0), s)
  else if d ≠ 0xE ∨ (tgt = 1 ∧ !s.crm.linkDown) then (some (2, 0xF0), s)
  else if tgt = 2 then (some (0, 0), s.crmUp)
  else if cur ≠ 2 then (some (0, 0), s.crmDown tgt)
  else if mute = 0x50 then (none, s.onCrm fun k => { k with shake := some ⟨0xC, d, tgt, 0x50, k.clk⟩ })
  else if s.crmBusy then (some (1, 0x50), s.onCrm fun k => k.tick 40)
  else (some (0, 0), (s.onCrm fun k => k.tick 320).crmDown tgt)

/-- The stalled handshake ends with result `res` and block `blk`: the blocks that had stopped run again (R487, R488). -/
def shakeEnd (s : State) (h : Shake) (blk res : Nat) : State :=
  s.onCrm fun c => { c.pwrResult h.dom blk res with shake := none }

/-- A wake event of input `i` (R488, R490): an edge to, or the level that POL names. -/
def wake (s : State) (b : Fin 6) (i : Nat) (pg : Bool) : State :=
  if !s.crm.wakeSees b i then s
  else
    let doms := s.crm.get (F.AON_WAKE_CFG_DOMAINS b)
    match s.crm.shake with
    | some h =>
      if h.unit = b ∧ bit doms h.dom then
        (s.shakeEnd h 0xF1 3).onCrm fun c => c.set (F.AON_WAKE_STAT_PINS b) (setBit (c.get (F.AON_WAKE_STAT_PINS b)) i)
      else s
    | none =>
      if s.on b domFAB then s
      else
        let s := s.onCrm fun c => c.set (F.AON_WAKE_STAT_PINS b) (setBit (c.get (F.AON_WAKE_STAT_PINS b)) i)
        ((List.range 10).foldl (fun s d => if bit doms d then (s.byreReq b d 2 0 pg).2 else s) s).policySync b

/-- A level wake input that shows its level when a domain has reached retention or off starts the exit at once (R488); an edge in the
entry window is lost. -/
def levelWake (s : State) (b : Fin 6) (pg : Bool) : State :=
  if s.on b domFAB then s
  else
    ([0, 1, 2, 3] : List Nat).foldl (fun s i => if bit (s.crm.get (F.AON_WAKE_CFG_EDGE b)) i then s else s.wake b i pg) s

/-- Execute AON_PWR_REQ as its fields stand (R487, R489). -/
def pwrGo (s : State) (mute : Nat) (pg : Bool) : State :=
  let d := s.crm.get F.AON_PWR_REQ_DOMAIN
  let u := s.crm.get F.AON_PWR_REQ_BYRE
  let t := s.crm.get F.AON_PWR_REQ_TARGET
  let (r, s) := if h : u < 6 then (if d < 10 then s.byreReq ⟨u, h⟩ d t mute pg else (some (2, 0xF0), s))
    else if 0xE ≤ d then s.crmReq d t mute else (some (2, 0xF0), s)
  match r with
  | some (res, blk) =>
    let s := s.onCrm fun c => c.pwrResult d blk res
    if h : u < 6 then (if res = 0 ∧ t ≠ 2 then s.levelWake ⟨u, h⟩ pg else s).policySync ⟨u, h⟩ else s
  | none => s.onCrm fun c => (c.put F.AON_PWR_RESULT_BUSY true).set F.AON_PWR_RESULT_DOMAIN d

/-- A write of AON_PWR_REQ: its fields (R9), then GO. -/
def pwrWrite (s : State) (v mute : Nat) (pg : Bool) : State :=
  if bit v 31 && s.crm.flag F.AON_PWR_RESULT_BUSY then s.onCrm fun c => c.put F.AON_PWR_RESULT_REQ_LOST true
  else
    let put := fun (s : State) (f : Fld) (ok : Bool) =>
      if ok then s.onCrm fun c => c.set f (bits v f.hi f.lo) else s.aonRsv R.AON_PWR_REQ
    let d := bits v 19 16
    let u := bits v 11 8
    let s := put s F.AON_PWR_REQ_DOMAIN (decide (d ≤ 9) || decide (14 ≤ d))
    let s := put s F.AON_PWR_REQ_BYRE (decide (u ≤ 5) || u == 0xC)
    let s := put s F.AON_PWR_REQ_TARGET (bits v 1 0 != 3)
    if bit v 31 then s.pwrGo mute pg else s

/-! ### Voltage requests (R494 to R496) -/

/-- Is the voltage one that the rail accepts (R494)? -/
def voltOk (s : State) (b : Fin 6) (rail mv : Nat) : Bool :=
  if rail = 0 then decide (650 ≤ mv) && decide (mv ≤ 850) && decide (Creamery.vcoreMin b ≤ mv)
  else decide (750 ≤ mv) && decide (mv ≤ 900) && decide (s.crm.get (F.AON_VSTAT_CORE_MV b) ≤ mv)

/-- The setting of a rail that is in use. -/
def railMv (s : State) (b : Fin 6) (rail : Nat) : Nat :=
  if rail = 0 then s.crm.get (F.AON_VSTAT_CORE_MV b) else SMap.get (fun _ => 0) s.crm.sramMv b

/-- A write of AON_VREQ (R494): a voltage that the rail does not accept is a reserved encoding of MV (R9).  GO asks for the voltage that
MV then holds, and for nothing where the rail does not accept that. -/
def vreqWrite (s : State) (b : Fin 6) (v : Nat) : State :=
  let rail := bits v 30 30
  let mv := bits v 10 0
  if s.crm.flag (F.AON_VSTAT_BUSY b) && bit v 31 then s
  else
    let s := s.onCrm fun c => c.set (F.AON_VREQ_RAIL b) rail
    let s := if s.voltOk b rail mv then s.onCrm fun c => c.set (F.AON_VREQ_MV b) mv else s.aonRsv (R.AON_VREQ b)
    let mv := s.crm.get (F.AON_VREQ_MV b)
    if bit v 31 && s.voltOk b rail mv then
      s.onCrm fun c =>
        { (c.pbVolt b rail mv).put (F.AON_VSTAT_BUSY b) true with vreq := SMap.set (fun _ => none) c.vreq b (some ⟨rail, mv, c.clk⟩) }
    else s

/-- A request ends: BUSY clears, RESULT says how. -/
def vreqEnd (s : State) (b : Fin 6) (res : Nat) : State :=
  s.onCrm fun c =>
    let c := { (c.put (F.AON_VSTAT_BUSY b) false).set (F.AON_VSTAT_RESULT b) res with vreq := SMap.set (fun _ => none) c.vreq b none }
    if res = 0 then c else c.inc R.AON_CNT_VREQ_TIMEOUT

/-- The new setting is used (R494). -/
def vreqDone (s : State) (b : Fin 6) (r : Vreq) : State :=
  (s.onCrm fun c =>
    if r.rail = 0 then c.set (F.AON_VSTAT_CORE_MV b) r.mv
    else { c with sramMv := SMap.set (fun _ => 0) c.sramMv b r.mv }).vreqEnd b 0

/-- Bn_PGOOD falls (R496): recorded always; a machine check while FAB is on. -/
def pgoodLost (s : State) (b : Fin 6) : State :=
  let s := s.onCrm fun c => (c.put (F.AON_VSTAT_PGOOD b) false).byreRst b 0xA
  s.onFab b fun y => y.machineCheck 7 14

/-- Is any domain of the byre on? -/
def anyOn (s : State) (b : Fin 6) : Bool := (List.range 10).any fun d => s.crm.dom b d == 2

/-! ### Output pins (R470, R491) -/

/-- An output of a domain that is not on is at high impedance: none. -/
def outPin (s : State) (b : Fin 6) (d : Nat) (level : Bool) : Option Bool := if s.crm.dom b d = 2 then some level else none

/-- Bn_OK (R470). -/
def okPin (s : State) (b : Fin 6) : Option Bool := s.outPin b domFAB ((s.byre b).flag F.CHURN_BYRE_OK)

/-- Bn_PPS_OUT (R44). -/
def ppsPin (s : State) (b : Fin 6) : Option Bool := s.outPin b domTIME (s.byre b).ppsPin

/-- Bn_EVm, driven in output mode only (R327). -/
def evPin (s : State) (b : Fin 6) (m : Fin 16) : Option Bool :=
  if (s.byre b).flag (F.CAL_PIN_STATUS_DRIVEN m) then s.outPin b domFAB ((s.byre b).flag (F.CAL_PIN_STATUS_LEVEL m)) else none

/-! ### The supply monitor (R497, R498) -/

/-- The firmware triggers the recorders when PFAIL is raised (R498). -/
def pfailTrigger (s : State) (b : Fin 6) : State :=
  let p := SMap.get (fun _ => none) s.crm.policy b
  if s.crm.up && p.elim false (·.pfRec) && (s.byre b).live then
    s.onFab b fun y => y.recTrigger 2 0xFFF0 y.tu.cur y.now
  else s

/-- PFAIL is raised at a VIN reading. -/
def pfailRaise (s : State) (vin : Nat) : State :=
  let s := s.onCrm fun c => c.set F.AON_VIN_MV vin
  if s.crm.flag F.AON_PFAIL_CFG_EN && !s.crm.flag F.AON_PFAIL_STAT_PFAIL && decide (vin < s.crm.get F.AON_PFAIL_CFG_THRESH_MV) then
    let s := s.onCrm fun c =>
      ((((c.put F.AON_PFAIL_STAT_PFAIL true).put F.AON_PFAIL_STAT_SEEN true).inc R.AON_CNT_PFAIL).raise 9).event 0x50 (leBytes 4 vin)
    ([0, 1, 2, 3, 4, 5] : List (Fin 6)).foldl pfailTrigger s
  else s

/-- PFAIL clears 250 mV above the threshold. -/
def pfailClear (s : State) (vin : Nat) : State :=
  s.onCrm fun c =>
    let c := c.set F.AON_VIN_MV vin
    if c.flag F.AON_PFAIL_STAT_PFAIL && decide (c.get F.AON_PFAIL_CFG_THRESH_MV + 250 ≤ vin) then c.put F.AON_PFAIL_STAT_PFAIL false
    else c

end State

/-! ### Commands -/

/-- TICK_BOUNDARY (R46, R73); the firmware follows a change of state with the power policy. -/
def execTickBoundary (b : Fin 6) (inRoutine : Bool) (s : State) : Host.Outcome State Fault Refusal :=
  .next ((s.onTime b fun y => y.tickBoundary inRoutine).policySync b)

/-- BYRE_FAULT_ENTRY (R468); the firmware follows with the power policy. -/
def execByreFaultEntry (b : Fin 6) (s : State) : Host.Outcome State Fault Refusal :=
  .next ((s.onFab b Byre.faultEntry).policySync b)

/-- PGOOD_FALL (R496): only the level shown while no domain is on, or while a voltage request waits for the pin. -/
def execPgoodFall (b : Fin 6) (dt : Nat) (s : State) : Host.Outcome State Fault Refusal :=
  let s := s.onCrm fun c => c.tick dt
  .next (if s.anyOn b && (SMap.get (fun _ => none) s.crm.vreq b).isNone then s.pgoodLost b
    else s.onCrm fun c => c.put (F.AON_VSTAT_PGOOD b) false)

/-- PFAIL_RAISE (R497). -/
def execPfailRaise (dt : Nat) (vin : BitVec 16) (s : State) : Host.Outcome State Fault Refusal :=
  .next ((s.onCrm fun c => c.tick dt).pfailRaise vin.toNat)

/-- PFAIL_CLEAR (R497). -/
def execPfailClear (dt : Nat) (vin : BitVec 16) (s : State) : Host.Outcome State Fault Refusal :=
  .next ((s.onCrm fun c => c.tick dt).pfailClear vin.toNat)

/-- PWR_REQUEST (R487): a write of AON_PWR_REQ with the word `v`.  `mute` is the code of a block that does not answer, 0 for
none; `pgood` says that Bn_PGOOD is high for 100 µs where the rails are off or just on. -/
def execPwrRequest (m : Master) (v : Word) (mute : BitVec 8) (pgood : Bool) (s : State) : Host.Outcome State Fault Refusal :=
  .next (s.aonWrite m R.AON_PWR_REQ fun s => s.pwrWrite v.toNat mute.toNat pgood)

/-- VOLTAGE_REQUEST (R494): a write of AON_VREQ with the word `v`. -/
def execVoltageRequest (m : Master) (b : Fin 6) (v : Word) (s : State) : Host.Outcome State Fault Refusal :=
  .next (s.aonWrite m (R.AON_VREQ b) fun s => s.vreqWrite b v.toNat)

end Sys2Proof.Machine
end

