-- ==== Sys2Proof/Machine/Boot.lean ====
section
/-!
DEFINITION. Images, OTP, boot ROM, sessions and the audit log (chapter 15), and the resets that reach the creamery
(R502, R403).
-/

namespace Sys2Proof.Machine

/-! ### Images (R440 to R443) -/

/-- A little-endian field of an image. -/
def imgN (im : List Byte) (o n : Nat) : Nat := leNat ((im.drop o).take n)

/-- VERSION, SVN and BODY_LEN of an image. -/
def imgVersion (im : List Byte) : Nat := imgN im 8 4
def imgSvn (im : List Byte) : Nat := imgN im 12 4
def imgBodyLen (im : List Byte) : Nat := imgN im 16 4

/-- The signed part, the body and the trailer. -/
def imgSigned (im : List Byte) : List Byte := im.take (384 + imgBodyLen im)
def imgBody (im : List Byte) : List Byte := (im.drop 384).take (imgBodyLen im)
def imgKey (im : List Byte) : List Byte := (im.drop (384 + imgBodyLen im)).take 64
def imgSig (im : List Byte) : List Byte := (im.drop (448 + imgBodyLen im)).take 64

/-- Are all bytes of a range 0? -/
def zeros (im : List Byte) (o n : Nat) : Bool := ((im.drop o).take n).all (· == 0#8)

/-- A COMPAT entry without reserved bits and types (R442). -/
def compatOk (im : List Byte) (i : Nat) : Bool :=
  let t := imgN im (64 + 12 * i) 1
  zeros im (65 + 12 * i) 3 && decide (t ≤ 3) && (t != 0 || zeros im (64 + 12 * i) 12)

/-- The form of an image of a kind: 0 good, BAD_ARGUMENT, or BAD_RESERVED (R440). -/
def imgForm (kind : Nat) (im : List Byte) : Nat :=
  if im.length < 512 || imgN im 0 4 != 0x4D49444B || imgN im 4 1 != kind || imgN im 5 1 != 1 || imgBodyLen im % 8 != 0 ||
      im.length != 512 + imgBodyLen im then 8
  else if !zeros im 6 2 || !zeros im 24 8 || !zeros im 256 128 || !(List.range 16).all (compatOk im) ||
      (kind == 3 && imgSvn im != 0) || (kind != 1 && imgN im 20 4 != 0) then 5
  else if 63 < imgSvn im || (kind == 1 && (imgN im 20 4 % 4 != 0 || decide (0x400000 - 512 < imgBodyLen im))) then 8
  else 0

/-- Does an image declare version `v` of a type (R442)? -/
def declares (im : List Byte) (typ v : Nat) : Bool :=
  (List.range 16).any fun i =>
    imgN im (64 + 12 * i) 1 == typ && decide (imgN im (68 + 12 * i) 4 ≤ v) && decide (v ≤ imgN im (72 + 12 * i) 4)

/-- The stepping as a version. -/
abbrev stepping : Nat := 0xB1

/-- Is an image signed by the key with this fingerprint (R441)? -/
def signedBy (im fp : List Byte) : Bool :=
  sha256 (imgKey im) == (im.drop 32).take 32 && sha256 (imgKey im) == fp && ecdsaOk (imgKey im) (imgSigned im) (imgSig im)

/-- A section of a body (R429, R441): TYPE, FIRST, COUNT, ELEM and its elements. -/
structure Section where
  typ : Nat
  first : Nat
  count : Nat
  elem : Nat
  data : List Byte
  deriving DecidableEq, Repr

/-- The sections of a body; none where a header is cut short, its reserved bytes are not 0, or its elements run over the
end.  `n` bounds their number. -/
def sections : Nat → List Byte → Option (List Section)
  | 0, bs => if bs.isEmpty then some [] else none
  | n + 1, bs =>
    if bs.isEmpty then some []
    else if bs.length < 16 || leNat ((bs.drop 2).take 2) != 0 then none
    else
      let c := leNat ((bs.drop 8).take 4)
      let e := leNat ((bs.drop 12).take 4)
      if bs.length < 16 + c * e then none
      else (sections n (bs.drop (16 + c * e))).map
        (⟨leNat (bs.take 2), leNat ((bs.drop 4).take 4), c, e, (bs.drop 16).take (c * e)⟩ :: ·)

/-- The sections of an image. -/
def imgSections (im : List Byte) : Option (List Section) := sections ((imgBody im).length / 16 + 1) (imgBody im)

/-- Element `i` of a section. -/
def Section.at_ (s : Section) (i : Nat) : List Byte := (s.data.drop (i * s.elem)).take s.elem

/-- The words of an element. -/
def elemWords (bs : List Byte) : List Nat := (List.range (bs.length / 4)).map fun i => leNat ((bs.drop (4 * i)).take 4)

namespace Creamery

/-! ### OTP (R450 to R452) -/

/-- Bytes of the OTP window. -/
def otpBytes (c : Creamery) (o n : Nat) : List Byte :=
  (List.range n).map fun i => BitVec.ofNat 8 ((c.otpWord ((o + i) / 4 * 4)).toNat / 2 ^ (8 * ((o + i) % 4)))

/-- Blow the bits `v` of a word. -/
def otpBlow (c : Creamery) (o : Nat) (v : Word) : Creamery :=
  { c with otp := SMap.set (fun _ => 0#32) c.otp o (SMap.get (fun _ => 0#32) c.otp o ||| v) }

/-- Blow bytes from an offset, a multiple of 4. -/
def otpBlowBytes (c : Creamery) (o : Nat) (bs : List Byte) : Creamery :=
  (List.range (bs.length / 4)).foldl (fun c i => c.otpBlow (o + 4 * i) (BitVec.ofNat 32 (leNat ((bs.drop (4 * i)).take 4)))) c

/-- The value of a 64-fuse thermometer counter (R448). -/
def fuseCount (c : Creamery) (o : Nat) : Nat :=
  ((List.range 64).filter fun i => bit (c.otpWord (o + i / 32 * 4)).toNat (i % 32)).length

/-- FW_SVN and MC_SVN. -/
def fwSvn (c : Creamery) : Nat := c.fuseCount 0x70
def mcSvn (c : Creamery) : Nat := c.fuseCount 0x78

/-- Raise a counter to a value, lowest fuse first; it is never lowered. -/
def fuseRaise (c : Creamery) (o v : Nat) : Creamery :=
  (List.range (min v 64)).foldl (fun c i => c.otpBlow (o + i / 32 * 4) (BitVec.ofNat 32 (2 ^ (i % 32)))) c

/-- SERIAL. -/
def serial (c : Creamery) : List Byte := c.otpBytes 0xA0 8

/-- The current installer key (R454). -/
def installer (c : Creamery) : Option (List Byte) := c.chain.getLast?

/-- The fingerprint of the key that signs a schedule package (R441). -/
def packageFp (c : Creamery) : Option (List Byte) :=
  if c.lifecycle = lcMAKER then some (c.otpBytes 0x30 32) else c.installer.map sha256

/-- The fingerprint of the vendor key. -/
def vendorFp (c : Creamery) : List Byte := c.otpBytes 0x10 32

/-- The image of a firmware slot, and VERSION of the running firmware. -/
def fwImage (c : Creamery) (n : Nat) : List Byte := SMap.get (fun _ => []) c.fw n
def fwVersion (c : Creamery) : Nat := imgVersion (c.fwImage c.slot)

/-- The checks of R447, in order: status and DETAIL of the first that fails. -/
def fwCheck (c : Creamery) (im : List Byte) : Option (Nat × Nat) :=
  match imgForm 1 im with
  | 0 => if !signedBy im c.vendorFp then some (0xB, 0) else if imgSvn im < c.fwSvn then some (0xB, 2) else none
  | st => some (st, 0)

/-! ### The audit log (R460 to R463) -/

/-- LINK that precedes the first record ever written (R461). -/
def firstLink (c : Creamery) : List Byte := (sha256 c.serial).take 16

/-- Is a record complete: has STATUS been written? -/
def recDone (r : AuditRec) : Bool := (r.head.getD 18 0#8) != 0xFF#8

/-- Write LINK of every complete record whose predecessor has one, oldest first; the records and the newest LINK. -/
def relink (prev : List Byte) : List AuditRec → List AuditRec × List Byte
  | [] => ([], prev)
  | r :: rs =>
    match r.link with
    | some l =>
      let (rs, l) := relink l rs
      (r :: rs, l)
    | none =>
      if recDone r then
        let l := (sha256 (r.head ++ prev)).take 16
        let (rs, m) := relink l rs
        ({ r with link := some l } :: rs, m)
      else (r :: rs, prev)

/-- Bring the chain up to date. -/
def linkUp (c : Creamery) : Creamery :=
  let prev := if c.audit.link.isEmpty then c.firstLink else c.audit.link
  let (rs, l) := relink prev c.audit.recs
  { c with audit := { c.audit with recs := rs, link := l } }

/-- Is the oldest block free to be erased (R463)? -/
def oldestFree (c : Creamery) : Bool :=
  c.audit.wrap || (c.audit.recs.take 1024).all fun r => decide (r.seq < c.audit.exported)

/-- Has the log room for a record (R463)? -/
def auditRoom (c : Creamery) : Bool := decide (c.audit.recs.length < 65536) || c.oldestFree

/-- Add a record's bytes 0 to 47; a full log erases its oldest block first.  No record where there is no room. -/
def auditAdd (c : Creamery) (head : Nat → List Byte) : Creamery :=
  if !c.auditRoom then c
  else
    let a := c.audit
    let full := !decide (a.recs.length < 65536)
    let lost := if full then ((a.recs.take 1024).filter fun r => !decide (r.seq < a.exported)).length else 0
    let recs := if full then a.recs.drop 1024 else a.recs
    let prev := if full then (a.recs[1023]?).elim a.prev fun (r : AuditRec) => r.link.getD [] else a.prev
    { c with audit := { a with prev := prev, recs := recs ++ [⟨a.next, head a.next, none⟩], next := a.next + 1, erased := a.erased + lost } }

/-- Write STATUS and DETAIL of record `n`, and its LINK. -/
def auditDone (c : Creamery) (n st det : Nat) : Creamery :=
  { c with audit := { c.audit with recs := c.audit.recs.map fun (r : AuditRec) =>
      if r.seq = n then
        { r with head := r.head.take 18 ++ [BitVec.ofNat 8 st] ++ (r.head.drop 19).take 1 ++ leBytes 2 det ++ r.head.drop 22 }
      else r } }.linkUp

/-- The coarse clock as seconds and nanoseconds; 0 while it has never been set. -/
def rtcPair (c : Creamery) : Nat × Nat := let t := c.rtcNow.getD 0; (t / 1000000000, t % 1000000000)

/-! ### Sessions (R456 to R459) -/

/-- The open session with an ID: it has had a command within 15 minutes. -/
def sessOf (c : Creamery) (id : Nat) : Option Sess :=
  c.sess.find? fun s => s.id == id && decide (c.clk < s.last + 900000000000)

/-- Close the sessions for which `p` holds; debug ends with the Maker session (R459). -/
def closeSess (c : Creamery) (p : Sess → Bool) : Creamery :=
  let l := c.sess.filter fun s => !p s
  { c with sess := l, dbg := c.dbg && l.any fun s => s.role == 3 }

/-- An ID that no open session has: a number drawn from the noise source, or the next free one. -/
def freshId (used : List Nat) (v : Nat) : Nat → Nat
  | 0 => v
  | n + 1 => if v = 0 ∨ used.contains v then freshId used ((v + 1) % 2 ^ 32) n else v

/-! ### Resets -/

/-- The host port is reset (R403): mailboxes idle with empty buffers, rings stopped, staged data discarded, page map
cleared, sessions closed. -/
def portReset (c : Creamery) : Creamery :=
  let c := { c with mem := SMap.keep (fun a => !(decide (0x02010000 ≤ a) && decide (a < 0x02020000))) c.mem
                    staging := [], coal := [] }
  let c := (List.range 8).foldl (fun c n =>
    let c := { c with mb := c.mb.map fun (q : Nat × Mbox) => (q.1, if q.1 = n ∧ q.2.run ≠ 0 then { q.2 with gone := true } else q.2) }
    (c.wrN (R.CRM_MB_STATUS n) (c.get (F.CRM_MB_STATUS_SEQ_LAST n) * 65536)).wrN (R.CRM_MB_CFG n) 0) c
  let c := (List.range 32).foldl (fun c r => c.put (F.CRM_EXP_CFG_EN r) false) c
  let c := (List.range 256).foldl (fun c p => c.wrN (R.CRM_HWIN_MAP p) 0) c
  c.closeSess fun _ => true

/-- The creamery is reset by a source of R502: its registers, memories outside the management SRAM and the firmware's working
state go, and its processor is reset, whose locks are freed with ORPHAN set (R310, R311); AON, OTP, flash and what the firmware restores from them stay (assumption log entry 8). -/
def crmReset (c : Creamery) (code : Nat) : Creamery :=
  let c := { c with
    regs := SMap.keep (fun a => decide (0x0D000000 ≤ a) || (arrIdx a (R.CRM_LOCK_ACQ 0) 4 64).isSome) c.regs
    mem := SMap.keep (fun a => decide (a < 0x02000000)) c.mem
    up := false, mode := 0, evNum := 0, evLost := 0, irqs := [], evqAt := 0, evqDue := false, hostRx := [], hostDrop := [], staging := [], coal := []
    tnkAt := [], dbg := false, mb := [], sess := [], nonce := [], fails := [], barred := 0, polAt := [], keyHidden := false
    mp := Thr.zero }
  let c := c.masterReset 0x100
  let c := c.wrN R.AON_RST_CAUSE (setBit (c.rdN R.AON_RST_CAUSE) (code - 1))
  c.inc R.AON_CNT_CRM_RESET

end Creamery

namespace State

/-- All byres. -/
abbrev allB : List (Fin 6) := [0, 1, 2, 3, 4, 5]

/-- The byres' engines see whether debug is unlocked (R459). -/
def dbgSync (s : State) : State := allB.foldl (fun s b => s.setByre b { s.byre b with unlocked := s.crm.dbg }) s

/-- A step of the creamery that may open or close sessions. -/
def onSess (s : State) (f : Creamery → Creamery) : State := (s.onCrm f).dbgSync

/-- The creamery is reset: beside its own state, the locks that the management processor holds in the byres are freed with
ORPHAN set (R310). -/
def crmReset (s : State) (code : Nat) : State :=
  let s := s.onSess fun c => c.crmReset code
  allB.foldl (fun s b => s.onFab b fun y => y.masterReset 0x100) s

/-- Every domain of a byre goes off at once. -/
def byreDark (s : State) (b : Fin 6) : State :=
  [9, 8, 7, 6, 5, 4, 3, 2, 1, 0].foldl (fun s d => if s.crm.dom b d = 0 then s else s.domDown b d 0) s

/-- A reset that turns every domain of a byre off (R502). -/
def byreOff (s : State) (b : Fin 6) (code : Nat) : State := (s.byreDark b).onCrm fun c => c.byreRst b code

/-- A reset of the whole device but AON: creamery and all byres. -/
def deviceReset (s : State) (code : Nat) : State := allB.foldl (fun s b => s.byreOff b code) (s.crmReset code)

/-- Power-on reset: all is as after power-up, but for OTP, flash, what the host holds and the levels of the inputs (R502).  CRM_PMB_SLOW
is sampled at its release (R509). -/
def powerOn (s : State) (held slow : Bool) : State :=
  { State.reset with
    pending := s.pending
    crm := { Creamery.zero with
      host := s.crm.host, otp := s.crm.otp, fw := s.crm.fw, ucodeStore := s.crm.ucodeStore, packages := s.crm.packages
      chain := s.crm.chain, secret := s.crm.secret, prefer := s.crm.prefer, trial := s.crm.trial, attempts := s.crm.attempts
      autostart := s.crm.autostart, policy := s.crm.policy, failed := s.crm.failed, audit := s.crm.audit
      free := s.crm.free, porHeld := held, wakePin := s.crm.wakePin
      pmbSlow := if held then s.crm.pmbSlow else slow } }

/-! ### The boot ROM (R437, R446, R447) -/

/-- The image of a slot is accepted: it is copied to management SRAM offset 0, which renews the parity there, and the management
processor jumps to ENTRY. -/
def bootSlot (c : Creamery) (n : Nat) : Creamery :=
  let im := c.fwImage n
  { c with mode := 3, slot := n, keyHidden := true
           mem := Mem.write c.mem Creamery.sram (imgBody im)
           badPar := c.badPar.filter fun a => decide (Creamery.sram + imgBodyLen im ≤ a)
           mp := { Thr.zero with released := true, pc := BitVec.ofNat 16 (imgN im 20 4 / 4) } }

/-- Try PREFER and then the other slot; recovery where neither passes. -/
def bootTry (c : Creamery) : Creamery :=
  if (c.fwCheck (c.fwImage c.prefer)).isNone then bootSlot c c.prefer
  else if (c.fwCheck (c.fwImage (1 - c.prefer))).isNone then bootSlot c (1 - c.prefer)
  else { c with mode := 2 }

/-- The choice of the slot (R446). -/
def bootChoose (c : Creamery) : Creamery :=
  if c.trial && decide (c.attempts < 3) then bootTry { c with attempts := c.attempts + 1 }
  else if c.trial then
    bootTry { c with failed := (c.prefer :: c.failed).eraseDups, prefer := 1 - c.prefer, trial := false, attempts := 0 }
  else bootTry c

/-- The boot ROM runs; `flash` says that the flash has a valid SFDP header and at least 128 MiB (R438). -/
def bootRom (c : Creamery) (flash : Bool) : Creamery :=
  let c := c.put F.AON_CLK_STAT_CRM_CLK_OK true
  if c.lifecycle = Creamery.lcBLANK then { c with mode := 1 }
  else if !flash then { c with mode := 2 }
  else bootChoose c

end State

/-! ### Commands -/

/-- CREAMERY_RESET_RELEASE (R437): AON releases the creamery reset, `dt` ns later. -/
def execCreameryResetRelease (dt : Nat) (flash : Bool) (s : State) : Host.Outcome State Fault Refusal :=
  .next (if s.crm.mode = 0 ∧ !s.crm.porHeld ∧ !s.crm.crmClkLost ∧ bits (s.crm.rdN R.AON_PWR_STATE_CRM) 1 0 = 2 then
    s.onCrm fun c => State.bootRom (c.tick dt) flash else s)

/-- CREAMERY_WATCHDOG_EXPIRY (R437): the watchdog runs from the boot ROM's second step. -/
def execCreameryWatchdogExpiry (s : State) : Host.Outcome State Fault Refusal :=
  .next (if s.crm.mode < 2 then s else (s.onCrm fun c => c.tick 10000000000).crmReset 3)

/-- POWER_ON_RESET (R497, R502): VIN falls below 4.2 V and the device is held, or has exceeded 4.4 V for 10 ms and the reset is
released (`rise.rise`); `rise.slow` is the level of CRM_PMB_SLOW. -/
def execPowerOnReset (rise : PorPin) (s : State) : Host.Outcome State Fault Refusal := .next (s.powerOn (!rise.rise) rise.slow)

/-- CRM_RESET_PIN (R502). -/
def execCrmResetPin (dt : Nat) (s : State) : Host.Outcome State Fault Refusal :=
  .next ((s.onCrm fun c => c.tick dt).deviceReset 2)

/-- CRM_REFCLK_LOSS (R500): the creamery is held until the clock returns (`back`); the coarse clock goes on, degraded. -/
def execCrmRefclkLoss (dt : Nat) (back : Bool) (s : State) : Host.Outcome State Fault Refusal :=
  let s := s.onCrm fun c => (c.tick dt).put F.AON_CLK_STAT_CRM_CLK_OK back
  .next (if back then s.onCrm fun c => { c with crmClkLost := false }
    else if s.crm.crmClkLost then s
    else (s.crmReset 6).onCrm fun c => { c.put F.AON_CLK_STAT_RTC_DEGRADED true with crmClkLost := true })

/-- JTAG_SYSTEM_RESET (R502): under Maker unlock only (R459). -/
def execJtagSystemReset (s : State) : Host.Outcome State Fault Refusal := .next (if s.crm.dbg then s.deviceReset 7 else s)

/-- SESSION_TIMEOUT (R458): 15 minutes without a command. -/
def execSessionTimeout (id : Word) (s : State) : Host.Outcome State Fault Refusal :=
  .next (s.onSess fun c =>
    match c.sess.find? fun q => q.id == id.toNat with
    | none => c
    | some q => { c with clk := max c.clk (q.last + 900000000000) }.closeSess fun r => r.id == id.toNat)

/-- HOST_PORT_RESET (R403): 0 fundamental reset, 1 hot reset, 2 link-down, 3 function level reset, 4 D3hot to D0. -/
def execHostPortReset (why : Fin 5) (dt : Nat) (s : State) : Host.Outcome State Fault Refusal :=
  .next (s.onSess fun c => { (c.tick dt).portReset with linkDown := why == 2 })

/-! ### Tanker commands.  Channels 16 to 23 are the creamery's 0 to 7; `b` names the byre of a channel below 16. -/

/-- Work of creamery tanker `n`; a word of the management SRAM that it reads and that fails parity restarts the creamery (R473), before
any of the data is moved (assumption log entry 40). -/
def State.sramGuard (s : State) (n : Nat) (bell : Bool) (f : State → State) : State :=
  if s.crm.tnkBad n bell then s.crmReset 5 else f s

/-- TNK_DOORBELL (R301, R313). -/
def execTnkDoorbell (b : Fin 6) (m : Master) (n : Fin 24) (s : State) : Host.Outcome State Fault Refusal :=
  .next (if n < 16 then s.tnkCtrl b m n (s.disBit b n + 2) 0
    else s.crmTnk m (R.CRM_TNK_CTRL (n - 16)) fun s => s.sramGuard (n - 16) true fun s => s.onCrm fun c => c.tnkDoorbell (n - 16))

/-- TNK_ABORT (R303) after `cells` cells; `host` is what host memory answered a creamery tanker. -/
def execTnkAbort (b : Fin 6) (m : Master) (n : Fin 24) (cells : Nat) (host : List Byte) (s : State) :
    Host.Outcome State Fault Refusal :=
  .next (if n < 16 then s.tnkCtrl b m n (s.disBit b n + 4) cells
    else s.crmTnk m (R.CRM_TNK_CTRL (n - 16)) fun s => s.sramGuard (n - 16) false fun s => s.crmAbort (n - 16) cells host)

/-- DESCRIPTOR_COMPLETE (R300), `dt` ns after the byre's last step; `host` is what host memory answered a creamery
tanker. -/
def execDescriptorComplete (b : Fin 6) (n : Fin 24) (dt : Nat) (host : List Byte) (s : State) : Host.Outcome State Fault Refusal :=
  .next (if n < 16 then
      if s.on b domFAB then
        let (out, y) := ((s.byre b).advance dt).tnkRun n (s.hostRoom b)
        (s.onByre b fun _ => y).hostTake b 0 out
      else s
    else s.sramGuard (n - 16) false fun s => s.crmRun (n - 16) host)

end Sys2Proof.Machine
end

