-- ==== Sys2Proof/Machine/Mailbox.lean ====
section
/-!
DEFINITION. The mailboxes (R407 to R417): requests, the checks of R410, stored responses, audit records of commands, and
how a command's meaning is run by the firmware.  RING makes checks 1 to 9; the command's own row makes check 10 and executes,
or answers the failure that the state has come to since.
-/

namespace Sys2Proof.Machine

/-- The status codes of R409 used below. -/
abbrev mOK : Nat := 0
abbrev mBUSY : Nat := 1
abbrev mUNKNOWN : Nat := 2
abbrev mLENGTH : Nat := 3
abbrev mCRC : Nat := 4
abbrev mRSV : Nat := 5
abbrev mROLE : Nat := 6
abbrev mSTATE : Nat := 7
abbrev mARG : Nat := 8
abbrev mLATE : Nat := 9
abbrev mCOMPAT : Nat := 10
abbrev mSIG : Nat := 11
abbrev mFULL : Nat := 12
abbrev mTIMEOUT : Nat := 13
abbrev mHW : Nat := 14
abbrev mABORT : Nat := 15

/-- A request (R407). -/
structure Req where
  cmd : Nat
  seq : Nat
  len : Nat
  sess : Nat
  crc : Nat
  p : List Byte
  deriving DecidableEq, Repr

/-- A request as the buffer holds it. -/
def reqOf (bs : List Byte) : Req :=
  let f := fun o n => leNat ((bs.drop o).take n)
  ⟨f 0 2, f 2 2, f 4 4, f 8 4, f 12 4, (bs.drop 16).take (min (f 4 4) 4080)⟩

/-- A little-endian field of the payload. -/
def Req.at_ (q : Req) (o n : Nat) : Nat := leNat ((q.p.drop o).take n)

/-- Bytes of the payload. -/
def Req.bytes (q : Req) (o n : Nat) : List Byte := (q.p.drop o).take n

/-- The fields that tell a repeated request (R413). -/
def Req.key (q : Req) : Nat × Nat × Nat × Nat × Nat := (q.cmd, q.seq, q.len, q.sess, q.crc)

/-- What a command answers: a response, or a wait for hardware with the code that `Mbox.run` holds. -/
inductive Ans where
  | done (st det : Nat) (p : List Byte)
  | wait (k : Nat)
  deriving DecidableEq, Repr

/-- An answer without payload. -/
abbrev ansOk : Ans := .done 0 0 []

/-- A refusal. -/
abbrev ansErr (st : Nat) : Ans := .done st 0 []

/-- State sets of R427, the single states that rows name, `none_` for a command that names no byre, and `carried` for one
that carries BYRE and tests no state (R416). -/
inductive StSet where
  | all | on | stopped | idle | live | held | ready | run | test | carried | none_
  deriving DecidableEq, Repr

/-- Does a set hold a state, as the firmware knows it? -/
def StSet.has (s : StSet) (st : Nat) : Bool :=
  match s with
  | .on => st != 0 && st != 7
  | .stopped => st == 1 || st == 2 || st == 4 || st == 6
  | .idle => st == 1 || st == 2 || st == 4
  | .live => st == 2 || st == 3 || st == 5
  | .held => st == 1
  | .ready => st == 2
  | .run => st == 3 || st == 4 || st == 5
  | .test => st == 4
  | _ => true

/-- A row of the command table (R428): code, roles (bit 0 Operator, 1 Installer, 2 Maker; 0 no session needed), state set,
least and greatest LEN, and the payload bytes that are reserved. -/
structure CmdRow where
  code : Nat
  roles : Nat
  set : StSet
  lo : Nat
  hi : Nat
  rsv : List (Nat × Nat)
  deriving DecidableEq, Repr

/-- The command table (R428, R436). -/
def cmdTable : List CmdRow :=
  [⟨0x0101, 0, .none_, 0, 0, []⟩,
   ⟨0x0102, 7, .none_, 0, 0, []⟩,
   ⟨0x0103, 7, .on, 12, 12, [(2, 3)]⟩,
   ⟨0x0104, 2, .on, 4, 4, [(1, 3)]⟩,
   ⟨0x0105, 2, .none_, 0, 0, []⟩,
   ⟨0x0201, 0, .none_, 0, 0, []⟩,
   ⟨0x0202, 0, .none_, 132, 132, [(1, 3)]⟩,
   ⟨0x0203, 0, .none_, 36, 36, [(1, 3)]⟩,
   ⟨0x0204, 7, .none_, 0, 0, []⟩,
   ⟨0x0205, 0, .none_, 128, 128, []⟩,
   ⟨0x0206, 2, .none_, 128, 128, []⟩,
   ⟨0x0207, 2, .none_, 32, 32, []⟩] ++
  [⟨0x0301, 7, .all, 4, 4, [(1, 3)]⟩,
   ⟨0x0302, 6, .on, 4, 4, [(1, 3)]⟩,
   ⟨0x0303, 2, .held, 4, 4, [(1, 3)]⟩,
   ⟨0x0304, 2, .ready, 4, 4, [(1, 3)]⟩,
   ⟨0x0305, 2, .run, 4, 4, [(1, 3)]⟩,
   ⟨0x0306, 2, .idle, 20, 20, [(1, 3), (16, 19)]⟩,
   ⟨0x0307, 4, .held, 4, 4, [(1, 3)]⟩,
   ⟨0x0308, 4, .ready, 4, 4, [(1, 3)]⟩,
   ⟨0x0309, 4, .test, 4, 4, [(1, 3)]⟩,
   ⟨0x030A, 2, .on, 4, 4, [(2, 3)]⟩,
   ⟨0x030B, 7, .on, 4, 4, [(3, 3)]⟩] ++
  [⟨0x0401, 6, .on, 20, 20, [(1, 3), (16, 19)]⟩,
   ⟨0x0402, 2, .on, 4, 4, [(1, 3)]⟩,
   ⟨0x0403, 2, .live, 12, 12, [(1, 3)]⟩,
   ⟨0x0404, 2, .live, 4, 4, [(1, 3)]⟩,
   ⟨0x0405, 7, .on, 4, 4, [(1, 3)]⟩,
   ⟨0x0406, 2, .carried, 20, 20, [(2, 3), (16, 19)]⟩,
   ⟨0x0407, 7, .none_, 0, 0, []⟩,
   ⟨0x0408, 3, .live, 12, 12, [(2, 3)]⟩,
   ⟨0x0409, 2, .carried, 4, 4, [(2, 3)]⟩] ++
  [⟨0x0501, 2, .on, 40, 4072, [(2, 3)]⟩,
   ⟨0x0502, 7, .on, 8, 16, [(2, 3)]⟩,
   ⟨0x0503, 2, .stopped, 4, 4, [(2, 3)]⟩,
   ⟨0x0504, 2, .stopped, 12, 12, [(1, 3)]⟩,
   ⟨0x0505, 2, .stopped, 8, 8, [(2, 3)]⟩,
   ⟨0x0506, 2, .on, 4, 4, [(1, 3)]⟩,
   ⟨0x0507, 2, .on, 44, 4076, [(3, 3)]⟩,
   ⟨0x0508, 2, .on, 80, 80, [(3, 3)]⟩,
   ⟨0x0509, 2, .on, 4, 4, [(2, 3)]⟩,
   ⟨0x050A, 7, .on, 4, 4, [(3, 3)]⟩] ++
  [⟨0x0601, 7, .on, 4, 4, [(1, 3)]⟩,
   ⟨0x0602, 2, .stopped, 24, 24, [(1, 3)]⟩,
   ⟨0x0603, 2, .none_, 10, 10, []⟩,
   ⟨0x0604, 2, .stopped, 8, 8, [(1, 3)]⟩,
   ⟨0x0605, 2, .stopped, 16, 16, [(1, 3)]⟩,
   ⟨0x0606, 2, .stopped, 12, 12, [(2, 3)]⟩,
   ⟨0x0701, 7, .on, 4, 4, [(2, 3)]⟩,
   ⟨0x0702, 2, .stopped, 36, 36, [(2, 3)]⟩,
   ⟨0x0703, 2, .stopped, 8, 8, [(2, 3)]⟩,
   ⟨0x0704, 2, .stopped, 12, 12, [(1, 3)]⟩,
   ⟨0x0705, 2, .stopped, 16, 16, [(2, 3)]⟩,
   ⟨0x0706, 2, .on, 22, 2052, [(1, 3), (6, 7)]⟩,
   ⟨0x0707, 7, .on, 4, 4, [(1, 3)]⟩] ++
  [⟨0x0801, 2, .none_, 24, 24, [(16, 23)]⟩,
   ⟨0x0802, 2, .none_, 1, 1, []⟩,
   ⟨0x0803, 7, .none_, 1, 1, []⟩,
   ⟨0x0804, 3, .none_, 5, 5, []⟩,
   ⟨0x0805, 7, .on, 4, 4, [(2, 3)]⟩,
   ⟨0x0901, 2, .stopped, 24, 24, [(1, 3)]⟩,
   ⟨0x0902, 2, .on, 12, 12, [(1, 3)]⟩,
   ⟨0x0903, 2, .on, 68, 68, [(1, 3)]⟩,
   ⟨0x0904, 7, .on, 4, 4, [(1, 3)]⟩,
   ⟨0x0905, 2, .live, 12, 12, [(1, 1)]⟩,
   ⟨0x0906, 2, .stopped, 12, 12, [(1, 3)]⟩,
   ⟨0x0A01, 2, .stopped, 24, 24, [(1, 3)]⟩,
   ⟨0x0A02, 3, .on, 4, 4, [(1, 1)]⟩,
   ⟨0x0A03, 3, .on, 4, 4, [(1, 3)]⟩,
   ⟨0x0A04, 3, .on, 4, 4, [(1, 3)]⟩,
   ⟨0x0A05, 7, .on, 4, 4, [(1, 3)]⟩] ++
  [⟨0x0B01, 7, .none_, 0, 0, []⟩,
   ⟨0x0B02, 2, .all, 4, 4, [(3, 3)]⟩,
   ⟨0x0B03, 2, .all, 4, 4, []⟩,
   ⟨0x0B04, 2, .idle, 4, 4, [(2, 3)]⟩,
   ⟨0x0B05, 2, .none_, 48, 48, []⟩,
   ⟨0x0B06, 2, .none_, 4, 4, []⟩,
   ⟨0x0C01, 7, .none_, 0, 0, []⟩,
   ⟨0x0C02, 7, .none_, 24, 24, [(4, 7), (20, 23)]⟩,
   ⟨0x0C03, 2, .none_, 1, 1, []⟩] ++
  [⟨0x0D01, 6, .on, 10, 10, [(1, 3)]⟩,
   ⟨0x0D02, 4, .idle, 12, 12, [(1, 3)]⟩,
   ⟨0x0D03, 4, .none_, 0, 0, []⟩,
   ⟨0x0D04, 4, .test, 4, 4, [(3, 3)]⟩,
   ⟨0x0D05, 4, .test, 4, 4, [(3, 3)]⟩,
   ⟨0x0D06, 4, .test, 4, 4, [(2, 3)]⟩,
   ⟨0x0D07, 4, .on, 10, 10, [(2, 3)]⟩,
   ⟨0x0D08, 7, .none_, 0, 0, []⟩,
   ⟨0x0D09, 4, .none_, 8, 8, []⟩,
   ⟨0x0D0A, 4, .none_, 4, 4, []⟩,
   ⟨0x0E01, 7, .none_, 0, 0, []⟩,
   ⟨0x0E02, 2, .none_, 16, 16, [(12, 15)]⟩,
   ⟨0x0E03, 2, .none_, 0, 0, []⟩,
   ⟨0x0E04, 2, .none_, 0, 0, []⟩]

/-- The row of a command code. -/
def cmdRow (code : Nat) : Option CmdRow := cmdTable.find? fun r => r.code == code

/-- Every command is privileged but session_nonce and those whose names end in _info, _status, _read, _list or _recv
(R410). -/
def unprivileged : List Nat :=
  [0x0101, 0x0102, 0x0201, 0x0301, 0x0405, 0x0407, 0x0502, 0x050A, 0x0601, 0x0701, 0x0707, 0x0803, 0x0805, 0x0904, 0x0A05,
   0x0B01, 0x0C01, 0x0D01, 0x0D07, 0x0D08, 0x0E01]
def privileged (code : Nat) : Bool := !unprivileged.contains code

/-- Does a command name a byre? -/
def CmdRow.named (r : CmdRow) : Bool := r.set != .none_

/-- Further length rules: LEN follows COUNT, L or MODE. -/
def lenOk (q : Req) : Bool :=
  match q.cmd with
  | 0x0501 => (q.len - 4) % 36 == 0 && (q.at_ 1 1 == 0 || decide (113 < q.at_ 1 1) || q.len == 4 + 36 * q.at_ 1 1)
  | 0x0502 => q.len == 16 || (q.len == 8 && q.at_ 1 1 == 1)
  | 0x0507 => (q.len - 12) % 32 == 0 && (q.at_ 2 1 == 0 || decide (127 < q.at_ 2 1) || q.len == 12 + 32 * q.at_ 2 1)
  | 0x0706 => decide (q.at_ 4 2 < 14) || decide (2044 < q.at_ 4 2) || q.len == 8 + q.at_ 4 2
  | _ => true

/-- An exact-match entry of 32 bytes (R138). -/
def entOf (bs : List Byte) : EmuEnt :=
  let w := fun i => leNat ((bs.drop (4 * i)).take 4)
  ⟨w 0, w 1, w 2, w 3, w 4, w 5, w 6, w 7⟩

/-- Free of reserved bits and encodings; KT 0 and LEARNED are arguments (R431). -/
def entRsvOk (e : EmuEnt) : Bool :=
  e.kt == 0 || { e with w3 := if e.learned then e.w3 - 131072 else e.w3 }.ok

/-- The registers that a command of R435 or R434 carries as words, in order. -/
def cfgRegs (code sel : Nat) : List Nat :=
  match code with
  | 0x0504 => [R.EMU_CTRL, R.EMU_SEED]
  | 0x0505 => [R.EMU_LRN_CFG sel]
  | 0x0602 => [R.TIME_CTRL, R.TIME_SERVO_CFG, R.TIME_HOLD, R.TIME_BC_MASTER, R.TIME_TC_EN]
  | 0x0604 => [R.TIME_UTC]
  | 0x0605 => [R.TIME_PPS_OUT, R.TIME_PPS_OUT_OFS, R.TIME_PPS_IN]
  | 0x0606 => [R.TIME_ING_DLY sel, R.TIME_EGR_DLY sel]
  | 0x0702 => [R.SW_PORT_CTRL sel, R.SW_PORT_GUARD sel, R.SW_PORT_QDEPTH0 sel, R.SW_PORT_QDEPTH1 sel, R.SW_PORT_TALLY sel,
      R.SW_CREDIT sel, R.SW_LINK_TIMING, R.SW_DUP_CFG]
  | 0x0703 => [R.SW_PAIR sel]
  | 0x0704 => [R.SW_TALLY_CTRL, R.SW_TALLY_BASE]
  | 0x0705 => [R.CAL_PIN_CFG sel, R.CAL_PIN_FILT sel, R.CAL_PIN_DLY sel]
  | 0x0901 => [R.TUG_NODE, R.TUG_TIME_CFG, R.TUG_LINK_CFG, R.TUG_MGR, R.TUG_ROOT]
  | 0x0902 => [R.TUG_MGR, R.TUG_ROOT]
  | 0x0903 => (List.range 8).map R.TUG_ROUTE_MEMBER ++ (List.range 8).map R.TUG_ROUTE_AREA
  | 0x0906 => [R.TUG_TUN_CFG, R.TUG_TUN_EP]
  | 0x0A01 => [R.DRAM_REC_CTRL, R.DRAM_REC_BASE, R.DRAM_REC_SIZE, R.DRAM_REC_WIN, R.DRAM_REC_PANIC]
  | _ => []

/-- The selector in byte 1, and the greatest it may be; none where the command has none (R435). -/
def selMax (code : Nat) : Option Nat :=
  match code with
  | 0x0505 => some 21
  | 0x0606 => some 23
  | 0x0701 => some 23
  | 0x0702 => some 23
  | 0x0703 => some 10
  | 0x0705 => some 15
  | 0x0805 => some 7
  | _ => none

/-- The words of a configuration command with their registers. -/
def cfgWords (q : Req) : List (Nat × Nat) :=
  let sel := (selMax q.cmd).elim 0 fun m => min m (q.at_ 1 1)
  ((cfgRegs q.cmd sel).zipIdx).map fun (r, i) => (r, q.at_ (4 + 4 * i) 4)

namespace Byre

/-- Does a word hold a reserved bit or encoding of its register (R9)? -/
def regBad (y : Byre) (off v : Nat) : Bool :=
  match byreReg off with
  | none => true
  | some r =>
    r.flds.any (fun f => f.acc == .rw && !y.fldLegal off f v) ||
    (List.range 32).any (fun i => bit v i && !r.flds.any fun f => decide (f.lo ≤ i) && decide (i ≤ f.hi)) || y.wholeBad off v

/-- Is any of the words, written in order, reserved? -/
def wordsBad (y : Byre) : List (Nat × Nat) → Bool
  | [] => false
  | (o, v) :: ws => y.regBad o v || (y.plainWrite o v).wordsBad ws

end Byre

namespace State

/-- The byre that a request names in byte 0. -/
def reqByre (q : Req) : Option (Fin 6) := if h : q.at_ 0 1 < 6 then some ⟨q.at_ 0 1, h⟩ else none

/-- The byre whose registers decide which encodings are reserved; one at reset where the request names none that is on. -/
def rsvByre (s : State) (q : Req) : Byre :=
  match reqByre q with
  | some b => if s.on b domFAB then s.byre b else Byre.zero 0
  | none => Byre.zero 0

/-- Check 5 of R410: nothing reserved is set. -/
def rsvOk (s : State) (r : CmdRow) (q : Req) : Bool :=
  r.rsv.all (fun (a, b) => zeros q.p a (b + 1 - a)) &&
  (match q.cmd with
   | 0x0501 => (List.range ((q.len - 4) / 36)).all fun i =>
       decide (q.at_ (4 + 36 * i) 1 ≤ 1) && zeros q.p (5 + 36 * i) 3 && entRsvOk (entOf (q.bytes (8 + 36 * i) 32))
   | 0x0502 => q.at_ 1 1 == 0 || (q.at_ 1 1 == 1 && zeros q.p 8 8)
   | 0x0503 => decide (q.at_ 1 1 ≤ 3)
   | 0x0507 => decide (q.at_ 1 1 < 64) && !bit (q.at_ 1 1) (q.at_ 0 1) &&
       (List.range ((q.len - 12) / 32)).all fun i => entRsvOk (entOf (q.bytes (12 + 32 * i) 32))
   | 0x0508 => decide (q.at_ 2 1 < 4) && Byre.keyHdrOk (q.at_ 4 4) && (bit (q.at_ 2 1) 0 || zeros q.p 16 32) &&
       (bit (q.at_ 2 1) 1 || zeros q.p 48 32)
   | 0x050A => decide (q.at_ 2 1 < 2)
   | 0x0804 => decide (q.at_ 4 1 < 2)
   | 0x0B02 => decide (q.at_ 2 1 < 3)
   | 0x0B03 => decide (q.at_ 1 1 < 2)
   | 0x0B04 => decide (q.at_ 1 1 < 3)
   | 0x0B05 => (List.range 6).all fun i =>
       decide (q.at_ (8 * i) 2 < 1024) && decide (q.at_ (8 * i + 2) 2 < 1024) && decide (q.at_ (8 * i + 4) 2 < 1024) &&
       decide (q.at_ (8 * i + 6) 1 < 2) && q.at_ (8 * i + 7) 1 == 0
   | 0x0B06 => bits (q.at_ 0 4) 30 16 == 0 && decide (4500 ≤ q.at_ 0 2) && decide (q.at_ 0 2 ≤ 27000)
   | 0x0C03 => decide (q.at_ 0 1 < 2)
   | 0x0D06 => decide (q.at_ 1 1 < 2)
   | _ => true) &&
  !(s.rsvByre q).wordsBad (cfgWords q)

/-- Check 6: the session is open and its role may issue the command; a closed session fails even where none is needed
(R458).  sched_load is the Maker's only while the byre is idle (R455), and a RETIRED part answers fw_status to anyone (R452). -/
def roleOk (s : State) (r : CmdRow) (q : Req) : Bool :=
  match s.crm.sessOf q.sess with
  | some se =>
    r.roles == 0 || (bit r.roles (se.role - 1) &&
      (q.cmd != 0x0401 || se.role != 3 || (reqByre q).elim true fun b => StSet.idle.has (s.fwSt b)))
  | none => q.sess == 0 && (r.roles == 0 || (q.cmd == 0x0E01 && s.crm.lifecycle == Creamery.lcRETIRED))

/-- Check 8: BYRE names a byre, and its state is in the command's set. -/
def byreCheck (s : State) (r : CmdRow) (q : Req) : Nat :=
  if !r.named then mOK
  else match reqByre q with
    | none => mARG
    | some b => if r.set.has (s.fwSt b) then mOK else mSTATE

/-- A mailbox nothing has rung. -/
def mbZero : Mbox := ⟨none, [], 0, [], false, none, 0, 0, []⟩

/-- Mailbox `n`. -/
def mb (s : State) (n : Nat) : Mbox := SMap.get (fun _ => mbZero) s.crm.mb n

/-- Update mailbox `n`. -/
def onMb (s : State) (n : Nat) (f : Mbox → Mbox) : State :=
  s.onCrm fun c => { c with mb := SMap.set (fun _ => mbZero) c.mb n (f (SMap.get (fun _ => mbZero) c.mb n)) }

/-- Do two requests conflict (R414)? -/
def conflicts (q p : Req) : Bool :=
  match cmdRow q.cmd, cmdRow p.cmd with
  | some a, some b =>
    privileged q.cmd && privileged p.cmd &&
    (if a.named && b.named then q.at_ 0 1 == p.at_ 0 1 else !a.named && !b.named && q.cmd / 256 == p.cmd / 256)
  | _, _ => false

/-- Check 9: a command of another mailbox that runs, and conflicts. -/
def busyCheck (s : State) (n : Nat) (q : Req) : Bool :=
  (List.range 8).any fun m => m != n && (s.mb m).run != 0 && conflicts q (reqOf (s.mb m).req)

/-- Checks 1 to 9 of R410, in order: the number and status of the first that fails. -/
def checks (s : State) (n : Nat) (q : Req) : Option (Nat × Nat) :=
  if 4080 < q.len then some (1, mLENGTH)
  else if q.crc ≠ (if q.len = 0 then 0 else crc32c q.p) then some (2, mCRC)
  else
    match cmdRow q.cmd with
    | none => some (3, mUNKNOWN)
    | some r =>
      if s.crm.mode = 2 ∧ q.cmd ≠ 0x0101 ∧ q.cmd ≠ 0x0E02 then some (3, mUNKNOWN)
      else if q.len < r.lo ∨ r.hi < q.len ∨ !lenOk q then some (4, mLENGTH)
      else if !s.rsvOk r q then some (5, mRSV)
      else if s.crm.mode ≠ 2 ∧ !s.roleOk r q then some (6, mROLE)
      else if !s.crm.auditRoom && q.cmd != 0x0C01 && q.cmd != 0x0C02 then some (7, mFULL)
      else
        match s.byreCheck r q with
        | 0 => if s.busyCheck n q then some (9, mBUSY) else none
        | st => some (8, st)

/-! ### Audit records of commands (R460, R462) -/

/-- Bytes 0 to 47 of a record, STATUS and DETAIL as given. -/
def auditHead (s : State) (n : Nat) (q : Req) (role : Nat) (fp : List Byte) (st det seq : Nat) : List Byte :=
  let (sec, ns) := s.crm.rtcPair
  let b := if (cmdRow q.cmd).elim false CmdRow.named then (if q.at_ 0 1 < 6 then q.at_ 0 1 else 0xFF) else 0xFF
  leBytes 4 seq ++ leBytes 6 sec ++ leBytes 4 ns ++ leBytes 1 role ++ leBytes 1 n ++ leBytes 2 q.cmd ++ leBytes 1 st ++ leBytes 1 b ++
    leBytes 2 det ++ leBytes 2 0 ++ (fp ++ List.replicate 16 0#8).take 16 ++ (q.p ++ List.replicate 8 0#8).take 8

/-- DETAIL of a record: that of the response, or 0x0B0E for a command that names a byre under bench override (R445). -/
def auditDetail (s : State) (q : Req) (det : Nat) : Nat :=
  if (cmdRow q.cmd).elim false CmdRow.named then
    match reqByre q with
    | some b => if s.on b domFAB && (s.byre b).flag F.CHURN_BYRE_BENCH then 0x0B0E else det
    | none => det
  else det

/-- Open the record of a privileged command before it changes any state. -/
def auditOpen (s : State) (n : Nat) (q : Req) : State :=
  if privileged q.cmd && q.cmd != 0x0C02 && s.crm.auditRoom then
    let seq := s.crm.audit.next
    let m := s.mb n
    (s.onCrm fun c => c.auditAdd (s.auditHead n q m.role m.fp 0xFF 0xFFFF)).onMb n fun m => { m with open_ := some seq }
  else s

/-- Complete the record of a command that ends, or write the whole record of one that has none open. -/
def auditEnd (s : State) (n : Nat) (q : Req) (st det : Nat) : State :=
  let d := s.auditDetail q det
  match (s.mb n).open_ with
  | some k => (s.onCrm fun c => c.auditDone k st d).onMb n fun m => { m with open_ := none }
  | none =>
    if privileged q.cmd && s.crm.auditRoom then
      let seq := s.crm.audit.next
      let m := s.mb n
      s.onCrm fun c => (c.auditAdd (s.auditHead n q m.role m.fp 0xFF 0xFFFF)).auditDone seq st d
    else s

/-! ### Responses (R408, R411, R413) -/

/-- Addresses of a mailbox's buffers (R404). -/
def reqAddr (n : Nat) : Nat := 0x02010000 + n * 0x2000
def respAddr (n : Nat) : Nat := 0x02011000 + n * 0x2000

/-- A response as its bytes. -/
def respBytes (q : Req) (st det : Nat) (p : List Byte) : List Byte :=
  let p := p.take 4080
  leBytes 2 q.cmd ++ leBytes 2 q.seq ++ leBytes 4 p.length ++ leBytes 1 st ++ leBytes 1 0 ++ leBytes 2 det ++
    leBytes 4 (if p.isEmpty then 0 else crc32c p) ++ p

/-- Put a response into the buffer and enter DONE. -/
def showResp (s : State) (n : Nat) (bs : List Byte) : State :=
  s.onCrm fun c =>
    let c := { c with mem := Mem.write c.mem (respAddr n) bs }
    let c := c.set (F.CRM_MB_STATUS_STATE n) 2
    if c.flag (F.CRM_MB_CFG_IRQ_EN n) then c.raise n else c

/-- The command of mailbox `n` ends with a response, which is stored; after a host port reset it is only stored (R403). -/
def respond (s : State) (n : Nat) (q : Req) (st det : Nat) (p : List Byte) : State :=
  let bs := respBytes q st det p
  let gone := (s.mb n).gone
  let s := s.onMb n fun m => { m with key := some q.key, resp := bs, run := 0, gone := false, open_ := none }
  let s := s.onCrm fun c => c.set (F.CRM_MB_STATUS_SEQ_LAST n) q.seq
  if gone then s else s.showResp n bs

/-- The firmware takes in the request that mailbox `n` has been rung with: a repeated request is answered from the store
(R413), a failing one ends with its status, and one that passes is to execute. -/
def intake (s : State) (n : Nat) : State :=
  let bs := Mem.read s.crm.mem (reqAddr n) 4096
  let q := reqOf bs
  let m := s.mb n
  if m.key = some q.key then s.showResp n m.resp
  else
    let se := s.crm.sessOf q.sess
    let role := if s.crm.mode = 2 then 4 else se.elim 0 (·.role)
    let ord := s.crm.rings
    let s := s.onMb n fun m => { m with req := bs, role := role, fp := se.elim [] (·.fp), ord := ord, open_ := none }
    let chk := s.checks n q
    let seen := chk.elim true fun c => decide (6 ≤ c.1)
    let s := s.onCrm fun c =>
      { c with rings := c.rings + 1
               sess := if seen then c.sess.map fun (x : Sess) => if some x = se then { x with last := c.clk } else x else c.sess }
    match chk with
    | none => s.onMb n fun m => { m with run := 1 }
    | some (k, st) =>
      let s := if k = 7 then s.onCrm fun c => { c with audit := { c.audit with refused := c.audit.refused + 1 } }
        else if 6 ≤ k then s.auditEnd n q st 0 else s
      s.respond n q st 0 []

/-- A request that was rung while the command before it still ran, and its response was kept back (R403), is taken in. -/
def takeNext (s : State) (n : Nat) : State := if s.crm.get (F.CRM_MB_STATUS_STATE n) = 1 then s.intake n else s

/-- A command ends: its audit record is completed before DONE (R462). -/
def complete (s : State) (n : Nat) (q : Req) (st det : Nat) (p : List Byte) : State :=
  let gone := (s.mb n).gone
  let s := (s.auditEnd n q st det).respond n q st det p
  if gone then s.takeNext n else s

/-- Does the firmware, or in recovery the boot ROM, serve this mailbox? -/
def serves (s : State) (n : Nat) : Bool := s.crm.up || (s.crm.mode == 2 && n == 0)

/-- A host access shows the link up. -/
def hostSeen (s : State) : State := s.onCrm fun c => { c.put F.AON_CLK_STAT_PCIE_CLK_OK true with linkDown := false }

/-- Does the host reach the device's BARs: the firmware runs, or the endpoint enumerates in recovery (R437, R447)? -/
def hostOk (s : State) : Bool := s.crm.hostOpen

/-- A host write of a doorbell: the link is up, and the management processor's doorbell event latches (R251). -/
def doorbellSeen (s : State) : State :=
  s.hostSeen.onCrm fun c => { c with mp := { c.mp with ev := BitVec.ofNat 5 (setBit c.mp.ev.toNat 0) } }

/-- RING of mailbox `n` (R411). -/
def ring (s : State) (n : Nat) : State :=
  if !s.hostOk then s
  else
    let s := s.doorbellSeen
    if s.crm.get (F.CRM_MB_STATUS_STATE n) ≠ 0 then s.onCrm fun c => c.put (F.CRM_MB_STATUS_RING_LOST n) true
    else
      let s := s.onCrm fun c => c.set (F.CRM_MB_STATUS_STATE n) 1
      if (s.mb n).run ≠ 0 || !s.serves n then s else s.intake n

/-- ACK of mailbox `n` (R411). -/
def ack (s : State) (n : Nat) : State :=
  if !s.hostOk then s
  else
    let s := s.doorbellSeen
    s.onCrm fun c =>
      if c.get (F.CRM_MB_STATUS_STATE n) = 2 then c.set (F.CRM_MB_STATUS_STATE n) 0 else c.put (F.CRM_MB_STATUS_RING_LOST n) true

/-- ABORT of mailbox `n` (R415): before the command has begun to change state it ends ABORTED; one that waits on hardware is
past its last abort point. -/
def abort (s : State) (n : Nat) : State :=
  if !s.hostOk then s
  else
    let s := s.doorbellSeen
    if s.crm.get (F.CRM_MB_STATUS_STATE n) ≠ 1 ∨ (s.mb n).gone then s
    else if (s.mb n).run = 1 then s.complete n (reqOf (s.mb n).req) mABORT 0 []
    else if (s.mb n).run = 0 then s
    else s.onCrm fun c => c.put (F.CRM_MB_STATUS_ABORT_LATE n) true

/-- An ABORT that the host writes while a command of several parts runs, after `part` of its `parts` parts (R415): the number of parts
done before the abort point at which the command ends; an ABORT after the last such point sets ABORT_LATE and ends nothing. -/
def abortPart (s : State) (n : Fin 8) (part : Option Nat) (parts : Nat) : Option Nat × State :=
  match part with
  | none => (none, s)
  | some k =>
    if !s.hostOk || (s.mb n).gone || s.crm.get (F.CRM_MB_STATUS_STATE n) != 1 then (none, s)
    else
      let s := s.doorbellSeen
      if k < parts then (some k, s) else (none, s.onCrm fun c => c.put (F.CRM_MB_STATUS_ABORT_LATE n) true)

/-! ### Running a command -/

/-- Is the command with this code to execute now in mailbox `n`: its request has passed the checks, and no command rung before
it waits to execute (R414)? -/
def ready (s : State) (n code : Nat) : Bool :=
  s.serves n && (s.mb n).run == 1 && (reqOf (s.mb n).req).cmd == code &&
  (List.range 8).all fun m => (s.mb m).run != 1 || decide ((s.mb n).ord ≤ (s.mb m).ord)

/-- Does the firmware refuse every command but status, stop and reset for a byre whose microcode does not declare it (R444)? -/
def orphan (s : State) (b : Fin 6) : Bool :=
  let u := SMap.get (fun _ => []) s.crm.ucode b
  Byre.runs (s.fwSt b) && !(s.byre b).flag F.CHURN_BYRE_BENCH && !u.isEmpty && !declares u 2 s.crm.fwVersion

/-- What stops a command when it starts to execute, whatever its arguments: the byre's state by then (R427), the lifecycle
(R452), and R444. -/
def late (s : State) (q : Req) : Nat :=
  match cmdRow q.cmd with
  | none => mUNKNOWN
  | some r =>
    match s.byreCheck r q with
    | 0 =>
      if s.crm.lifecycle = Creamery.lcRETIRED ∧ q.cmd ≠ 0x0101 ∧ q.cmd ≠ 0x0E01 then mSTATE
      else if r.named && privileged q.cmd && q.cmd != 0x0305 && q.cmd != 0x0302 && (reqByre q).elim false s.orphan then mCOMPAT
      else mOK
    | st => st

/-- Execute the command with this code in mailbox `n`; `f` makes check 10 and is its effect, and `g` is what follows the
response of one that succeeds. -/
def commandThen (s : State) (n : Fin 8) (code : Nat) (f : Req → State → State × Ans) (g : State → State) : State :=
  if !s.ready n code then s
  else
    let q := reqOf (s.mb n).req
    match s.late q with
    | 0 =>
      let (s, a) := f q (s.auditOpen n q)
      match a with
      | .done st det p => let s := s.complete n q st det p; if st = mOK then g s else s
      | .wait k => s.onMb n fun m => { m with run := k }
    | st => s.complete n q st 0 []

/-- Execute a command that nothing follows. -/
def command (s : State) (n : Fin 8) (code : Nat) (f : Req → State → State × Ans) : State := s.commandThen n code f id

/-- A command that names a byre. -/
def byreCmd (s : State) (n : Fin 8) (code : Nat) (f : Fin 6 → Req → State → State × Ans) : State :=
  s.command n code fun q s =>
    match reqByre q with
    | some b => f b q s
    | none => (s, .done mARG 0 [])

/-- A word register of a byre read through the management read port by the firmware (R416). -/
def readReg (s : State) (b : Fin 6) (off : Nat) : Nat × State := let t := s.regRead b .mp off; (t.busRd.toNat, t)

/-- Several registers, as the words of a response. -/
def readRegs (s : State) (b : Fin 6) (offs : List Nat) : List Byte × State :=
  offs.foldl (fun (bs, s) o => let (v, s) := s.readReg b o; (bs ++ leBytes 4 v, s)) ([], s)

/-- A response of registers. -/
def answerRegs (s : State) (b : Fin 6) (offs : List Nat) : State × Ans :=
  let (bs, s) := s.readRegs b offs
  (s, .done mOK 0 bs)

/-- The words of a configuration command are written in order (R435). -/
def writeRegs (s : State) (b : Fin 6) (ws : List (Nat × Nat)) : State := ws.foldl (fun s (o, v) => s.regWrite b .mp o v) s

/-- A host buffer whose reference (R417) lies at payload byte `o`: at most `max` bytes, moved by a creamery tanker; `host` is
what the host's memory answers, none where the read fails. -/
def withBuf (s : State) (q : Req) (o max : Nat) (host : Option (List Byte)) (f : List Byte → State × Ans) : State × Ans :=
  let len := q.at_ (o + 8) 4
  if q.at_ o 8 % 8 ≠ 0 ∨ len % 8 ≠ 0 ∨ len = 0 ∨ max < len then (s, ansErr mARG)
  else
    match host with
    | none => (s, .done mHW 0xFF [])
    | some bs => f ((bs ++ List.replicate (len - bs.length) 0#8).take len)

/-- The waiting command of code `k` on byre `b` ends. -/
def endWait (s : State) (k : Nat) (b : Nat) (st det : Nat) (p : List Byte) : State :=
  match (List.range 8).find? fun n => (s.mb n).run == k && (reqOf (s.mb n).req).at_ 0 1 == b with
  | some n => s.complete n (reqOf (s.mb n).req) st det p
  | none => s

end State

/-! ### Commands -/

/-- MAILBOX_RING (R411). -/
def execMailboxRing (n : Fin 8) (dt : Nat) (s : State) : Host.Outcome State Fault Refusal :=
  .next ((s.onCrm fun c => c.tick dt).ring n)

/-- MAILBOX_ACK (R411). -/
def execMailboxAck (n : Fin 8) (s : State) : Host.Outcome State Fault Refusal := .next (s.ack n)

/-- MAILBOX_ABORT (R415). -/
def execMailboxAbort (n : Fin 8) (s : State) : Host.Outcome State Fault Refusal := .next (s.abort n)

/-- EVQ_RD_WRITE (R418). -/
def execEvqRdWrite (v : BitVec 8) (s : State) : Host.Outcome State Fault Refusal :=
  .next (if s.hostOk then s.hostSeen.onCrm fun c => c.set F.CRM_EVQ_RD_RD v.toNat else s)

/-! ### The export path (R420 to R424) -/

namespace State

/-- A transfer takes the descriptor at HEAD (`d` its 32 bytes, none for a failed read): data, status, then OWN; or the ring stops
with ERR (R422, R423).  Coalescing raises the ring's vector (R424). -/
def exportTo (s : State) (b : Fin 6) (r : Nat) (x : Xfer) (d : Option (List Byte)) : State :=
  let c := s.crm
  let h := c.get (F.CRM_EXP_HEAD_HEAD r)
  let n := 2 ^ c.get (F.CRM_EXP_CFG_SIZE_LOG2 r)
  let at_ := c.rdN (R.CRM_EXP_BASE_LO r) + c.rdN (R.CRM_EXP_BASE_HI r) * 2 ^ 32 + h * 32
  let ds := d.getD []
  let f := fun o k => leNat ((ds.drop o).take k)
  if d.isNone || !bit (f 12 4) 31 || decide (f 8 4 < 64) then
    s.onCrm fun c => ((c.put (F.CRM_EXP_CFG_EN r) false).put (F.CRM_EXP_CFG_ERR r) true).raise (16 + r)
  else
    let data := x.data.take (f 8 4)
    let trunc := decide (f 8 4 < x.data.length)
    let code := if x.code = 2 then 2 else if trunc then 1 else 0
    let st := leBytes 4 (2147483648 + code * 16777216 + data.length) ++ leBytes 1 b ++ leBytes 1 x.stream ++ leBytes 2 0 ++
      (data ++ List.replicate 8 0#8).take 8
    s.onCrm fun c =>
      let m := Mem.put (Mem.put (Mem.put c.host (f 0 8) data) (at_ + 16) st) (at_ + 12) (leBytes 4 0)
      let c := { c with host := m }.set (F.CRM_EXP_HEAD_HEAD r) ((h + 1) % n)
      let c := c.inc (R.CRM_EXP_CNT_DONE r)
      let c := if code = 1 then c.inc (R.CRM_EXP_CNT_TRUNC r) else if code = 2 then c.inc (R.CRM_EXP_CNT_SKIP r) else c
      let (k, t) := SMap.get (fun _ => (0, 0)) c.coal r
      let (k, t) := (k + 1, if k = 0 then c.clk else t)
      if c.get (F.CRM_EXP_COAL_COAL_N r) ≤ k then { c.raise (16 + r) with coal := SMap.set (fun _ => (0, 0)) c.coal r (0, 0) }
      else { c with coal := SMap.set (fun _ => (0, 0)) c.coal r (k, t) }

/-- The transfer at the front of a byre's staging goes out: discarded where no running ring binds it; held while no descriptor
is given, unless it was skipped, which takes none. -/
def exportFront (s : State) (b : Fin 6) (d : Option (List Byte)) : State :=
  match s.stagingOf b with
  | [] => s
  | x :: xs =>
    let pop := fun (s : State) => (s.onCrm fun c => { c with staging := SMap.set (fun _ => []) c.staging b xs }).stageFront b
    match s.ringOf b x.stream with
    | none => pop (s.onCrm fun c => c.inc R.CRM_EXP_CNT_UNBOUND)
    | some r =>
      if s.crm.get (F.CRM_EXP_HEAD_HEAD r) = s.crm.get (F.CRM_EXP_TAIL_TAIL r) then
        (if x.code = 2 then pop (s.onCrm fun c => c.inc (R.CRM_EXP_CNT_SKIP r)) else s.stageFront b)
      else
        let s' := s.exportTo b r x d
        if s'.crm.flag (F.CRM_EXP_CFG_ERR r) then s' else pop s'

end State

/-- EXPORT_END_MARK (R423), `dt` ns later: the front transfer of byre `b` meets descriptor bytes `desc`. -/
def execExportEndMark (b : Fin 6) (dt : Nat) (desc : Option (List Byte)) (s : State) : Host.Outcome State Fault Refusal :=
  let s := s.onCrm fun c => c.tick dt
  .next (if s.crm.up then s.exportFront b desc else s)

/-- EXP_TAIL_WRITE (R422). -/
def execExpTailWrite (r : Fin 32) (tail : BitVec 12) (s : State) : Host.Outcome State Fault Refusal :=
  .next (if s.hostOk then s.hostSeen.onCrm fun c => c.set (F.CRM_EXP_TAIL_TAIL r) tail.toNat else s)

/-- EXPORT_COAL_TIMEOUT (R424): COAL_US after the first completion not yet signalled. -/
def execExportCoalTimeout (r : Fin 32) (s : State) : Host.Outcome State Fault Refusal :=
  .next (s.onCrm fun c =>
    let us := c.get (F.CRM_EXP_COAL_COAL_US r)
    let (k, t) := SMap.get (fun _ => (0, 0)) c.coal r
    if k = 0 ∨ us = 0 then c
    else { c.raise (16 + r) with clk := max c.clk (t + us * 1000), coal := SMap.set (fun _ => (0, 0)) c.coal r (0, 0) })

end Sys2Proof.Machine
end

