-- ==== Sys2Proof/Machine/Verify.lean ====
section
/-!
DEFINITION. Loading a schedule package into the standby tables, and the firmware's verifier over them (R89, R158, R267,
R286, R322, R367, R429).
-/

namespace Sys2Proof.Machine

/-! ### Loading (R429) -/

/-- ELEM of a section type, and how many elements its table holds. -/
def secShape (typ : Nat) : Option (Nat × Nat) :=
  match typ with
  | 1 => some (32, 16384)
  | 2 => some (96, 4096)
  | 3 => some (16, 1)
  | 4 => some (32, 4096)
  | 5 => some (32, 8)
  | 6 => some (4, 64)
  | 7 => some (16, 1024)
  | 8 => some (256, 256)
  | 9 => some (16, 2048)
  | 10 => some (16, 256)
  | _ => none

/-- Does a section name a table, its element size and elements inside it?  Template 0 does not exist (R156). -/
def secOk (s : Section) : Bool :=
  match secShape s.typ with
  | none => false
  | some (e, n) => s.elem == e && decide (s.first + s.count ≤ n) && (s.typ != 6 || decide (1 ≤ s.first)) &&
      (s.typ != 3 || s.count == 1)

/-- The reserved bytes of an element that no table has a place for: zero, or check 0x04 fails. -/
def elemTail (typ : Nat) (e : List Byte) : Bool :=
  match typ with
  | 2 => zeros e 92 4
  | 3 => zeros e 12 4
  | 7 => zeros e 12 4
  | 9 => zeros e 8 8
  | 10 => zeros e 12 4
  | _ => true

namespace Byre

/-- Put words in a table at consecutive keys. -/
def putWords (m : SMap Word) (k : Nat) (ws : List Nat) : SMap Word :=
  (ws.zipIdx).foldl (fun m (w, i) => SMap.set (fun _ => 0#32) m (k + i) (BitVec.ofNat 32 w)) m

/-- Drop a bank of a table: its keys are those whose quotient by `span` is the bank. -/
def dropBank {α : Type} (span bank : Nat) (m : SMap α) : SMap α := SMap.keep (fun k => k / span != bank) m

/-- Every entry of every table of a bank written as 0, with its parity renewed. -/
def blankTables (y : Byre) (bank : Nat) : Byre :=
  let lo := 0xD00000 + bank * 0x80000
  let mine := fun (q : Nat × Nat) =>
    (q.1 == 0 && decide (lo ≤ q.2) && decide (q.2 < lo + 0x80000)) || (q.1 == spSkim && q.2 / 0x2000 == bank) ||
    (q.1 == spShare && q.2 / 256 == bank)
  let y := { y with
    mem := SMap.keep (fun a => !(decide (lo ≤ a) && decide (a < lo + 0x80000))) y.mem
    badPar := y.badPar.filter fun q => !mine q
    softPar := y.softPar.filter fun q => !mine q
    skim := dropBank 4096 bank y.skim
    ptab := dropBank 0x10000 bank y.ptab
    rota := { y.rota with ing := dropBank 4096 bank y.rota.ing }
    pubTab := dropBank 0x4000 bank y.pubTab
    subTab := dropBank 0x1000 bank y.subTab
    shrTab := dropBank 0x400 bank y.shrTab }
  (List.range 3).foldl (fun y j => y.wrN (R.SKIM_DEF bank j) 0) y

/-- Write one element of a section at index `i`. -/
def putElem (y : Byre) (bank typ i : Nat) (e : List Byte) : Byre :=
  let ws := elemWords e
  match typ with
  | 1 => { y with mem := Mem.write y.mem (laneAddr bank i 0) e }
  | 2 =>
    let at_ := fun o n => leNat ((e.drop o).take n)
    y.skimPut bank i ⟨at_ 0 40, at_ 40 40, at_ 80 4, at_ 84 4, at_ 88 4⟩
  | 3 => (List.range 3).foldl (fun y j => y.wrN (R.SKIM_DEF bank j) (ws.getD j 0)) y
  | 4 => { y with ptab := putWords y.ptab (bank * 0x10000 + i * 8) ws }
  | 5 => { y with ptab := putWords y.ptab (bank * 0x10000 + 0x8000 + i * 8) ws }
  | 6 => { y with ptab := putWords y.ptab (bank * 0x10000 + 0x8100 + i) ws }
  | 7 => { y with rota := { y.rota with ing := putWords y.rota.ing (bank * 4096 + i * 4) (ws.take 3) } }
  | 8 => { y with pubTab := putWords y.pubTab (bank * 0x4000 + i * 64) ws }
  | 9 => { y with subTab := putWords y.subTab (bank * 0x1000 + i * 2) (ws.take 2) }
  | 10 => { y with shrTab := putWords y.shrTab (bank * 0x400 + i * 4) (ws.take 3) }
  | _ => y

/-- Write the elements of a section. -/
def putSection (y : Byre) (bank : Nat) (s : Section) : Byre :=
  (List.range s.count).foldl (fun y i => y.putElem bank s.typ (s.first + i) (s.at_ i)) y

/-- The tables of a bank as a package makes them. -/
def loadTables (y : Byre) (bank : Nat) (secs : List Section) : Byre := secs.foldl (fun y s => y.putSection bank s) (y.blankTables bank)

/-! ### Plans (R65, R89) -/

/-- A plan word: its index, its lanes, and how often it runs in a tick. -/
structure PWord where
  w : Nat
  l : List Nat
  mult : Nat
  deriving DecidableEq, Repr

/-- Opcode and operand lane of a plan word. -/
def PWord.op (p : PWord) : Nat := p.l.getD 0 0 % 256
def PWord.x (p : PWord) (i : Nat) : Nat := p.l.getD i 0

/-- A plan as the verifier sees it: its ALT_AVOID (0 for the primary one), its words up to END, and whether it has one. -/
structure PPlan where
  start : Nat
  avoid : Nat
  words : List PWord
  ended : Bool
  deriving DecidableEq, Repr

/-- The words of a plan from word `w`; `st` holds LAST and COUNT of the loops around it, innermost first. -/
def planWalk (y : Byre) (bank : Nat) : Nat → Nat → List (Nat × Nat) → List PWord × Bool
  | 0, _, _ => ([], false)
  | n + 1, w, st =>
    if 16384 ≤ w then ([], false)
    else
      let st := st.dropWhile fun q => decide (q.1 < w)
      let p : PWord := ⟨w, y.lanes bank w, st.foldl (fun m q => m * q.2) 1⟩
      if p.op = 0x0E then ([p], true)
      else
        let st := if p.op = 0x08 then (p.x 2 % 16384, p.x 1 % 65536) :: st else st
        let (ps, e) := planWalk y bank n (w + 1) st
        (p :: ps, e)

/-- Every plan of a bank: the primary binding's and those of the alternate bindings that are present. -/
def plans (y : Byre) (bank : Nat) : List PPlan :=
  let one := fun (start avoid : Nat) => let (ws, e) := y.planWalk bank 16384 start []; (⟨start, avoid, ws, e⟩ : PPlan)
  one (y.bindStart bank 0) 0 ::
    ((List.range 7).filter fun n => y.lane bank 2 n != 0).map fun n => one (y.bindStart bank (n + 1)) (y.lane bank 2 n)

/-- Churn cycles of a word from its fetch to the next, waits apart (R67). -/
def wordCost (p : PWord) : Nat :=
  match p.op with
  | 0x00 => 1
  | 0x01 => 2
  | 0x02 => 16
  | 0x04 => 8
  | 0x05 => 6
  | 0x06 => 24
  | 0x07 => 8
  | 0x08 => 2
  | 0x0B => 4 + 2 * (p.x 2 % 2048)
  | 0x0C => 8
  | 0x0E => 2
  | _ => 4

/-- Index of the COMMIT word of a plan. -/
def PPlan.commit (p : PPlan) : Nat := (p.words.find? fun q => q.op == 9).elim 16383 (·.w)

/-- The first word of any plan for which `f` holds, given its plan. -/
def firstWord (ps : List PPlan) (f : PPlan → PWord → Bool) : Option Nat :=
  ps.findSome? fun p => (p.words.find? (f p)).map (·.w)

/-! ### Checks on words -/

/-- A failure: status, detail, index. -/
abbrev VFail := Option (Nat × Nat × Nat)

/-- A failure of a check with status BAD_ARGUMENT. -/
def argFail (det : Nat) (i : Option Nat) : VFail := i.map fun i => (mARG, det, i)

/-- Reserved bits and operand values of a plan word (check 0x04); LOOP operands belong to check 0x07, and so do the opcodes
that R67 does not define to check 0x05. -/
def planWordOk (p : PWord) : Bool :=
  bits (p.x 0) 15 9 == 0 &&
  (if p.op = 0x08 then onlyLanes p.l [0xFFFF, 0x3FFF] else if 0x0F ≤ p.op then true else wordOk p.l)

/-- The reserved bits of header lane `i` of 32 (R65). -/
def headerOk (y : Byre) (bank i : Nat) : Bool :=
  let masks := [0x3FFF, 0xFFFFFFFF, 0xFFFF, 0xFFFFFFFF, 0x3FFF, 0xFF, 0, 0] ++ List.replicate 7 0x3FFF ++ [0] ++
    List.replicate 7 0xFFFFFFFF ++ [0] ++ List.replicate 8 0
  onlyBits (y.lane bank (i / 8) (i % 8)) (masks.getD i 0)

/-- Check 0x06 of one plan: the index of what is wrong. -/
def shapeBad (p : PPlan) : Option Nat :=
  let at_ := fun o => (p.words.filter fun q => q.op == o).map (·.w)
  let end_ := (p.words.getLast?).elim 16383 (·.w)
  if p.start < 4 then some p.start
  else if !p.ended then some 16383
  else
    match at_ 9, at_ 7 with
    | [c], [s] => if s < c then some s else none
    | [_], ss => some (ss.getD 1 end_)
    | cs, _ => some (cs.getD 1 end_)

/-- Check 0x07 of one plan; `st` holds LAST of the loops around, innermost first. -/
def loopBad (end_ : Nat) : List PWord → List Nat → Option Nat
  | [], _ => none
  | p :: ps, st =>
    let st := st.dropWhile fun l => decide (l < p.w)
    if !st.isEmpty && [2, 7, 9, 14].contains p.op then some p.w
    else if p.op = 8 then
      let last := p.x 2 % 16384
      if p.x 1 % 65536 = 0 ∨ last ≤ p.w ∨ end_ ≤ last ∨ 2 ≤ st.length ∨ st.any (fun l => decide (l < last)) then some p.w
      else loopBad end_ ps (last :: st)
    else loopBad end_ ps st

/-- Check 0x08 of one plan. -/
def sealBad (en : Nat → Bool) (p : PPlan) : Option Nat :=
  let seals := p.words.filter fun q => q.op == 2
  match seals.find? fun q => decide (p.commit < q.w) || seals.any fun r => decide (r.w < q.w) && r.x 1 % 8 == q.x 1 % 8 with
  | some q => some q.w
  | none => if (List.range 8).all fun g => !en g || seals.any fun q => q.x 1 % 8 == g then none else some p.commit

/-- Check 0x09 of one plan. -/
def waitBad (q : Nat) : List PWord → Nat → Option Nat
  | [], _ => none
  | p :: ps, prev =>
    if p.op = 1 then (if p.x 1 < prev ∨ q ≤ p.x 1 then some p.w else waitBad q ps (p.x 1)) else waitBad q ps prev

/-- Check 0x0C of one plan: `n` counts the budgets so far. -/
def budgetBad (room : Nat) : List PWord → Nat → Option Nat
  | [], _ => none
  | p :: ps, n =>
    if p.op = 3 then (if room < n + p.x 2 * p.mult then some p.w else budgetBad room ps (n + p.x 2 * p.mult))
    else budgetBad room ps n

/-- Number of bits set. -/
def popcount (v : Nat) : Nat := ((List.range 32).filter (bit v)).length

/-- Issue slots of a plan's engines before the declared commit. -/
def slotsOf (decl : Nat) (p : PPlan) : Nat := popcount (p.words.foldl (fun m q => m ||| wordEngines q.l) 0) * decl

/-- Banks of the seal areas of enabled groups with EXP_EN, and who receives them. -/
def sealOwners (y : Byre) (bank : Nat) (en : Nat → Bool) : List (Nat × Nat) :=
  ((List.range 8).filter fun g => en g && y.gExpEn bank g).flatMap fun g => (y.areaBanks bank g).map fun k => (k, y.gOwner bank g)

/-- Ownership in check 0x0E: bank, owner at the start, owner so far, word of the last move. -/
def moveBank (start : Nat → Nat) (l : List (Nat × Nat × Nat × Nat)) (k o w : Nat) : List (Nat × Nat × Nat × Nat) :=
  if l.any fun q => q.1 == k then l.map fun q => if q.1 = k then (k, q.2.1, o, w) else q else l ++ [(k, start k, o, w)]

/-- Check 0x0E of one plan. -/
def ownerBad (y : Byre) (sealO : List (Nat × Nat)) (p : PPlan) : Option Nat :=
  match p.words.find? fun q => decide (p.commit < q.w) && [4, 6, 10].contains q.op && !bit (q.x 0) 8 with
  | some q => some q.w
  | none =>
    let start := fun k => if sealO.any fun q => q.1 == k then 0 else y.bankOwner k
    let l := p.words.foldl (fun l q =>
      if q.op = 10 then moveBank start l (bits (q.x 1) 5 0) (bits (q.x 1) 15 8) q.w
      else if q.op = 9 then sealO.foldl (fun l r => moveBank start l r.1 r.2 q.w) l else l) []
    (l.find? fun q => q.2.1 != q.2.2.1).map (·.2.2.2)

/-! ### Checks on tables -/

/-- Reserved bits and encodings of a stream entry; what checks 0x13 and 0x14 judge is left to them. -/
def streamRsv (w : Nat → Nat) : Bool :=
  onlyBits (w 0) 0x00FFDFFF && onlyBits (w 2) 0x1FFFF && onlyBits (w 3) 0x1FFFF && onlyBits (w 5) 0xFFFF && w 6 == 0 && w 7 == 0 &&
  bits (w 0) 15 14 != 3 && (!bit (w 0) 0 || (decide (1 ≤ bits (w 0) 12 8) && decide (bits (w 0) 12 8 ≤ 16)))

/-- Reserved bits of a group entry; D and STRIDE are judged by check 0x12. -/
def groupRsv (w : Nat → Nat) : Bool :=
  onlyBits (w 0) 0x3F3FFFFF && bits (w 1) 31 24 == 0 && bits (w 2) 31 24 == 0 && bits (w 3) 31 24 == 0 &&
  (List.range 4).all fun i => w (4 + i) == 0

/-- Reserved bits and encodings of a share entry. -/
def shareRsv (w : Nat → Nat) : Bool :=
  bits (w 0) 27 17 == 0 && bits (w 1) 31 27 == 0 && bits (w 1) 23 17 == 0 && bits (w 2) 31 24 == 0 &&
  (!bit (w 0) 31 || (w 2 % 8 == 0 && decide (64 ≤ w 2)))

/-- Check 0x04 over the tables, in the order of their types: the index of the first bad element. -/
def tablesRsv (y : Byre) (bank : Nat) : Option Nat :=
  let firstIn := fun (n : Nat) (ok : Nat → Bool) => (List.range n).find? fun i => !ok i
  [firstIn 4096 fun i => skimOk (y.skimAt bank i),
   firstIn 1 fun _ => (List.range 3).all fun j => actWordOk j (y.rdN (R.SKIM_DEF bank j)),
   firstIn 4096 fun i => streamRsv (y.pStream bank i),
   firstIn 8 fun g => groupRsv (y.pGroup bank g),
   firstIn 64 fun t => t == 0 || templateOk (y.pTemplate bank t),
   firstIn 1024 fun i => ingOk (y.ingWord bank i 0) (y.ingWord bank i 2) (y.ingWord bank i 3),
   firstIn 256 fun n => pubOk (bit (y.pubWord bank n 0) 31) (y.pubWord bank n),
   firstIn 2048 fun n => bits (y.subWord bank n 0) 28 0 == 0,
   firstIn 256 fun n => shareRsv (y.shrWord bank n)].findSome? id

/-- The valid streams of a bank. -/
def streams (y : Byre) (bank : Nat) : List Nat := (List.range 4096).filter fun i => bit (y.pStream bank i 0) 0

/-- Check 0x11: `n` counts memberships so far. -/
def loadBad (y : Byre) (bank rate : Nat) : List Nat → Nat → Option Nat
  | [], _ => none
  | i :: is, n =>
    let n := n + 1 + b2n (bit (y.pStream bank i 0) 4)
    if 19660800 < n * rate then some i else loadBad y bank rate is n

/-- The records of a group: stream, first byte and end of its record. -/
def groupSpans (y : Byre) (bank g : Nat) : List (Nat × Nat × Nat) :=
  (y.groupMembers bank g).map fun m => (m.1, m.2, m.2 + 16 + 8 * y.nVal bank m.1)

/-- Records that lie outside `64 ..< 64 + len` or overlap the one before them. -/
def spanBad (len : Nat) : List (Nat × Nat × Nat) → Nat → Option Nat
  | [], _ => none
  | (i, lo, hi) :: r, e => if lo < max 64 e ∨ 64 + len < hi then some i else spanBad len r hi

/-- Check 0x14 of a stream. -/
def memberBad (y : Byre) (bank : Nat) (en : Nat → Bool) (i : Nat) : Bool :=
  let w := y.pStream bank i 0
  (y.members bank i).any (fun m => !en m.1) || (bit w 4 && bits w 3 1 == bits w 7 5) ||
  (bits w 15 14 != 0 && bits w 23 16 == 0)

/-- Check 0x15 of a stream. -/
def phasorBad (y : Byre) (bank i : Nat) : Bool :=
  let n := bits (y.pStream bank i 5) 15 0 + popcount (bits (y.pStream bank i 1) 31 16)
  (y.members bank i).any fun m => decide (y.gPhLen bank m.1 / 8 < n)

/-- The banks of a group's ring. -/
def ringBanks (y : Byre) (bank g : Nat) : List Nat :=
  let n := ((y.gDepth bank g + 1) * y.gStride bank g + 0x3FFFF) / 0x40000
  (List.range n).map (y.gRing bank g / 0x40000 + ·)

/-- Check 0x16 over the groups: `used` holds the banks of the groups before. -/
def areaBad (y : Byre) (bank : Nat) : List Nat → List Nat → Option Nat
  | [], _ => none
  | g :: gs, used =>
    let ks := y.ringBanks bank g ++ y.areaBanks bank g
    if ks.any (fun k => decide (48 ≤ k) || used.contains k) || !ks.Nodup then some g else areaBad y bank gs (ks ++ used)

/-- Check 0x16 over a HANDOVER word. -/
def handBad (y : Byre) (bank : Nat) (gs : List Nat) (q : PWord) : Bool :=
  let k := bits (q.x 1) 5 0
  let o := bits (q.x 1) 15 8
  q.op == 10 && gs.any fun g => (y.ringBanks bank g).contains k || ((y.areaBanks bank g).contains k && o != 0 && o != y.gOwner bank g)

/-- The combinations of ALG, TLEN and KLEN of R266. -/
def keyCombo (h : Nat) : Bool :=
  let t := bits h 28 27
  if bits h 30 29 = 1 then t == 0 || t == 2 else bits h 30 29 == 2 && t != 0 && !bit h 26

/-- Check 0x17 of a slot. -/
def keySlotOk (y : Byre) (bank slot : Nat) : Bool :=
  let h := y.keyHdr bank slot
  !bit h 31 || (keyCombo h && (hdrKey h 0 || hdrKey h 1) && hdrKey h (bits h 25 25) &&
    !(hdrKey h 0 && hdrKey h 1 && y.keyWord bank slot 1 == y.keyWord bank slot 2))

/-- The valid shares of a bank. -/
def validShares (y : Byre) (bank : Nat) : List Nat := (List.range 256).filter fun n => bit (y.shrWord bank n 0) 31

/-- Check 0x1A of share `n`. -/
def shareBad (y : Byre) (bank : Nat) (en : Nat → Bool) (n : Nat) : Bool :=
  let g := bits (y.shrWord bank n 1) 26 24
  let lo := bits (y.shrWord bank n 1) 16 0 * 8
  let hi := lo + 16 + bits (y.shrWord bank n 2) 23 0
  let meets := fun (a b : Nat) => decide (a < hi) && decide (lo < b)
  !en g || decide (lo < 64) || decide (64 + y.gRecLen bank g < hi) || (y.groupSpans bank g).any (fun r => meets r.2.1 r.2.2) ||
  (y.validShares bank).any fun m => m != n &&
    ((bits (y.shrWord bank m 1) 26 24 == g &&
        meets (bits (y.shrWord bank m 1) 16 0 * 8) (bits (y.shrWord bank m 1) 16 0 * 8 + 16 + bits (y.shrWord bank m 2) 23 0)) ||
      bits (y.shrWord bank m 0) 30 28 == bits (y.shrWord bank n 0) 30 28 && bits (y.shrWord bank m 0) 16 0 == bits (y.shrWord bank n 0) 16 0)

/-! ### The verifier -/

/-- The first key at which two stores differ. -/
def diffAt {α : Type} [DecidableEq α] : SMap α → SMap α → Option Nat
  | [], [] => none
  | [], q :: _ => some q.1
  | q :: _, [] => some q.1
  | p :: ps, q :: qs => if p = q then diffAt ps qs else some (min p.1 q.1)

/-- Check 0x01: the tables of a bank against the sections of the package last loaded there; the index of the first word or
element that differs. -/
def tablesDiff (y : Byre) (bank : Nat) (secs : List Section) : Option Nat :=
  let z := y.loadTables bank secs
  [(diffAt z.mem y.mem).map fun a => (a - 0xD00000 - bank * 0x80000) / 32,
   (diffAt z.skim y.skim).map (· % 4096),
   ((List.range 3).find? fun j => z.rd (R.SKIM_DEF bank j) != y.rd (R.SKIM_DEF bank j)).map fun _ => 0,
   (diffAt z.ptab y.ptab).map fun k => if k % 0x10000 < 0x8000 then k % 0x10000 / 8
      else if k % 0x10000 < 0x8100 then (k % 0x10000 - 0x8000) / 8 else k % 0x10000 - 0x8100,
   (diffAt z.rota.ing y.rota.ing).map (· % 4096 / 4),
   (diffAt z.pubTab y.pubTab).map (· % 0x4000 / 64),
   (diffAt z.subTab y.subTab).map (· % 0x1000 / 2),
   (diffAt z.shrTab y.shrTab).map (· % 0x400 / 4)].findSome? id

/-- Checks 0x03 to 0x10 over the plans `ps` of a bank. -/
def verifyPlans (y : Byre) (bank : Nat) (ps : List PPlan) (en : Nat → Bool) : VFail :=
  let rate := y.lane bank 0 0 % 16384
  let q := 1000000000 / max 1 rate
  let rsv := reserveOf rate (y.lane bank 0 1)
  let decl := y.lane bank 0 3
  let each := fun (det : Nat) (f : PPlan → Option Nat) => argFail det (ps.findSome? f)
  [argFail 3 (if rate < 1000 ∨ 16000 < rate then some 0 else none),
   ((((List.range 32).find? fun i => !y.headerOk bank i).map (· / 8)).or
      ((firstWord ps fun _ w => !planWordOk w).or (y.tablesRsv bank))).map fun i => (mRSV, 4, i),
   argFail 5 (firstWord ps fun _ w => !bit (y.rdN (R.CHURN_DISP w.op)) 31),
   each 6 shapeBad,
   each 7 fun p => loopBad ((p.words.getLast?).elim 16383 (·.w)) p.words [],
   each 8 (sealBad en),
   each 9 fun p => waitBad q p.words 0,
   argFail 0xA (if rsv < (q + 15) / 16 ∨ q / 2 < rsv then some 0
      else firstWord ps fun _ w => w.op == 3 && decide (rsv < w.x 2)),
   argFail 0xB (if q < decl + rsv then some 0
      else ps.findSome? fun p =>
        let c := ((p.words.filter fun w => decide (w.w < p.commit)).map fun w => wordCost w * w.mult).sum
        if decl < 2 * c + 48 then some p.commit else none),
   each 0xC fun p => budgetBad (slotsOf decl p) p.words 0,
   argFail 0xD (firstWord ps fun p w => w.op == 3 && (bits (w.x 3) 9 8 == 2 || bit p.avoid (bits (w.x 3) 4 0))),
   each 0xE (y.ownerBad (y.sealOwners bank en)),
   argFail 0xF (firstWord ps fun _ w => w.op == 5 && (bits (w.x 1) 19 16 == 0 || decide (q ≤ w.x 2))),
   argFail 0x10 ((List.range 1024).find? fun i =>
    let w0 := y.ingWord bank i 0
    bit w0 31 && bit w0 23 && y.ingWord bank i 2 % 256 == y.lane bank 0 5 % 256)].findSome? id

/-- Checks 0x11 to 0x1A. -/
def verifyTables (y : Byre) (bank : Nat) (ps : List PPlan) (en : Nat → Bool) : VFail :=
  let rate := y.lane bank 0 0 % 16384
  let ss := y.streams bank
  let gs := (List.range 8).filter en
  [argFail 0x11 (y.loadBad bank rate ss 0),
   argFail 0x12 (gs.find? fun g =>
      let d := y.gDepth bank g
      d == 0 || decide (16 < d) || decide (y.gStride bank g < 64 + y.gRecLen bank g + y.gPhLen bank g) ||
        y.gStride bank g % 64 != 0 || y.gPhLen bank g % 8 != 0),
   argFail 0x13 (gs.findSome? fun g => spanBad (y.gRecLen bank g) (y.groupSpans bank g) 64),
   argFail 0x14 (ss.find? (y.memberBad bank en)),
   argFail 0x15 (ss.find? (y.phasorBad bank)),
   argFail 0x16 ((y.areaBad bank gs []).or (firstWord ps fun _ w => y.handBad bank gs w)),
   argFail 0x17 ((List.range 255).find? fun n => !y.keySlotOk bank n),
   argFail 0x18 (firstWord ps fun _ w => w.op == 10 && (!ownerCode (bits (w.x 1) 15 8) || y.inPool (bits (w.x 1) 5 0))),
   argFail 0x19 (firstWord ps fun p w => w.op == 5 && (decide (w.w < p.commit) ||
      !(decide (bits (w.x 1) 5 0 < 24) || (decide (32 ≤ bits (w.x 1) 5 0) && decide (bits (w.x 1) 5 0 < 48))))),
   argFail 0x1A ((y.validShares bank).find? (y.shareBad bank en))].findSome? id

end Byre

namespace State

/-- The version of the microcode loaded in a byre, where one is. -/
def ucodeVer (s : State) (b : Fin 6) : Option Nat :=
  let u := SMap.get (fun _ => []) s.crm.ucode b
  if u.isEmpty then none else some (imgVersion u)

/-- The verifier over the standby banks of byre `b`: status, DETAIL and index of the first failure. -/
def verify (s : State) (b : Fin 6) : Byre.VFail :=
  let y := s.byre b
  let bank := y.stby
  let im := SMap.get (fun _ => []) s.crm.loaded (b * 2 + bank)
  let secs := (imgSections im).getD []
  let en := y.gEn bank
  if im.isEmpty || !(s.crm.packageFp.elim false (signedBy im)) then some (mSIG, 1, 0)
  else
    match y.tablesDiff bank secs with
    | some i => some (mSIG, 1, i)
    | none =>
      if !y.flag F.CHURN_BYRE_BENCH && !(declares im 1 stepping && declares im 2 s.crm.fwVersion &&
          (s.ucodeVer b).elim false (declares im 3)) then some (mCOMPAT, 2, 0)
      else
        let ps := y.plans bank
        let tail := secs.findSome? fun x => ((List.range x.count).find? fun i => !elemTail x.typ (x.at_ i)).map (x.first + ·)
        match y.verifyPlans bank ps en with
        | some (st, det, i) =>
          if 4 < det then tail.elim (some (st, det, i)) fun i => some (mRSV, 4, i) else some (st, det, i)
        | none =>
          match tail with
          | some i => some (mRSV, 4, i)
          | none => y.verifyTables bank ps en

/-- Run the verifier: VERIFIED of the standby bank, and the answer of sched_load and sched_verify. -/
def runVerify (s : State) (b : Fin 6) : State × Ans :=
  match s.verify b with
  | none => (s.onByre b fun y => y.setVerified y.stby true, ansOk)
  | some (st, det, i) => (s.onByre b fun y => y.setVerified y.stby false, .done st det (leBytes 4 i))

/-- Load a package into the standby tables of a byre and verify it; `slot` is the store slot + 1 it comes from.  Its parts are its sections:
`cut` finds whether an ABORT ends it between them, which leaves the standby bank with the sections before it, not VERIFIED (R415,
R429). -/
def loadPackage (s : State) (b : Fin 6) (im : List Byte) (slot : Nat) (cut : Nat → State → Option Nat × State) : State × Ans :=
  match imgForm 3 im, imgSections im with
  | 0, some secs =>
    match secs.findIdx? fun x => !secOk x with
    | some i => (s, .done mARG 0 (leBytes 4 ((secs.getD i ⟨0, 0, 0, 0, []⟩).first)))
    | none =>
      let bank := (s.byre b).stby
      let put := fun (s : State) (secs : List Section) (im : List Byte) (slot : Nat) =>
        let s := s.onByre b fun y => (y.loadTables bank secs).tableWritten bank
        s.onCrm fun c =>
          { c with loaded := SMap.set (fun _ => []) c.loaded (b * 2 + bank) im
                   placed := SMap.set (fun _ => 0) c.placed (b * 2 + bank) slot }
      match cut secs.length s with
      | (some 0, s) => (s, ansErr mABORT)
      | (some k, s) => (put s (secs.take k) [] 0, ansErr mABORT)
      | (none, s) => (put s secs im slot).runVerify b
  | 0, none => (s, ansErr mARG)
  | st, _ => (s, ansErr st)

end State

end Sys2Proof.Machine
end

