-- ==== Sys2Proof/Machine/CmdSys.lean ====
section
/-!
DEFINITION. The mailbox commands of the system and session groups: 0x01 and 0x02 (R428, R436, R453 to R458).
-/

namespace Sys2Proof.Machine

/-- A word of a response. -/
abbrev le4 (v : Nat) : List Byte := leBytes 4 v

/-- The registers that lie at byre-view offsets `lo` to `hi`, in ascending order. -/
def regsIn (lo hi : Nat) : List Nat :=
  ((List.range ((hi - lo) / 4 + 1)).map fun i => lo + 4 * i).filter fun o => (byreReg o).isSome

namespace State

/-! ### System -/

/-- sys_info. -/
def sysInfo (s : State) : List Byte :=
  let c := s.crm
  let fw := c.mode != 2
  let im := c.fwImage c.slot
  let other := c.fwImage (1 - c.slot)
  leBytes 2 0x0192 ++ leBytes 1 stepping ++ leBytes 1 c.lifecycle ++ le4 (if fw then imgVersion im else 0) ++
    le4 (if fw then imgSvn im else 0) ++ le4 (if fw && (c.fwCheck other).isNone then imgVersion other else 0) ++ c.serial ++
    allB.flatMap (fun b => le4 ((s.ucodeVer b).getD 0)) ++ leBytes 2 (c.devId.getD 0xFFFF) ++ leBytes 2 0

/-- The words of creamery and AON registers that power_status and sys_status return. -/
def aonWord (s : State) (a : Nat) : Nat :=
  match allB.find? fun (b : Fin 6) => a == R.AON_VSTAT b.val with
  | some b => insBits (s.crm.rdN a) 26 16 (Creamery.vcoreMin b)
  | none => s.crm.rdN a

/-- sys_status. -/
def sysStatus (s : State) : List Byte :=
  allB.flatMap (fun b =>
    leBytes 1 (s.fwSt b) ++
      (if s.on b domFAB then
        let y := s.byre b
        let w := y.regShow (s.cls b)
        leBytes 1 (y.get F.TIME_STATUS_STATE) ++ leBytes 2 (y.get F.CHURN_EPOCH_LIVE) ++ le4 (w R.CHURN_STATUS) ++
          le4 (w R.TIME_ERR_BOUND) ++ le4 (w R.CHURN_BYRE)
      else List.replicate 15 0#8)) ++
    le4 (s.aonWord R.AON_RST_CAUSE) ++ le4 (s.aonWord R.AON_CLK_STAT) ++ le4 (s.aonWord R.AON_PFAIL_STAT) ++
    le4 (s.crm.rdN R.CRM_BUS_ERR)

/-- The bits of a register that are W1C. -/
def w1cMask (off : Nat) : Nat :=
  (byreReg off).elim 0 fun r => r.flds.foldl (fun a f => if f.acc = .w1c then a ||| (2 ^ (f.hi + 1 - f.lo) - 1) * 2 ^ f.lo else a) 0

/-- alarm_ack. -/
def alarmAck (b : Fin 6) (q : Req) (s : State) : State × Ans :=
  let blk := q.at_ 1 1
  let o := q.at_ 4 4
  let mask := q.at_ 8 4
  let off := blockBase blk + o
  if 14 < blk ∨ 0x10000 ≤ o ∨ o % 4 ≠ 0 ∨ (byreReg off).isNone ∨ mask &&& w1cMask off ≠ mask then (s, ansErr mARG)
  else (if mask = 0 then s else s.regWrite b .mp off mask, ansOk)

/-- The counters of a block (R26, R60): the registers at its offsets 0x80 to 0xFC, and for the rota those of its strainers. -/
def blockCnt (blk : Nat) : List Nat :=
  regsIn (blockBase blk + 0x80) (blockBase blk + 0xFC) ++
    (if blk = 1 then regsIn (blockBase blk + 0x4080) (blockBase blk + 0x40FC) else [])

/-- The counters of a unit of a block: port, engine, tanker channel or link. -/
def unitCnt (blk u : Nat) : List Nat :=
  match blk with
  | 2 => let p := R.SW_PORT_CTRL u; regsIn (p + 0x40) (p + 0x8C) ++ regsIn (p + 0xC0) (p + 0xDC)
  | 1 => regsIn (R.ROTA_ENG_CTRL u + 0x80) (R.ROTA_ENG_CTRL u + 0x8C)
  | 8 => regsIn (R.TNK_SH u 0 + 0x80) (R.TNK_SH u 0 + 0x98)
  | 13 => regsIn (R.TUG_LINK_STATUS u + 0x80) (R.TUG_LINK_STATUS u + 0xA8)
  | _ => []

/-- How many such units a block has. -/
def unitMax (blk : Nat) : Nat := match blk with | 2 => 24 | 1 => 32 | 8 => 16 | 13 => 2 | _ => 1

/-- Every counter of a byre. -/
def allCnt : List Nat :=
  (List.range 15).flatMap fun blk =>
    blockCnt blk ++ (if unitMax blk = 1 then [] else (List.range (unitMax blk)).flatMap (unitCnt blk))

/-- counter_baseline: firmware records the counters; the hardware's are unchanged (R60). -/
def baseline (b : Fin 6) (s : State) : State × Ans :=
  let y := s.byre b
  let show_ := y.regShow (s.cls b)
  (s.onCrm fun c =>
    { c with base := allCnt.foldl (fun m o => SMap.set (fun _ => 0#32) m (b * 0x1000000 + o) (BitVec.ofNat 32 (show_ o))) c.base },
   .done mOK 0 (le4 allCnt.length))

/-! ### Sessions (R456 to R458) -/

/-- session_nonce of mailbox `n`. -/
def newNonce (n : Fin 8) (s : State) : State × Ans :=
  let bs := (List.range 16).map fun i => Config.noise s.crm.free i
  (s.onCrm fun c =>
    { c with nonce := SMap.set (fun _ => none) c.nonce n (some (bs, c.clk)), free := c.free + 1 }, .done mOK 0 bs)

/-- The valid nonce of a mailbox. -/
def nonceOf (s : State) (n : Fin 8) : Option (List Byte) :=
  (SMap.get (fun _ => none) s.crm.nonce n).bind fun p => if s.crm.clk < p.2 + 60000000000 then some p.1 else none

/-- The nonce of a mailbox is consumed, whether the command passes or fails. -/
def useNonce (s : State) (n : Fin 8) : State := s.onCrm fun c => { c with nonce := SMap.set (fun _ => none) c.nonce n none }

/-- The 25 bytes that a signature or an HMAC covers (R456). -/
def sessMsg (s : State) (nonce : List Byte) (role : Nat) : List Byte := nonce ++ leBytes 1 role ++ s.crm.serial

/-- An open fails: counted, and after five within 60 s every open is barred for the next 60 s (R457). -/
def openFails (s : State) (st : Nat) : State × Ans :=
  (s.onCrm fun c =>
    let l := (c.fails ++ [c.clk]).filter fun t => decide (c.clk < t + 60000000000)
    if 5 ≤ l.length then { c with fails := [], barred := c.clk + 60000000000 } else { c with fails := l }, ansErr st)

/-- An open succeeds. -/
def openSess (s : State) (role : Nat) (fp : List Byte) : State × Ans :=
  let used := s.crm.sess.map (·.id)
  let id := Creamery.freshId used (Config.sessionId s.crm.free % 2 ^ 32) 17
  (s.onCrm fun c =>
    { c with sess := (c.sess.filter fun x => decide (c.clk < x.last + 900000000000)) ++ [⟨id, role, c.clk, fp.take 16⟩]
             free := c.free + 1 },
   .done mOK 0 (le4 id ++ leBytes 1 role ++ leBytes 3 0))

/-- May a session of this role be opened in the lifecycle (R452)? -/
def roleOpens (s : State) (role : Nat) : Bool :=
  let l := s.crm.lifecycle
  if role = 3 then l == Creamery.lcMAKER || l == Creamery.lcUNCLAIMED || l == Creamery.lcFIELD else l == Creamery.lcFIELD

/-- How many sessions are open. -/
def openCount (s : State) : Nat := (s.crm.sess.filter fun x => decide (s.crm.clk < x.last + 900000000000)).length

/-- The conditions of every open (R457, R458) around its proof `good`, of a session under key `fp`. -/
def tryOpen (s : State) (n : Fin 8) (role : Nat) (good : List Byte → Bool) (fp : List Byte) : State × Ans :=
  let nonce := s.nonceOf n
  let s := s.useNonce n
  if s.crm.clk < s.crm.barred then (s, ansErr mBUSY)
  else if role = 0 ∨ 3 < role then (s, ansErr mARG)
  else if !s.roleOpens role then (s, ansErr mSTATE)
  else
    match nonce with
    | none => s.openFails mSTATE
    | some x =>
      if !good (s.sessMsg x role) then s.openFails mSIG
      else if 16 ≤ s.openCount then (s, ansErr mBUSY)
      else s.openSess role fp

/-- session_open. -/
def sessionOpen (n : Fin 8) (q : Req) (s : State) : State × Ans :=
  let role := q.at_ 0 1
  let key := q.bytes 4 64
  let fp := sha256 key
  let holder := if role = 3 then fp == s.crm.otpBytes 0x30 32 else s.crm.installer == some key
  s.tryOpen n role (fun m => holder && ecdsaOk key m (q.bytes 68 64)) fp

/-- session_open_hmac. -/
def sessionOpenHmac (n : Fin 8) (q : Req) (s : State) : State × Ans :=
  if q.at_ 0 1 ≠ 1 then (s.useNonce n, ansErr mARG)
  else
    match s.crm.secret with
    | none => (s.useNonce n, ansErr mSTATE)
    | some k => s.tryOpen n 1 (fun m => hmac256 k m == q.bytes 4 32) (sha256 k)

/-- claim (R453); `low` is the strap CRM_CLAIM_N. -/
def claim (n : Fin 8) (low : Bool) (q : Req) (s : State) : State × Ans :=
  let nonce := s.nonceOf n
  let s := s.useNonce n
  let key := q.bytes 0 64
  let root := s.crm.otpBytes 0x50 32
  if s.crm.lifecycle ≠ Creamery.lcUNCLAIMED ∨ !low ∨ s.crm.flag F.AON_PFAIL_STAT_PFAIL then (s, ansErr mSTATE)
  else if root.any (· != 0#8) && root != sha256 key then (s, ansErr mSTATE)
  else
    match nonce with
    | none => (s, ansErr mSTATE)
    | some x =>
      if !ecdsaOk key (s.sessMsg x 2) (q.bytes 64 64) then (s, ansErr mSIG)
      else
        (s.onSess fun c =>
          let c := (c.otpBlowBytes 0x50 (sha256 key)).otpBlow 0 7#32
          { c with chain := [key], audit := { c.audit with wrap := false } }.closeSess fun _ => true, ansOk)

/-- installer_key_rotate (R454). -/
def keyRotate (q : Req) (s : State) : State × Ans :=
  match s.crm.installer with
  | none => (s, ansErr mSTATE)
  | some cur =>
    let new := q.bytes 0 64
    if 256 ≤ s.crm.chain.length then (s, ansErr mSTATE)
    else if !ecKeyOk new || !ecdsaOk cur (new ++ s.crm.serial) (q.bytes 64 64) then (s, ansErr mSIG)
    else
      (s.onSess fun c => { c with chain := c.chain ++ [new] }.closeSess fun x => x.role == 2,
       .done mOK 0 (leBytes 2 s.crm.chain.length))

end State

/-! ### Commands -/

/-- SYS_INFO. -/
def execSysInfo (n : Fin 8) (s : State) : Host.Outcome State Fault Refusal :=
  .next (s.command n 0x0101 fun _ s => (s, .done mOK 0 s.sysInfo))

/-- SYS_STATUS. -/
def execSysStatus (n : Fin 8) (s : State) : Host.Outcome State Fault Refusal :=
  .next (s.command n 0x0102 fun _ s => (s, .done mOK 0 s.sysStatus))

/-- ALARM_ACK. -/
def execAlarmAck (n : Fin 8) (s : State) : Host.Outcome State Fault Refusal := .next (s.byreCmd n 0x0103 State.alarmAck)

/-- COUNTER_BASELINE. -/
def execCounterBaseline (n : Fin 8) (s : State) : Host.Outcome State Fault Refusal :=
  .next (s.byreCmd n 0x0104 fun b _ s => State.baseline b s)

/-- CREAMERY_RESTART: the response, then the reset (R502). -/
def execCreameryRestart (n : Fin 8) (s : State) : Host.Outcome State Fault Refusal :=
  .next (s.commandThen n 0x0105 (fun _ s => (s, ansOk)) fun s => s.crmReset 4)

/-- SESSION_NONCE (R456). -/
def execSessionNonce (n : Fin 8) (s : State) : Host.Outcome State Fault Refusal :=
  .next (s.command n 0x0201 fun _ s => s.newNonce n)

/-- SESSION_OPEN (R457). -/
def execSessionOpen (n : Fin 8) (s : State) : Host.Outcome State Fault Refusal :=
  .next (s.command n 0x0202 (State.sessionOpen n))

/-- SESSION_OPEN_HMAC (R456). -/
def execSessionOpenHmac (n : Fin 8) (s : State) : Host.Outcome State Fault Refusal :=
  .next (s.command n 0x0203 (State.sessionOpenHmac n))

/-- SESSION_CLOSE (R458). -/
def execSessionClose (n : Fin 8) (s : State) : Host.Outcome State Fault Refusal :=
  .next (s.command n 0x0204 fun q s => (s.onSess fun c => c.closeSess fun x => x.id == q.sess, ansOk))

/-- CLAIM (R453). -/
def execClaim (n : Fin 8) (low : Bool) (s : State) : Host.Outcome State Fault Refusal :=
  .next (s.command n 0x0205 (State.claim n low))

/-- INSTALLER_KEY_ROTATE (R454). -/
def execInstallerKeyRotate (n : Fin 8) (s : State) : Host.Outcome State Fault Refusal := .next (s.command n 0x0206 State.keyRotate)

/-- OPERATOR_SECRET_SET (R454). -/
def execOperatorSecretSet (n : Fin 8) (s : State) : Host.Outcome State Fault Refusal :=
  .next (s.command n 0x0207 fun q s => (s.onCrm fun c => { c with secret := some (q.bytes 0 32) }, ansOk))

end Sys2Proof.Machine
end

