-- ==== Sys2Proof/Machine/CmdByre.lean ====
section
/-!
DEFINITION. The mailbox commands of the byre and schedule groups: 0x03 and 0x04 (R429, R430, R436, R443 to R449, R466).
-/

namespace Sys2Proof.Machine

/-! ### Microcode (R441, R443, R444, R448) -/

/-- Does a section of a microcode image name a store, its element size and elements inside it? -/
def mcSecOk (x : Section) : Bool :=
  match x.typ with
  | 0x20 => x.elem == 16 && decide (x.first + x.count ≤ 4096)
  | 0x21 => x.elem == 4 && decide (x.first + x.count ≤ 256)
  | 0x22 => x.elem == 4 && decide (x.first + x.count ≤ 65536)
  | 0x23 => x.elem == 4 && x.first == 0 && x.count == 1
  | _ => false

namespace Byre

/-- HELD is entered so that the stores may be written: plans end, the tick stops, the engines stop. -/
def holdForLoad (y : Byre) : Byre :=
  let y := if y.st = stHELD then y else y.stopAt.setState stHELD 0
  ((List.range 32).foldl engineStop y).stopTick.setPhase phSTOPPED

/-- Write a section of a microcode image; `cl` says which clusters are on. -/
def putMicro (y : Byre) (cl : Nat → Bool) (x : Section) : Byre :=
  (List.range x.count).foldl (fun y i =>
    let n := x.first + i
    let e := x.at_ i
    match x.typ with
    | 0x20 => (List.range 4).foldl (fun y q =>
        let a := 0xF00000 + n * 16 + 4 * q
        (y.stw a (leNat ((e.drop (4 * q)).take 4))).parClear 0 a) y
    | 0x21 => y.plainWrite (R.CHURN_DISP n) (leNat e)
    | 0x22 => (List.range 4).foldl (fun y c =>
        let a := 0xE00000 + c * 0x40000 + n * 4
        if cl c then (y.stw a (leNat e)).parClear 0 a else y) y
    | _ => (List.range 32).foldl (fun y g => y.plainWrite (R.ROTA_ENG_VECTOR g) (leNat e)) y) y

/-- Load microcode: the microcode store and the dispatch table are replaced, the code-store words and the vector that the image
names are written. -/
def loadMicro (y : Byre) (cl : Nat → Bool) (secs : List Section) : Byre :=
  let y := y.holdForLoad
  let inMc := fun a => decide (0xF00000 ≤ a) && decide (a < 0xF10000)
  let y := { y with
    mem := SMap.keep (fun a => !inMc a) y.mem
    badPar := y.badPar.filter fun q => !(q.1 == 0 && inMc q.2)
    softPar := y.softPar.filter fun q => !(q.1 == 0 && inMc q.2) }
  let y := (List.range 256).foldl (fun y o => y.plainWrite (R.CHURN_DISP o) 0) y
  secs.foldl (fun y x => y.putMicro cl x) y

/-- A HELD byre becomes READY. -/
def toReady (y : Byre) : Byre := (y.setState stREADY 0).idleStart

end Byre

namespace State

/-- microcode_load of an image; its parts are its sections, and `cut` finds whether an ABORT ends it between them, which leaves the byre
HELD with no microcode (R415, R428). -/
def loadMicrocode (s : State) (b : Fin 6) (im : List Byte) (cut : Nat → State → Option Nat × State) : State × Ans :=
  match imgForm 2 im with
  | 0 =>
    if !signedBy im s.crm.vendorFp then (s, ansErr mSIG)
    else if imgSvn im < s.crm.mcSvn then (s, .done mSIG 2 [])
    else
      match imgSections im with
      | none => (s, ansErr mARG)
      | some secs =>
        if !secs.all mcSecOk then (s, ansErr mARG)
        else
          match cut secs.length s with
          | (some 0, s) => (s, ansErr mABORT)
          | (some _, s) =>
            let s := s.onByre b fun y => y.loadMicro (s.cls b) []
            ((s.onCrm fun c => { c with ucode := SMap.set (fun _ => []) c.ucode b [] }).policySync b, ansErr mABORT)
          | (none, s) =>
          let s := s.onByre b fun y => y.loadMicro (s.cls b) secs
          let s := s.onCrm fun c => { c with ucode := SMap.set (fun _ => []) c.ucode b im
                                             ucodeStore := SMap.set (fun _ => []) c.ucodeStore b im }
          (s.policySync b, ansOk)
  | st => (s, ansErr st)

/-- Is the combination of the running firmware, a byre's microcode and the stepping declared (R443, R444): 0 yes, 1 the stepping
is not, 2 the firmware is not. -/
def combo (s : State) (b : Fin 6) : Nat :=
  let u := SMap.get (fun _ => []) s.crm.ucode b
  if !declares (s.crm.fwImage s.crm.slot) 1 stepping || !declares u 1 stepping then 1
  else if !declares u 2 s.crm.fwVersion then 2 else 0

/-- byre_release: status and DETAIL. -/
def release (s : State) (b : Fin 6) : State × Ans :=
  if (s.ucodeVer b).isNone then (s, ansErr mSTATE)
  else
    match s.combo b with
    | 0 => ((s.onByre b Byre.toReady).policySync b, ansOk)
    | d => (s, .done mCOMPAT d [])

/-- bench_override (R445). -/
def bench (s : State) (b : Fin 6) : State × Ans :=
  if (s.ucodeVer b).isNone || s.combo b == 0 then (s, ansErr mSTATE)
  else ((s.onByre b fun y => (y.put F.CHURN_BYRE_BENCH true).toReady).policySync b, ansOk)

/-- A change of the autostart entry (R449). -/
def setAuto (s : State) (b : Fin 6) (v : Nat) : State := s.onCrm fun c => { c with autostart := SMap.set (fun _ => 0) c.autostart b v }

/-- byre_reset (R502, R503); the microcode store keeps its image. -/
def byreReset (s : State) (b : Fin 6) : State × Ans :=
  let s := s.onByre b fun y => y.reset true 0
  let s := s.onCrm fun c =>
    { c.byreRst b 8 with
      ucode := SMap.set (fun _ => []) c.ucode b []
      loaded := SMap.keep (fun k => k / 2 != b) c.loaded
      placed := SMap.keep (fun k => k / 2 != b) c.placed }
  ((s.setAuto b 0).policySync b, ansOk)

/-- The boundary that the generator issues next, as byre_start and byre_stop answer it. -/
def nextIdent (s : State) (b : Fin 6) : List Byte := le4 ((s.byre b).tu.genS % 2 ^ 32) ++ leBytes 2 (s.byre b).tu.genK

/-- byre_start. -/
def byreStart (s : State) (b : Fin 6) : State × Ans :=
  let y := s.byre b
  if !y.verified y.bank then (s, ansErr mSTATE)
  else
    let s := s.onByre b fun y => { y with ch := { y.ch with startPend := true } }
    (s.setAuto b (SMap.get (fun _ => 0) s.crm.placed (b * 2 + y.bank)), .done mOK 0 (s.nextIdent b))

/-- byre_stop. -/
def byreStop (s : State) (b : Fin 6) : State × Ans :=
  let s := s.onByre b fun y => { y with ch := { y.ch with stopPend := true } }
  (s.setAuto b 0, .done mOK 0 (s.nextIdent b))

/-- tanker_abort (R303): the transfer's bytes moved are what the hardware had moved. -/
def tankerAbort (b : Fin 6) (q : Req) (s : State) : State × Ans :=
  let n := q.at_ 1 1
  if 16 ≤ n then (s, ansErr mARG)
  else
    let old := (s.byre b).flag (F.TNK_STATUS_LATE n)
    let s := s.onByre b fun y => (y.put (F.TNK_STATUS_LATE n) false).useFree
    let s := s.after (execTnkAbort b .mp (Fin.ofNat 24 n) (Config.moved ((s.byre b).free - 1)) [] s)
    if (s.byre b).flag (F.TNK_STATUS_LATE n) then (s, ansErr mLATE)
    else (s.onByre b fun y => y.put (F.TNK_STATUS_LATE n) old, .done mOK 0 (le4 ((s.byre b).rdN (R.TNK_LIVE n 7))))

/-- block_counters. -/
def blockCounters (b : Fin 6) (q : Req) (s : State) : State × Ans :=
  let blk := q.at_ 1 1
  let u := q.at_ 2 1
  if 14 < blk ∨ unitMax blk ≤ u then (s, ansErr mARG) else s.answerRegs b (blockCnt blk ++ unitCnt blk u)

/-! ### Schedules -/

/-- sched_arm, and the last step of sched_select (R430): s and k lie at payload bytes 4 to 11. -/
def armCmd (b : Fin 6) (q : Req) (s : State) : State × Ans :=
  let k := q.at_ 10 2
  if 16384 ≤ k then (s, ansErr mARG)
  else
    let n := (s.byre b).rdN R.CHURN_CNT_REFUSED_ARM
    let s := s.writeRegs b [(R.CHURN_ARM_SEC, q.at_ 4 6 % 2 ^ 32), (R.CHURN_ARM_K, k), (R.CHURN_ARM, 1)]
    let y := s.byre b
    if y.rdN R.CHURN_CNT_REFUSED_ARM ≠ n then
      let c := y.get F.CHURN_ARM_STATUS_REFUSE_CODE
      (s, .done (if c = 1 ∨ c = 4 then mSTATE else if c = 3 then mBUSY else mARG) c [])
    else if y.ch.arm.isNone then (s, ansErr mLATE)
    else (s, .done mOK 0 (leBytes 2 (y.get F.CHURN_ARM_STATUS_ARMED_EPOCH)))

/-- sched_cancel (R85). -/
def cancelCmd (b : Fin 6) (s : State) : State × Ans :=
  let y := s.byre b
  let late := y.ch.arm.isNone && y.ch.armGone
  let s := s.regWrite b .mp R.CHURN_ARM 2
  (s, if late then ansErr mLATE else ansOk)

/-- The image in slot `n` of a byre's package store. -/
def package (s : State) (b : Fin 6) (n : Nat) : List Byte := SMap.get (fun _ => []) s.crm.packages (b * 8 + n)

/-- sched_install; its parts are the 64 KiB blocks of the image, and an ABORT between them leaves the slot as it was, or empty: no rule
says which, so it is free (R415). -/
def installCmd (b : Fin 6) (q : Req) (s : State) (im : List Byte) (cut : Nat → State → Option Nat × State) : State × Ans :=
  match imgForm 3 im with
  | 0 =>
    if !(s.crm.packageFp.elim false (signedBy im)) then (s, ansErr mSIG)
    else
      match cut ((im.length + 65535) / 65536) s with
      | (some 0, s) => (s, ansErr mABORT)
      | (some _, s) =>
        (s.onCrm fun c =>
          let c' := { c with free := c.free + 1 }
          if Config.installKeeps c.free then c' else { c' with packages := SMap.set (fun _ => []) c.packages (b * 8 + q.at_ 1 1) [] },
         ansErr mABORT)
      | (none, s) => (s.onCrm fun c => { c with packages := SMap.set (fun _ => []) c.packages (b * 8 + q.at_ 1 1) im },
        .done mOK 0 (sha256 im))
  | st => (s, ansErr st)

/-- EPOCH of a package: lane 2 of word 0 of its schedule words, where it names that word. -/
def packEpoch (im : List Byte) : Nat :=
  let secs := (imgSections im).getD []
  match secs.find? fun x => x.typ == 1 && x.first == 0 && x.count != 0 with
  | some x => (elemWords (x.at_ 0)).getD 2 0 % 65536
  | none => 0

/-- sched_list. -/
def schedList (s : State) : List Byte :=
  let l := s.crm.packages
  leBytes 1 l.length ++ leBytes 3 0 ++ l.flatMap fun p =>
    leBytes 1 (p.1 / 8) ++ leBytes 1 (p.1 % 8) ++ leBytes 2 (packEpoch p.2) ++ le4 (imgVersion p.2) ++ sha256 p.2

/-- sched_select. -/
def selectCmd (b : Fin 6) (q : Req) (s : State) : State × Ans :=
  let n := q.at_ 1 1
  if 8 ≤ n ∨ 16384 ≤ q.at_ 10 2 then (s, ansErr mARG)
  else if (s.package b n).isEmpty then (s, ansErr mSTATE)
  else
    let (s, a) := s.loadPackage b (s.package b n) (n + 1) fun _ s => (none, s)
    match a with
    | .done 0 _ _ => armCmd b q s
    | a => (s, a)

/-- sched_remove. -/
def removeCmd (b : Fin 6) (q : Req) (s : State) : State × Ans :=
  let n := q.at_ 1 1
  if 8 ≤ n then (s, ansErr mARG)
  else if SMap.get (fun _ => 0) s.crm.autostart b = n + 1 then (s, ansErr mSTATE)
  else (s.onCrm fun c => { c with packages := SMap.set (fun _ => []) c.packages (b * 8 + n) [] }, ansOk)

/-- byre_status. -/
def byreStatus (b : Fin 6) (s : State) : State × Ans :=
  if s.on b domFAB then
    s.answerRegs b [R.CHURN_BYRE, R.CHURN_STATUS, R.CHURN_BADENG, R.CHURN_BADBANK_LO, R.CHURN_BADBANK_HI, R.CHURN_EPOCH,
      R.TIME_STATUS, R.TIME_ERR_BOUND]
  else (s, .done mOK 0 (le4 (s.fwSt b) ++ List.replicate 28 0#8))

end State

/-! ### Commands -/

/-- BYRE_STATUS. -/
def execByreStatus (n : Fin 8) (s : State) : Host.Outcome State Fault Refusal :=
  .next (s.byreCmd n 0x0301 fun b _ s => State.byreStatus b s)

/-- BYRE_RESET (R503). -/
def execByreReset (n : Fin 8) (s : State) : Host.Outcome State Fault Refusal :=
  .next (s.byreCmd n 0x0302 fun b _ s => s.byreReset b)

/-- BYRE_RELEASE (R443). -/
def execByreRelease (n : Fin 8) (s : State) : Host.Outcome State Fault Refusal :=
  .next (s.byreCmd n 0x0303 fun b _ s => s.release b)

/-- BYRE_START (R466). -/
def execByreStart (n : Fin 8) (s : State) : Host.Outcome State Fault Refusal :=
  .next (s.byreCmd n 0x0304 fun b _ s => s.byreStart b)

/-- BYRE_STOP (R466). -/
def execByreStop (n : Fin 8) (s : State) : Host.Outcome State Fault Refusal := .next (s.byreCmd n 0x0305 fun b _ s => s.byreStop b)

/-- MICROCODE_LOAD (R448); `host` is what the host's memory answers, with an ABORT between the parts (R415). -/
def execMicrocodeLoad (n : Fin 8) (host : HostRead) (s : State) : Host.Outcome State Fault Refusal :=
  .next (s.byreCmd n 0x0306 fun b q s => s.withBuf q 4 0x200000 host.bytes fun im =>
    s.loadMicrocode b im fun k s => s.abortPart n host.part k)

/-- BENCH_OVERRIDE (R445). -/
def execBenchOverride (n : Fin 8) (s : State) : Host.Outcome State Fault Refusal := .next (s.byreCmd n 0x0307 fun b _ s => s.bench b)

/-- TEST_ENTER (R466): plans start at the next boundary where a verified bank is live. -/
def execTestEnter (n : Fin 8) (s : State) : Host.Outcome State Fault Refusal :=
  .next (s.byreCmd n 0x0308 fun b _ s =>
    ((s.onByre b fun y =>
      let y := y.setState Byre.stTEST 0
      { y with ch := { y.ch with startPend := y.verified y.bank } }).policySync b, ansOk))

/-- TEST_EXIT (R466). -/
def execTestExit (n : Fin 8) (s : State) : Host.Outcome State Fault Refusal :=
  .next (s.byreCmd n 0x0309 fun b _ s => ((s.onByre b Byre.stopAt).policySync b, ansOk))

/-- TANKER_ABORT (R303). -/
def execTankerAbort (n : Fin 8) (s : State) : Host.Outcome State Fault Refusal := .next (s.byreCmd n 0x030A State.tankerAbort)

/-- BLOCK_COUNTERS. -/
def execBlockCounters (n : Fin 8) (s : State) : Host.Outcome State Fault Refusal := .next (s.byreCmd n 0x030B State.blockCounters)

/-- SCHED_LOAD (R429). -/
def execSchedLoad (n : Fin 8) (host : HostRead) (s : State) : Host.Outcome State Fault Refusal :=
  .next (s.byreCmd n 0x0401 fun b q s => s.withBuf q 4 0x100000 host.bytes fun im => s.loadPackage b im 0 fun k s => s.abortPart n host.part k)

/-- SCHED_VERIFY (R429). -/
def execSchedVerify (n : Fin 8) (s : State) : Host.Outcome State Fault Refusal :=
  .next (s.byreCmd n 0x0402 fun b _ s => s.runVerify b)

/-- SCHED_ARM (R430). -/
def execSchedArm (n : Fin 8) (s : State) : Host.Outcome State Fault Refusal := .next (s.byreCmd n 0x0403 State.armCmd)

/-- SCHED_CANCEL (R85). -/
def execSchedCancel (n : Fin 8) (s : State) : Host.Outcome State Fault Refusal :=
  .next (s.byreCmd n 0x0404 fun b _ s => State.cancelCmd b s)

/-- SCHED_STATUS. -/
def execSchedStatus (n : Fin 8) (s : State) : Host.Outcome State Fault Refusal :=
  .next (s.byreCmd n 0x0405 fun b _ s => s.answerRegs b (regsIn R.CHURN_STATUS R.CHURN_SWAP_K))

/-- SCHED_INSTALL. -/
def execSchedInstall (n : Fin 8) (host : HostRead) (s : State) : Host.Outcome State Fault Refusal :=
  .next (s.byreCmd n 0x0406 fun b q s =>
    if 8 ≤ q.at_ 1 1 then (s, ansErr mARG) else s.withBuf q 4 0x100000 host.bytes fun im =>
      State.installCmd b q s im fun k s => s.abortPart n host.part k)

/-- SCHED_LIST. -/
def execSchedList (n : Fin 8) (s : State) : Host.Outcome State Fault Refusal :=
  .next (s.command n 0x0407 fun _ s => (s, .done mOK 0 s.schedList))

/-- SCHED_SELECT. -/
def execSchedSelect (n : Fin 8) (s : State) : Host.Outcome State Fault Refusal := .next (s.byreCmd n 0x0408 State.selectCmd)

/-- SCHED_REMOVE. -/
def execSchedRemove (n : Fin 8) (s : State) : Host.Outcome State Fault Refusal := .next (s.byreCmd n 0x0409 State.removeCmd)

end Sys2Proof.Machine
end

