-- ==== Sys2Proof/Machine/CmdTable.lean ====
section
/-!
DEFINITION. The mailbox commands of the table, time, port, export and herd groups: 0x05 to 0x09 (R149, R370, R405,
R431 to R436).
-/

namespace Sys2Proof.Machine

namespace Byre

/-- Put a switch frame of the creamery in input 27 (R433): the DETAIL of BUSY, or the byre that holds it. -/
def hostSend (y : Byre) (bs : List Byte) : Nat × Byre :=
  match y.alloc 35 bs.length with
  | (none, y) => (1, y)
  | (some off, y) =>
    let y := y.coreTo
    if y.inDepth 27 ≤ y.inLen 27 then (2, y.pailReturn off)
    else (0, { y.pailWrite off bs with inq := y.inq ++ [y.newFrame off bs.length 27 y.now] })

end Byre

namespace State

/-- A configuration command (R435). -/
def configCmd (b : Fin 6) (q : Req) (s : State) : State × Ans :=
  if (selMax q.cmd).elim false (fun m => decide (m < q.at_ 1 1)) then (s, ansErr mARG) else (s.writeRegs b (cfgWords q), ansOk)

/-! ### Exact-match unit and keys -/

/-- Write an entry's words and insert it, or delete its key: RESULT and LOC. -/
def emuRun (s : State) (b : Fin 6) (del : Bool) (e : EmuEnt) : (Nat × Nat) × State :=
  let s := s.writeRegs b ((List.range 8).map fun i => (R.EMU_ENT i, e.word i))
  let s := s.after (if del then execEmuDeleteByKey b .mp s else execEmuInsert b .mp s)
  let (v, s) := s.readReg b R.EMU_CMD_STATUS
  ((bits v 3 0, bits v 24 8), s)

/-- emu_write (R431). -/
def emuWriteCmd (b : Fin 6) (q : Req) (s : State) : State × Ans :=
  let n := q.at_ 1 1
  let ent := fun i => entOf (q.bytes (8 + 36 * i) 32)
  if n = 0 ∨ 113 < n ∨ (List.range n).any (fun i => (ent i).kt == 0 || (ent i).learned) then (s, ansErr mARG)
  else
    let (bs, s) := (List.range n).foldl (fun (bs, s) i =>
      let ((r, l), s) := s.emuRun b (q.at_ (4 + 36 * i) 1 == 1) (ent i)
      (bs ++ leBytes 1 r ++ leBytes 3 l, s)) (([] : List Byte), s)
    (s, .done mOK 0 bs)

/-- emu_read. -/
def emuReadCmd (b : Fin 6) (q : Req) (s : State) : State × Ans :=
  let loc := q.at_ 4 4
  if q.at_ 1 1 = 1 ∧ 66559 < loc then (s, ansErr mARG)
  else
    let s := if q.at_ 1 1 = 1 then s.after (execEmuReadByLocation b .mp (BitVec.ofNat 17 loc) s)
      else
        let s := s.writeRegs b ((List.range 3).map fun i => (R.EMU_ENT i, q.at_ (4 + 4 * i) 4))
        s.after (execEmuReadByKey b .mp s)
    let (bs, s) := s.readRegs b ((List.range 8).map R.EMU_ENT)
    let (v, s) := s.readReg b R.EMU_CMD_STATUS
    (s, .done mOK 0 (bs ++ leBytes 3 (bits v 24 8) ++ leBytes 1 (bits v 3 0)))

/-- emu_delete_type. -/
def emuDeleteCmd (b : Fin 6) (q : Req) (s : State) : State × Ans :=
  if q.at_ 1 1 = 0 then (s, ansErr mARG)
  else
    let n := (s.byre b).emu.length
    let s := s.regWrite b .mp (R.EMU_ENT 0) (q.at_ 1 1)
    let s := s.after (execEmuDeleteAllKt b .mp s)
    (s, .done mOK 0 (le4 (n - (s.byre b).emu.length)))

/-- Remove and return up to `n` notes. -/
def takeNotes (s : State) (b : Fin 6) : Nat → List Byte × State
  | 0 => ([], s)
  | n + 1 =>
    let (bs, s) := s.readRegs b [R.EMU_NOTE0, R.EMU_NOTE1, R.EMU_NOTE2]
    if !(s.byre b).flag F.EMU_NOTE2_VALID then ([], s)
    else
      let s := s.after (execNoteRemove b .mp s)
      let (cs, s) := s.takeNotes b n
      (bs ++ cs, s)

/-- fwd_notes. -/
def notesCmd (b : Fin 6) (s : State) : State × Ans :=
  let (bs, s) := s.takeNotes b 64
  (s, .done mOK 0 (leBytes 1 (bs.length / 12) ++ leBytes 3 0 ++ bs))

/-- A copied entry (R149): LEARNED 0, and into a byre that runs, active from s:k. -/
def copyEnt (s : State) (b : Fin 6) (q : Req) (e : EmuEnt) : EmuEnt :=
  let e := { e with w3 := insBits e.w3 17 17 0 }
  if (s.byre b).live then
    { e with w3 := insBits e.w3 18 18 1, w4 := q.at_ 4 6 % 2 ^ 32, w5 := insBits e.w5 13 0 (q.at_ 10 2) }
  else e

/-- fwd_copy. -/
def copyCmd (b : Fin 6) (q : Req) (s : State) : State × Ans :=
  let n := q.at_ 2 1
  let aim := fun (t : Fin 6) => bit (q.at_ 1 1) t
  let ent := fun i => entOf (q.bytes (12 + 32 * i) 32)
  if (s.byre b).flag F.EMU_CTRL_MK1 || allB.any (fun t => aim t &&
      (!s.on t domFAB || (s.byre t).flag F.EMU_CTRL_MK1)) then (s, ansErr mSTATE)
  else if n = 0 ∨ 127 < n ∨ 16384 ≤ q.at_ 10 2 ∨ (List.range n).any (fun i => (ent i).kt != 3) then (s, ansErr mARG)
  else
    let (bs, s) := (List.range n).foldl (fun (bs, s) i =>
      allB.foldl (fun (bs, s) t =>
        if aim t then
          let ((r, _), s) := s.emuRun t false (s.copyEnt t q (ent i))
          (bs ++ leBytes 1 r, s)
        else (bs ++ leBytes 1 0xFF, s)) (bs, s)) (([] : List Byte), s)
    (s, .done mOK 0 bs)

/-- Read a slot through its command registers. -/
def keyShow (s : State) (b : Fin 6) (bank slot : Nat) : State :=
  s.after (execKeySlotRead b .mp (bank == 1) (BitVec.ofNat 8 slot) s)

/-- key_write, into the standby bank (R265). -/
def keyWriteCmd (b : Fin 6) (q : Req) (s : State) : State × Ans :=
  let slot := q.at_ 1 1
  if slot = 255 then (s, ansErr mARG)
  else
    let bank := (s.byre b).stby
    let n := BitVec.ofNat 8 slot
    let s := s.writeRegs b [(R.ROTA_KEY_HDR, q.at_ 4 4), (R.ROTA_KEY_ID0, q.at_ 8 4), (R.ROTA_KEY_ID1, q.at_ 12 4)]
    let s := s.after (execKeyHeaderWrite b .mp (bank == 1) n s)
    let s := [0, 1].foldl (fun s k =>
      if bit (q.at_ 2 1) k then
        let s := s.writeRegs b ((List.range 8).map fun i => (R.ROTA_KEY_DATA i, q.at_ (16 + 32 * k + 4 * i) 4))
        s.after (execKeyMaterialWrite b .mp (bank == 1) (k == 1) n s)
      else s) s
    (s.keyShow b bank slot).answerRegs b [R.ROTA_KEY_KCV0, R.ROTA_KEY_KCV1]

/-- key_invalidate. -/
def keyInvalidateCmd (b : Fin 6) (q : Req) (s : State) : State × Ans :=
  if q.at_ 1 1 = 255 then (s, ansErr mARG)
  else (s.after (execKeySlotInvalidate b .mp ((s.byre b).stby == 1) (BitVec.ofNat 8 (q.at_ 1 1)) s), ansOk)

/-- key_read. -/
def keyReadCmd (b : Fin 6) (q : Req) (s : State) : State × Ans :=
  if q.at_ 1 1 = 255 then (s, ansErr mARG)
  else
    let bank := if q.at_ 2 1 = 1 then (s.byre b).bank else (s.byre b).stby
    (s.keyShow b bank (q.at_ 1 1)).answerRegs b
      [R.ROTA_KEY_HDR, R.ROTA_KEY_ID0, R.ROTA_KEY_ID1, R.ROTA_KEY_KCV0, R.ROTA_KEY_KCV1]

/-! ### Time and ports -/

/-- rtc_set (R54). -/
def rtcSetCmd (q : Req) (s : State) : State × Ans :=
  if 1000000000 ≤ q.at_ 6 4 then (s, ansErr mARG)
  else (s.onCrm fun c => { c with rtc := some (q.at_ 0 6 * 1000000000 + q.at_ 6 4, c.clk) }, ansOk)

/-- port_status. -/
def portStatusCmd (b : Fin 6) (q : Req) (s : State) : State × Ans :=
  let p := q.at_ 1 1
  if 23 < p then (s, ansErr mARG) else s.answerRegs b (R.SW_PORT_STATUS p :: unitCnt 2 p)

/-- frame_send (R433). -/
def frameSendCmd (b : Fin 6) (q : Req) (s : State) : State × Ans :=
  let n := q.at_ 4 2
  if n < 14 ∨ 2044 < n then (s, ansErr mARG)
  else
    let (d, y) := (s.byre b).hostSend (q.bytes 8 n)
    (s.onByre b fun _ => y, if d = 0 then ansOk else .done mBUSY d [])

/-- A queued frame as frame_recv returns it. -/
def recvRecord (f : Nat × List Byte) : List Byte :=
  let r := leBytes 2 f.2.length ++ leBytes 8 (f.1 / 1000000000 % 2 ^ 32 * 2 ^ 32 + f.1 % 1000000000) ++ f.2
  r ++ List.replicate ((8 - r.length % 8) % 8) 0#8

/-- As many frames as fit in `room` bytes, and those left. -/
def recvFrames (room : Nat) : List (Nat × List Byte) → List Byte × List (Nat × List Byte)
  | [] => ([], [])
  | f :: fs =>
    let r := recvRecord f
    if room < r.length then ([], f :: fs)
    else
      let (bs, rest) := recvFrames (room - r.length) fs
      (r ++ bs, rest)

/-- frame_recv (R433). -/
def frameRecvCmd (b : Fin 6) (s : State) : State × Ans :=
  let (bs, rest) := recvFrames 4076 (SMap.get (fun _ => []) s.crm.hostRx b)
  (s.onCrm fun c => { c with hostRx := SMap.set (fun _ => []) c.hostRx b rest, hostDrop := SMap.set (fun _ => 0) c.hostDrop b 0 },
   .done mOK 0 (le4 (SMap.get (fun _ => 0) s.crm.hostDrop b) ++ bs))

/-! ### Export (R405, R420, R432) -/

/-- export_setup. -/
def exportSetupCmd (q : Req) (s : State) : State × Ans :=
  let r := q.at_ 0 1
  let lg := q.at_ 3 1
  let base := q.at_ 4 8
  let n := q.at_ 12 2
  if h : q.at_ 1 1 < 6 then
    if 31 < r ∨ lg < 4 ∨ 12 < lg ∨ base % 4096 ≠ 0 ∨ n = 0 ∨ 256 < n then (s, ansErr mARG)
    else if s.crm.flag (F.CRM_EXP_CFG_EN r) then (s, ansErr mSTATE)
    else if (s.ringOf ⟨q.at_ 1 1, h⟩ (q.at_ 2 1)).isSome then (s, ansErr mARG)
    else
      (s.onCrm fun c =>
        let c := c.wrN (R.CRM_EXP_CFG r) (2147483648 + q.at_ 1 1 * 65536 + q.at_ 2 1 * 256 + lg)
        let c := (c.wrN (R.CRM_EXP_BASE_LO r) (base % 2 ^ 32)).wrN (R.CRM_EXP_BASE_HI r) (base / 2 ^ 32)
        let c := (c.wrN (R.CRM_EXP_HEAD r) 0).wrN (R.CRM_EXP_TAIL r) 0
        { c.wrN (R.CRM_EXP_COAL r) (n * 65536 + q.at_ 14 2) with coal := SMap.set (fun _ => (0, 0)) c.coal r (0, 0) }, ansOk)
  else (s, ansErr mARG)

/-- export_stop: EN cleared, staged data of the ring's byre and stream discarded. -/
def exportStopCmd (q : Req) (s : State) : State × Ans :=
  let r := q.at_ 0 1
  if 31 < r then (s, ansErr mARG)
  else
    (s.onCrm fun c =>
      let b := c.get (F.CRM_EXP_CFG_BYRE r)
      let st := c.get (F.CRM_EXP_CFG_STREAM r)
      let keep := (SMap.get (fun _ => []) c.staging b).filter fun (x : Xfer) => x.stream != st
      let c := if c.flag (F.CRM_EXP_CFG_EN r) then { c with staging := SMap.set (fun _ => []) c.staging b keep } else c
      { c.put (F.CRM_EXP_CFG_EN r) false with coal := SMap.set (fun _ => (0, 0)) c.coal r (0, 0) }, ansOk)

/-- export_status. -/
def exportStatusCmd (q : Req) (s : State) : State × Ans :=
  let r := q.at_ 0 1
  if 31 < r then (s, ansErr mARG)
  else (s, .done mOK 0 ([R.CRM_EXP_CFG r, R.CRM_EXP_BASE_LO r, R.CRM_EXP_BASE_HI r, R.CRM_EXP_TAIL r, R.CRM_EXP_HEAD r,
    R.CRM_EXP_COAL r, R.CRM_EXP_CNT_DONE r, R.CRM_EXP_CNT_TRUNC r, R.CRM_EXP_CNT_SKIP r, R.CRM_EXP_CNT_NODESC r].flatMap
      fun a => le4 (s.crm.rdN a)))

/-- hwin_map (R405). -/
def hwinMapCmd (q : Req) (s : State) : State × Ans :=
  let p := q.at_ 0 2
  if 255 < p ∨ 5 < q.at_ 2 1 ∨ 47 < q.at_ 3 1 then (s, ansErr mARG)
  else (s.onCrm fun c => c.wrN (R.CRM_HWIN_MAP p) (q.at_ 4 1 % 2 * 2147483648 + q.at_ 2 1 * 256 + q.at_ 3 1), ansOk)

/-- group_status. -/
def groupStatusCmd (b : Fin 6) (q : Req) (s : State) : State × Ans :=
  let g := q.at_ 1 1
  if 7 < g then (s, ansErr mARG)
  else s.answerRegs b [R.PRESS_GRP_SEC g, R.PRESS_GRP_K g, R.PRESS_GRP_SEAL g, R.PRESS_GRP_STAT g]

/-! ### Herd -/

/-- herd_node (R434). -/
def herdNodeCmd (b : Fin 6) (q : Req) (s : State) : State × Ans :=
  let d := bits (q.at_ 4 4) 13 0
  if s.crm.devId.elim false (· != d) then (s, ansErr mARG)
  else ((s.onCrm fun c => { c with devId := some d }).writeRegs b (cfgWords q), ansOk)

/-- herd_status. -/
def herdStatusCmd (b : Fin 6) (s : State) : State × Ans :=
  let (bs, s) := s.readRegs b [R.TUG_NODE, R.TUG_MGR, R.TUG_ROOT, R.TUG_LINK_STATUS 0, R.TUG_LINK_FAR 0, R.TUG_LINK_STATUS 1,
    R.TUG_LINK_FAR 1]
  (s, .done mOK 0 (bs ++ leBytes 1 (s.byre b).herd.st ++ leBytes 3 0))

/-- herd_epoch (R370). -/
def herdEpochCmd (b : Fin 6) (q : Req) (s : State) : State × Ans :=
  let y := s.byre b
  let t : Tick := ⟨q.at_ 4 6, q.at_ 10 2⟩
  if y.role ≠ 3 then (s, ansErr mSTATE)
  else if 16384 ≤ t.k then (s, ansErr mARG)
  else if Byre.tickNs (max 1 (y.lane y.stby 0 0 % 16384)) t < y.now + 500000000 then (s, ansErr mLATE)
  else (s.onByre b fun y => y.announce (q.at_ 2 2) t, ansOk)

end State

/-! ### Commands -/

/-- EMU_WRITE (R431). -/
def execEmuWrite (n : Fin 8) (s : State) : Host.Outcome State Fault Refusal := .next (s.byreCmd n 0x0501 State.emuWriteCmd)

/-- EMU_READ. -/
def execEmuRead (n : Fin 8) (s : State) : Host.Outcome State Fault Refusal := .next (s.byreCmd n 0x0502 State.emuReadCmd)

/-- EMU_DELETE_TYPE. -/
def execEmuDeleteType (n : Fin 8) (s : State) : Host.Outcome State Fault Refusal := .next (s.byreCmd n 0x0503 State.emuDeleteCmd)

/-- EMU_CONFIG. -/
def execEmuConfig (n : Fin 8) (s : State) : Host.Outcome State Fault Refusal := .next (s.byreCmd n 0x0504 State.configCmd)

/-- LEARN_CONFIG. -/
def execLearnConfig (n : Fin 8) (s : State) : Host.Outcome State Fault Refusal := .next (s.byreCmd n 0x0505 State.configCmd)

/-- FWD_NOTES. -/
def execFwdNotes (n : Fin 8) (s : State) : Host.Outcome State Fault Refusal :=
  .next (s.byreCmd n 0x0506 fun b _ s => State.notesCmd b s)

/-- FWD_COPY (R149). -/
def execFwdCopy (n : Fin 8) (s : State) : Host.Outcome State Fault Refusal := .next (s.byreCmd n 0x0507 State.copyCmd)

/-- KEY_WRITE (R265). -/
def execKeyWrite (n : Fin 8) (s : State) : Host.Outcome State Fault Refusal := .next (s.byreCmd n 0x0508 State.keyWriteCmd)

/-- KEY_INVALIDATE (R265). -/
def execKeyInvalidate (n : Fin 8) (s : State) : Host.Outcome State Fault Refusal :=
  .next (s.byreCmd n 0x0509 State.keyInvalidateCmd)

/-- KEY_READ. -/
def execKeyRead (n : Fin 8) (s : State) : Host.Outcome State Fault Refusal := .next (s.byreCmd n 0x050A State.keyReadCmd)

/-- TIME_STATUS: the TIME registers at 0x004 to 0x0A0. -/
def execTimeStatus (n : Fin 8) (s : State) : Host.Outcome State Fault Refusal :=
  .next (s.byreCmd n 0x0601 fun b _ s => s.answerRegs b (regsIn R.TIME_STATUS (R.TIME_CTRL + 0xA0)))

/-- TIME_CONFIG. -/
def execTimeConfig (n : Fin 8) (s : State) : Host.Outcome State Fault Refusal := .next (s.byreCmd n 0x0602 State.configCmd)

/-- RTC_SET (R54). -/
def execRtcSet (n : Fin 8) (s : State) : Host.Outcome State Fault Refusal := .next (s.command n 0x0603 State.rtcSetCmd)

/-- UTC_SET. -/
def execUtcSet (n : Fin 8) (s : State) : Host.Outcome State Fault Refusal := .next (s.byreCmd n 0x0604 State.configCmd)

/-- PPS_CONFIG. -/
def execPpsConfig (n : Fin 8) (s : State) : Host.Outcome State Fault Refusal := .next (s.byreCmd n 0x0605 State.configCmd)

/-- PORT_DELAY. -/
def execPortDelay (n : Fin 8) (s : State) : Host.Outcome State Fault Refusal := .next (s.byreCmd n 0x0606 State.configCmd)

/-- PORT_STATUS. -/
def execPortStatus (n : Fin 8) (s : State) : Host.Outcome State Fault Refusal := .next (s.byreCmd n 0x0701 State.portStatusCmd)

/-- PORT_CONFIG. -/
def execPortConfig (n : Fin 8) (s : State) : Host.Outcome State Fault Refusal := .next (s.byreCmd n 0x0702 State.configCmd)

/-- PAIR_CONFIG. -/
def execPairConfig (n : Fin 8) (s : State) : Host.Outcome State Fault Refusal := .next (s.byreCmd n 0x0703 State.configCmd)

/-- TALLY_CONFIG. -/
def execTallyConfig (n : Fin 8) (s : State) : Host.Outcome State Fault Refusal := .next (s.byreCmd n 0x0704 State.configCmd)

/-- PIN_CONFIG. -/
def execPinConfig (n : Fin 8) (s : State) : Host.Outcome State Fault Refusal := .next (s.byreCmd n 0x0705 State.configCmd)

/-- FRAME_SEND (R433). -/
def execFrameSend (n : Fin 8) (s : State) : Host.Outcome State Fault Refusal := .next (s.byreCmd n 0x0706 State.frameSendCmd)

/-- FRAME_RECV (R433). -/
def execFrameRecv (n : Fin 8) (s : State) : Host.Outcome State Fault Refusal :=
  .next (s.byreCmd n 0x0707 fun b _ s => State.frameRecvCmd b s)

/-- EXPORT_SETUP (R432). -/
def execExportSetup (n : Fin 8) (s : State) : Host.Outcome State Fault Refusal := .next (s.command n 0x0801 State.exportSetupCmd)

/-- EXPORT_STOP. -/
def execExportStop (n : Fin 8) (s : State) : Host.Outcome State Fault Refusal := .next (s.command n 0x0802 State.exportStopCmd)

/-- EXPORT_STATUS. -/
def execExportStatus (n : Fin 8) (s : State) : Host.Outcome State Fault Refusal := .next (s.command n 0x0803 State.exportStatusCmd)

/-- HWIN_MAP (R405). -/
def execHwinMap (n : Fin 8) (s : State) : Host.Outcome State Fault Refusal := .next (s.command n 0x0804 State.hwinMapCmd)

/-- GROUP_STATUS. -/
def execGroupStatus (n : Fin 8) (s : State) : Host.Outcome State Fault Refusal := .next (s.byreCmd n 0x0805 State.groupStatusCmd)

/-- HERD_NODE (R434). -/
def execHerdNode (n : Fin 8) (s : State) : Host.Outcome State Fault Refusal := .next (s.byreCmd n 0x0901 State.herdNodeCmd)

/-- HERD_LINK. -/
def execHerdLink (n : Fin 8) (s : State) : Host.Outcome State Fault Refusal := .next (s.byreCmd n 0x0902 State.configCmd)

/-- HERD_ROUTE. -/
def execHerdRoute (n : Fin 8) (s : State) : Host.Outcome State Fault Refusal := .next (s.byreCmd n 0x0903 State.configCmd)

/-- HERD_STATUS. -/
def execHerdStatus (n : Fin 8) (s : State) : Host.Outcome State Fault Refusal :=
  .next (s.byreCmd n 0x0904 fun b _ s => State.herdStatusCmd b s)

/-- HERD_EPOCH (R370). -/
def execHerdEpoch (n : Fin 8) (s : State) : Host.Outcome State Fault Refusal := .next (s.byreCmd n 0x0905 State.herdEpochCmd)

/-- TUNNEL_CONFIG. -/
def execTunnelConfig (n : Fin 8) (s : State) : Host.Outcome State Fault Refusal := .next (s.byreCmd n 0x0906 State.configCmd)

end Sys2Proof.Machine
end

