-- ==== Sys2Proof/Machine/CmdRec.lean ====
section
/-!
DEFINITION. The mailbox commands of the recorder, power, audit, diagnosis and firmware groups: 0x0A to 0x0E (R387, R398,
R446 to R451, R459, R461 to R464, R481, R487, R494, R497, R499).
-/

namespace Sys2Proof.Machine

namespace Byre

/-! ### rec_export (R398) -/

/-- The frozen window as (ring offset, length) runs in 64-byte units that do not cross the region's end. -/
def recRuns (y : Byre) : List (Nat × Nat) :=
  let pre := y.rdN R.DRAM_REC_PRE
  let wr := y.rdN R.DRAM_REC_WR
  if pre < wr then [(pre, wr - pre)]
  else [(pre, y.rdN R.DRAM_REC_SIZE - pre), (0, wr)].filter fun q => q.2 != 0

/-- A run cut into transfers of at most 64 KiB. -/
def cutRun : Nat → Nat × Nat → List (Nat × Nat)
  | 0, _ => []
  | n + 1, (u, k) => if k = 0 then [] else if k ≤ 1024 then [(u, k)] else (u, 1024) :: cutRun n (u + 1024, k - 1024)

/-- The transfers of the window. -/
def recCuts (y : Byre) : List (Nat × Nat) := y.recRuns.flatMap fun q => cutRun (q.2 / 1024 + 1) q

/-- The words of a DRAM-to-HOST descriptor of `k` units at ring offset `u`, for export stream `n`. -/
def recDesc (y : Byre) (n u k : Nat) : List Nat :=
  let a := y.ringAddr u
  [0x81201000, k * 64, a % 2 ^ 32, a / 2 ^ 32, n, 0, 1, 0]

/-! ### Debug (R481) -/

/-- A thread halts between two instructions. -/
def debugHalt (y : Byre) (e t : Nat) : Byre := y.onThread e t fun th => { th with halted := true }

/-- A halted thread resumes; one that was terminated meanwhile takes trap 0x07 with detail 1. -/
def debugResume (y : Byre) (e t : Nat) : Byre :=
  if (y.thread e t).termDue then
    (y.onThread e t fun th => { th with halted := false, termDue := false, wait := none }).takeTrap e t ⟨7, 1, 0, 0⟩
  else y.onThread e t fun th => { th with halted := false }

end Byre

namespace State

/-- Run one transfer of the window: its CODE, or none where the channel did not finish it. -/
def recMove (s : State) (b : Fin 6) (n : Nat) (q : Nat × Nat) : Option Nat × State :=
  let y := (s.byre b).onChan n fun c => c.take.setLive ((s.byre b).recDesc n q.1 q.2) 0
  let (out, y) := y.tnkRun n fun _ _ => true
  let s := (s.onByre b fun _ => y).hostTake b 0 out
  let w := (y.chan n).live 7
  (if bit w 31 then some (bits w 27 24) else none, s)

/-- Run transfers in order: how many ended OK, and their bytes. -/
def recMoves (s : State) (b : Fin 6) (n : Nat) : List (Nat × Nat) → Nat × Nat × Bool × State
  | [] => (0, 0, true, s)
  | q :: qs =>
    match s.recMove b n q with
    | (some 0, s) => let (k, m, ok, s) := s.recMoves b n qs; (k + 1, m + q.2 * 64, ok, s)
    | (_, s) => (0, 0, false, s)

/-- rec_export: the transfers, which are its parts, run one after the other in this step (assumption log entry 40); an ABORT between two
of them leaves the window FROZEN (R415). -/
def recExport (b : Fin 6) (s : State) (cut : Nat → State → Option Nat × State) : State × Ans :=
  let y := s.byre b
  let n := y.get F.DRAM_REC_CTRL_EXP_TANKER
  if y.rcSt ≠ rcFROZEN then (s, ansErr mSTATE)
  else if y.chanBusy n || (y.chan n).disabled then (s, ansErr mBUSY)
  else
    let (stop, s) := cut y.recCuts.length s
    match s.recMoves b n (y.recCuts.take (stop.getD y.recCuts.length)) with
    | (k, m, true, s) => (s, if stop.isSome then ansErr mABORT else .done mOK 0 (le4 k ++ leBytes 8 m))
    | (_, _, false, s) => (s, .done mHW 8 [])

/-! ### Power -/

/-- power_status; `r` holds the regulators' answers, 18 bytes for each byre: the six readings with their packet error codes. -/
def powerStatus (s : State) (r : List Byte) : List Byte :=
  allB.flatMap (fun (b : Fin 6) => le4 (s.crm.rdN (R.AON_PWR_STATE b))) ++ le4 (s.crm.rdN R.AON_PWR_STATE_CRM) ++
    allB.flatMap (fun (b : Fin 6) => le4 (s.aonWord (R.AON_VSTAT b))) ++ le4 (s.crm.rdN R.AON_VIN) ++ le4 (s.crm.rdN R.AON_PFAIL_STAT) ++
    allB.flatMap fun (b : Fin 6) =>
      if SMap.get (fun _ => false) s.crm.rails b then s.crm.pbShow b ((r.drop (18 * b)).take 18)
      else List.replicate 12 0#8

/-- The masters read the regulators whose rails are on. -/
def readRails (s : State) : State :=
  allB.foldl (fun s (b : Fin 6) => if SMap.get (fun _ => false) s.crm.rails b then s.onCrm fun c => c.pbStatus b else s) s

/-- How a request for a domain is answered (R487). -/
def domainAns (s : State) : Ans :=
  match s.crm.get F.AON_PWR_RESULT_RESULT with
  | 0 => ansOk
  | _ => .done mSTATE (s.crm.get F.AON_PWR_RESULT_DOMAIN * 256 + s.crm.get F.AON_PWR_RESULT_BLOCK) []

/-- domain_set: `mute` and `pg` as for PWR_REQUEST. -/
def domainCmd (b : Fin 6) (mute : Nat) (pg : Bool) (q : Req) (s : State) : State × Ans :=
  let d := q.at_ 1 1
  if 9 < d then (s, ansErr mARG)
  else if s.crm.flag F.AON_PWR_RESULT_BUSY then (s, ansErr mBUSY)
  else
    let s := s.pwrWrite (2147483648 + d * 65536 + b * 256 + q.at_ 2 1) mute pg
    if s.crm.flag F.AON_PWR_RESULT_BUSY then (s, .wait 4) else (s, s.domainAns)

/-- vcore_set (R494). -/
def vcoreCmd (b : Fin 6) (q : Req) (s : State) : State × Ans :=
  if !s.voltOk b (q.at_ 1 1) (q.at_ 2 2) then (s, ansErr mARG)
  else if s.crm.flag (F.AON_VSTAT_BUSY b) then (s, ansErr mBUSY)
  else (s.vreqWrite b (2147483648 + q.at_ 1 1 * 1073741824 + q.at_ 2 2), .wait 3)

/-- dram_speed (R387). -/
def dramSpeedCmd (b : Fin 6) (q : Req) (s : State) : State × Ans :=
  let y := s.byre b
  if y.flag F.DRAM_STATUS_PEND then (s.regWrite b .mp R.DRAM_CMD (536870912 + q.at_ 1 1), ansErr mBUSY)
  else if !s.on b domDRM || !(y.training || y.dst == drREADY) then (s, ansErr mSTATE)
  else (s.regWrite b .mp R.DRAM_CMD (536870912 + q.at_ 1 1), .wait 2)

/-- The policy record of byre `b` (R499). -/
def policyOf (q : Req) (b : Nat) : Policy :=
  ⟨q.at_ (8 * b) 2, q.at_ (8 * b + 2) 2, q.at_ (8 * b + 4) 2, bit (q.at_ (8 * b + 6) 1) 0⟩

/-- power_policy. -/
def policyCmd (q : Req) (s : State) : State × Ans :=
  let bad := (List.range 6).any fun b =>
    [Byre.stREADY, Byre.stHELD].any fun st => !depOk (policyTarget (policyOf q b) st)
  if bad then (s, ansErr mARG)
  else
    (s.onCrm fun c => { c with policy := (List.range 6).foldl (fun m b => SMap.set (fun _ => none) m b (some (policyOf q b))) c.policy },
     ansOk)

/-! ### Audit (R461, R464) -/

/-- A record as its 64 bytes; LINK reads erased until it is written. -/
def recBytes (r : AuditRec) : List Byte := r.head ++ r.link.getD (List.replicate 16 0xFF#8)

/-- audit_status. -/
def auditStatus (s : State) : List Byte :=
  let a := s.crm.audit
  let old := (a.recs.head?).elim a.next (·.seq)
  le4 ((a.recs.getLast?).elim 0 (·.seq)) ++
    ((a.recs.getLast?).elim (List.replicate 16 0#8) fun r => r.link.getD (List.replicate 16 0xFF#8)) ++
    le4 a.recs.length ++ le4 (max a.exported old) ++ leBytes 1 (b2n a.wrap) ++ leBytes 3 0 ++ le4 a.refused ++ le4 a.erased

/-- LINK of the record before number `n`. -/
def linkBefore (s : State) (n : Nat) : List Byte :=
  let a := s.crm.audit
  if n = 0 then s.crm.firstLink
  else (a.recs.find? fun r => r.seq + 1 == n).elim a.prev fun r => r.link.getD (List.replicate 16 0xFF#8)

/-- audit_export (R464). -/
def auditExportCmd (q : Req) (s : State) : State × Ans :=
  let first := q.at_ 0 4
  let a := s.crm.audit
  let old := (a.recs.head?).elim a.next (·.seq)
  if first < old ∨ a.next < first then (s, ansErr mARG)
  else
    s.withBuf q 8 (2 ^ 32) (some []) fun _ =>
      let l := (a.recs.filter fun r => decide (first ≤ r.seq)).take (min 4096 (q.at_ 16 4 / 64))
      let up := match l.getLast? with | some r => max a.exported (r.seq + 1) | none => a.exported
      (s.onCrm fun c => { c with host := Mem.put c.host (q.at_ 8 8) (l.flatMap recBytes), audit := { a with exported := up } },
       .done mOK 0 (le4 l.length ++ s.linkBefore first))

/-! ### Diagnosis -/

/-- reg_read. -/
def regReadCmd (b : Fin 6) (q : Req) (s : State) : State × Ans :=
  let o := q.at_ 4 4
  let n := q.at_ 8 2
  if o % 4 ≠ 0 ∨ n = 0 ∨ 1020 < n ∨ 0x1000000 < o + 4 * n then (s, ansErr mARG)
  else s.answerRegs b ((List.range n).map fun i => o + 4 * i)

/-- reg_write. -/
def regWriteCmd (b : Fin 6) (q : Req) (s : State) : State × Ans :=
  let o := q.at_ 4 4
  if o % 4 ≠ 0 ∨ 0x1000000 ≤ o then (s, ansErr mARG) else (s.regWrite b .mp o (q.at_ 8 4), ansOk)

/-- debug_unlock (R459). -/
def unlockCmd (s : State) : State × Ans :=
  if bit (s.crm.otpWord 0xA8).toNat 0 then (s, ansErr mSTATE) else (s.onSess fun c => { c with dbg := true }, ansOk)

/-- debug_halt and debug_resume: engine and thread, under unlock. -/
def debugCmd (b : Fin 6) (resume : Bool) (q : Req) (s : State) : State × Ans :=
  let e := q.at_ 1 1
  let t := q.at_ 2 1
  if 31 < e ∨ 7 < t then (s, ansErr mARG)
  else if !s.crm.dbg || !s.on b (domCL + clusterOf e) || !((s.byre b).engine e).on ||
      (resume && !((s.byre b).thread e t).halted) then (s, ansErr mSTATE)
  else (s.onByre b fun y => if resume then y.debugResume e t else y.debugHalt e t, ansOk)

/-- scratch_read, through the indirect registers. -/
def scratchCmd (b : Fin 6) (q : Req) (s : State) : State × Ans :=
  let e := q.at_ 1 1
  let o := q.at_ 4 4
  let n := q.at_ 8 2
  if 31 < e ∨ n = 0 ∨ 1020 < n ∨ 0x8000 < o + n then (s, ansErr mARG)
  else
    let old := (s.byre b).flag F.ROTA_IND_STATUS_PERR
    let s := s.onByre b fun y =>
      ((y.put F.ROTA_IND_STATUS_PERR false).set F.ROTA_IND_ADDR_ENGINE e).set F.ROTA_IND_ADDR_OFFSET o
    let (bs, s) := s.readRegs b (List.replicate n R.ROTA_IND_DATA)
    let perr := (s.byre b).flag F.ROTA_IND_STATUS_PERR
    (s.onByre b fun y => y.put F.ROTA_IND_STATUS_PERR (old || perr), .done mOK (b2n perr) bs)

/-- temp_read: `temps` holds the junction temperatures of byres 0 to 5 and of the creamery, 2 bytes each in 1/16 °C. -/
def tempCmd (temps : List Byte) (s : State) : State × Ans :=
  let t := fun i => leNat ((temps.drop (2 * i)).take 2)
  let s := allB.foldl (fun s b => s.onFab b fun y =>
    (y.set F.PWR_TEMP_TEMP (t b)).put F.PWR_TEMP_HOT (decide (1840 < sgn 16 (t b)))) s
  (s, .done mOK 0 (allB.flatMap (fun b => le4 (if s.on b domFAB then (s.byre b).rdN R.PWR_TEMP else 0)) ++
    le4 (pat 32 (sgn 16 (t 6)))))

/-- fuse_program (R450, R451): LIFECYCLE and DBG_PERM are the fields it writes outside BLANK. -/
def fuseCmd (q : Req) (s : State) : State × Ans :=
  let o := q.at_ 0 4
  let v := q.at_ 4 4
  let cur := (s.crm.otpWord o).toNat
  let legal := (o == 0 && (v == 1 || v == 3 || v == 7 || v == 15)) || (o == 0xA8 && v == 1)
  if s.crm.flag F.AON_PFAIL_STAT_PFAIL then (s, ansErr mSTATE)
  else if !legal || cur &&& v != cur then (s, ansErr mARG)
  else
    (s.onSess fun c =>
      let old := c.lifecycle
      let c := c.otpBlow o (BitVec.ofNat 32 v)
      if c.lifecycle = old then c else c.closeSess fun _ => true, ansOk)

/-! ### Firmware (R446 to R448) -/

/-- fw_status. -/
def fwStatus (s : State) : List Byte :=
  let c := s.crm
  [0, 1].flatMap (fun n =>
    let im := c.fwImage n
    leBytes 1 (b2n (c.fwCheck im).isNone) ++ leBytes 1 (b2n (c.failed.contains n)) ++ leBytes 2 0 ++ le4 (imgVersion im) ++
      le4 (imgSvn im) ++ le4 0) ++
    leBytes 1 c.prefer ++ leBytes 1 (b2n c.trial) ++ leBytes 1 c.attempts ++ leBytes 1 c.fwSvn ++ leBytes 1 c.mcSvn ++ leBytes 3 0

/-- fw_update of an image; its parts are the 64 KiB blocks of the image, and an ABORT between them leaves the slot invalid (R415, R428). -/
def fwUpdate (s : State) (im : List Byte) (cut : Nat → State → Option Nat × State) : State × Ans :=
  match s.crm.fwCheck im with
  | some (st, det) => (s, .done st det [])
  | none =>
    if !declares im 1 stepping then (s, ansErr mCOMPAT)
    else
      let n := if s.crm.mode = 2 then 0 else 1 - s.crm.slot
      match cut ((im.length + 65535) / 65536) s with
      | (some 0, s) => (s, ansErr mABORT)
      | (some _, s) => (s.onCrm fun c => { c with fw := SMap.set (fun _ => []) c.fw n [] }, ansErr mABORT)
      | (none, s) => (s.onCrm fun c => { c with fw := SMap.set (fun _ => []) c.fw n im, failed := c.failed.filter (· != n) }, ansOk)

/-- fw_activate. -/
def fwActivate (s : State) : State × Ans :=
  if s.crm.trial then (s, ansErr mSTATE)
  else (s.onCrm fun c => { c with prefer := 1 - c.slot, trial := true, attempts := 0 }, ansOk)

/-- The lowest SVN in the microcode store, where it holds an image. -/
def mcFloor (c : Creamery) : Option Nat := (c.ucodeStore.map fun p => imgSvn p.2).min?

/-- fw_commit. -/
def fwCommit (s : State) : State × Ans :=
  if s.crm.trial || s.crm.flag F.AON_PFAIL_STAT_PFAIL then (s, ansErr mSTATE)
  else
    let s := s.onCrm fun c =>
      (c.fuseRaise 0x70 (imgSvn (c.fwImage c.slot))).fuseRaise 0x78 ((mcFloor c).getD 0)
    (s, .done mOK 0 (leBytes 1 s.crm.fwSvn ++ leBytes 1 s.crm.mcSvn ++ leBytes 2 0))

end State

/-! ### Commands -/

/-- REC_CONFIG. -/
def execRecConfig (n : Fin 8) (s : State) : Host.Outcome State Fault Refusal := .next (s.byreCmd n 0x0A01 State.configCmd)

/-- REC_TRIGGER (R396). -/
def execRecTrigger (n : Fin 8) (s : State) : Host.Outcome State Fault Refusal :=
  .next (s.byreCmd n 0x0A02 fun b q s => (s.after (execRecCmdTrigger b .mp (BitVec.ofNat 16 (q.at_ 2 2)) s), ansOk))

/-- REC_EXPORT (R398). -/
def execRecExport (n : ExportSlot) (s : State) : Host.Outcome State Fault Refusal :=
  .next (s.byreCmd n.n 0x0A03 fun b _ s => State.recExport b s fun k s => s.abortPart n.n n.part k)

/-- REC_REARM (R398). -/
def execRecRearm (n : Fin 8) (s : State) : Host.Outcome State Fault Refusal :=
  .next (s.byreCmd n 0x0A04 fun b _ s =>
    (s.after (execRecCmdRearm b .mp (BitVec.ofNat 16 ((s.byre b).get F.DRAM_REC_CMD_CODE)) s), ansOk))

/-- REC_STATUS. -/
def execRecStatus (n : Fin 8) (s : State) : Host.Outcome State Fault Refusal :=
  .next (s.byreCmd n 0x0A05 fun b _ s => s.answerRegs b (R.DRAM_REC_STATE :: regsIn R.DRAM_REC_WR R.DRAM_REC_TRIG_K))

/-- POWER_STATUS; `readings` are what the regulators answer. -/
def execPowerStatus (n : Fin 8) (readings : List Byte) (s : State) : Host.Outcome State Fault Refusal :=
  .next (s.command n 0x0B01 fun _ s => (s.readRails, .done mOK 0 (s.powerStatus readings)))

/-- DOMAIN_SET (R487); `mute` and `pgood` as for PWR_REQUEST. -/
def execDomainSet (n : Fin 8) (mute : BitVec 8) (pgood : Bool) (s : State) : Host.Outcome State Fault Refusal :=
  .next (s.byreCmd n 0x0B02 fun b q s => State.domainCmd b mute.toNat pgood q s)

/-- VCORE_SET (R494): the request goes out; VOLTAGE_REQUEST_DONE or VREQ_TIMEOUT ends the command. -/
def execVcoreSet (n : Fin 8) (s : State) : Host.Outcome State Fault Refusal := .next (s.byreCmd n 0x0B03 State.vcoreCmd)

/-- DRAM_SPEED (R387): TRAINING_END or LOAD_END ends the command. -/
def execDramSpeed (n : Fin 8) (s : State) : Host.Outcome State Fault Refusal := .next (s.byreCmd n 0x0B04 State.dramSpeedCmd)

/-- POWER_POLICY (R499). -/
def execPowerPolicy (n : Fin 8) (s : State) : Host.Outcome State Fault Refusal := .next (s.command n 0x0B05 State.policyCmd)

/-- PFAIL_CONFIG (R497). -/
def execPfailConfig (n : Fin 8) (s : State) : Host.Outcome State Fault Refusal :=
  .next (s.command n 0x0B06 fun q s => (s.onCrm fun c => c.wrN R.AON_PFAIL_CFG (q.at_ 0 4), ansOk))

/-- AUDIT_STATUS (R461). -/
def execAuditStatus (n : Fin 8) (s : State) : Host.Outcome State Fault Refusal :=
  .next (s.command n 0x0C01 fun _ s => (s, .done mOK 0 s.auditStatus))

/-- AUDIT_EXPORT (R464). -/
def execAuditExport (n : Fin 8) (s : State) : Host.Outcome State Fault Refusal := .next (s.command n 0x0C02 State.auditExportCmd)

/-- AUDIT_WRAP (R464). -/
def execAuditWrap (n : Fin 8) (s : State) : Host.Outcome State Fault Refusal :=
  .next (s.command n 0x0C03 fun q s => (s.onCrm fun c => { c with audit := { c.audit with wrap := q.at_ 0 1 == 1 } }, ansOk))

/-- REG_READ. -/
def execRegRead (n : Fin 8) (s : State) : Host.Outcome State Fault Refusal := .next (s.byreCmd n 0x0D01 State.regReadCmd)

/-- REG_WRITE. -/
def execRegWrite (n : Fin 8) (s : State) : Host.Outcome State Fault Refusal := .next (s.byreCmd n 0x0D02 State.regWriteCmd)

/-- DEBUG_UNLOCK (R459). -/
def execDebugUnlock (n : Fin 8) (s : State) : Host.Outcome State Fault Refusal :=
  .next (s.command n 0x0D03 fun _ s => s.unlockCmd)

/-- DEBUG_HALT (R481). -/
def execDebugHalt (n : Fin 8) (s : State) : Host.Outcome State Fault Refusal :=
  .next (s.byreCmd n 0x0D04 fun b q s => State.debugCmd b false q s)

/-- DEBUG_RESUME (R481). -/
def execDebugResume (n : Fin 8) (s : State) : Host.Outcome State Fault Refusal :=
  .next (s.byreCmd n 0x0D05 fun b q s => State.debugCmd b true q s)

/-- DEBUG_FREEZE (R82). -/
def execDebugFreeze (n : Fin 8) (s : State) : Host.Outcome State Fault Refusal :=
  .next (s.byreCmd n 0x0D06 fun b q s =>
    if s.crm.dbg then (s.regWrite b .mp R.CHURN_CTRL (b2n (q.at_ 1 1 == 1)), ansOk) else (s, ansErr mSTATE))

/-- SCRATCH_READ. -/
def execScratchRead (n : Fin 8) (s : State) : Host.Outcome State Fault Refusal := .next (s.byreCmd n 0x0D07 State.scratchCmd)

/-- TEMP_READ; `temps` are the junction temperatures. -/
def execTempRead (n : Fin 8) (temps : List Byte) (s : State) : Host.Outcome State Fault Refusal :=
  .next (s.command n 0x0D08 fun _ s => State.tempCmd temps s)

/-- FUSE_PROGRAM (R451). -/
def execFuseProgram (n : Fin 8) (s : State) : Host.Outcome State Fault Refusal := .next (s.command n 0x0D09 State.fuseCmd)

/-- FACTORY_TEST: lifecycle MAKER; what a test does and answers is the factory's. -/
def execFactoryTest (n : Fin 8) (s : State) : Host.Outcome State Fault Refusal :=
  .next (s.command n 0x0D0A fun q s =>
    if s.crm.lifecycle ≠ Creamery.lcMAKER then (s, ansErr mSTATE)
    else (s.onCrm fun c => { c with free := c.free + 1 }, .done mOK 0 ((Config.factory (q.at_ 0 4) s.crm.free).take 4080)))

/-- FW_STATUS. -/
def execFwStatus (n : Fin 8) (s : State) : Host.Outcome State Fault Refusal :=
  .next (s.command n 0x0E01 fun _ s => (s, .done mOK 0 s.fwStatus))

/-- FW_UPDATE (R447): in recovery the boot ROM resets the creamery after its response. -/
def execFwUpdate (n : Fin 8) (host : HostRead) (s : State) : Host.Outcome State Fault Refusal :=
  .next (s.commandThen n 0x0E02 (fun q s =>
    if s.crm.trial then (s, ansErr mSTATE) else s.withBuf q 0 0x400000 host.bytes fun im => s.fwUpdate im fun k s => s.abortPart n host.part k)
    fun s => if s.crm.mode = 2 then s.crmReset 4 else s)

/-- FW_ACTIVATE (R446): the response, then the reset. -/
def execFwActivate (n : Fin 8) (s : State) : Host.Outcome State Fault Refusal :=
  .next (s.commandThen n 0x0E03 (fun _ s => s.fwActivate) fun s => s.crmReset 4)

/-- FW_COMMIT (R448). -/
def execFwCommit (n : Fin 8) (s : State) : Host.Outcome State Fault Refusal := .next (s.command n 0x0E04 fun _ s => s.fwCommit)

end Sys2Proof.Machine
end

