-- ==== Sys2Proof/Machine/Start.lean ====
section
/-!
DEFINITION. The start of the firmware (R14, R446, R449, R452, R462), and the ends of what mailbox commands wait for: entry
handshakes, voltage requests, training and loading (R387, R412, R487, R488, R494, R495).
-/

namespace Sys2Proof.Machine

namespace State

/-! ### Ends of waits -/

/-- The stalled handshake ends, and a domain_set that waits for it is answered (R487). -/
def shakeAns (s : State) (h : Shake) (blk res : Nat) : State :=
  (s.shakeEnd h blk res).endWait 4 h.unit mSTATE (h.dom * 256 + blk) []

/-- HANDSHAKE_TIMEOUT: a mute block refuses after 2 µs, and the blocks already stopped run again, one per AON cycle. -/
def shakeTimeout (s : State) : State :=
  match s.crm.shake with
  | none => s
  | some h =>
    let i := ((domBlocks h.dom).idxOf h.block) % (domBlocks h.dom).length
    (s.onCrm fun c => { c with clk := max c.clk (h.at_ + 2000) + i * 40 }).shakeAns h h.block 1

/-- WAKE_EVENT of input `i`, whose level is now `high`; a handshake that it ends is answered (R488, R490). -/
def wakeEvent (s : State) (b : Fin 6) (i : Nat) (high pg : Bool) : State :=
  let s := s.onCrm fun c => { c with wakePin := SMap.set (fun _ => false) c.wakePin (b * 4 + i) high }
  let t := s.wake b i pg
  match s.crm.shake, t.crm.shake with
  | some h, none => t.endWait 4 h.unit mSTATE (h.dom * 256 + 0xF1) []
  | _, _ => t

/-- A voltage request that has not completed 2 ms after GO (R495). -/
def vreqTimeout (s : State) (b : Fin 6) (acked pg : Bool) : State :=
  match SMap.get (fun _ => none) s.crm.vreq b with
  | none => s
  | some r =>
    let more := if acked then 4000000 else 2000000
    let prev := s.railMv b r.rail
    let s := s.onCrm fun c => { (if acked then c.pbVolt b r.rail prev else c) with clk := max c.clk (r.at_ + more) }
    if acked && !pg then ((s.vreqEnd b 2).pgoodLost b).endWait 3 b mHW 14 []
    else
      let s := if acked then s.onCrm fun c => c.put (F.AON_VSTAT_PGOOD b) true else s
      (s.vreqEnd b 1).endWait 3 b mTIMEOUT 0 []

/-- A voltage request completes within 2 ms (R494). -/
def vreqComplete (s : State) (b : Fin 6) (dt : Nat) : State :=
  let s := s.onCrm fun c => c.tick dt
  match SMap.get (fun _ => none) s.crm.vreq b with
  | none => s
  | some r =>
    if r.at_ + 2000000 < s.crm.clk then s
    else
      let s := (s.onCrm fun c => c.put (F.AON_VSTAT_PGOOD b) true).vreqDone b r
      s.endWait 3 b mOK 0 (le4 (s.aonWord (R.AON_VSTAT b)))

/-- A training or load ends, `dt` ns later; a dram_speed that waits is answered after the final step (R387). -/
def runEnds (s : State) (b : Fin 6) (train : Bool) (dt fail mib : Nat) : State :=
  if s.on b domDRM && s.on b domFAB && (s.byre b).dst == (if train then drTRAINING else drLOADING) then
    let s := s.onByre b fun y => (y.advance dt).runEnd train fail mib
    let y := s.byre b
    if y.training then s
    else if y.dst = drREADY then s.endWait 2 b mOK 0 (le4 (y.rdN R.DRAM_STATUS))
    else s.endWait 2 b mHW 12 []
  else s

/-! ### The start of the firmware -/

/-- Records left open by a power loss or a reset are completed with STATUS 0xFE (R462). -/
def closeRecords (c : Creamery) : Creamery :=
  (c.audit.recs.filter fun r => !Creamery.recDone r).foldl (fun c r => c.auditDone r.seq 0xFE 0xFFFF) c

/-- The firmware is back: a byre's waiting events go out, then what was skipped and dropped meanwhile (R14). -/
def creameryBack (s : State) (b : Fin 6) : State :=
  if s.on b domFAB then
    (s.drain b).onByre b fun y =>
      { y.event 0x12 (le4 y.hostSkips ++ le4 y.evDrop) with hostSkips := 0, evDrop := 0 }
  else s

/-- A failing autostart step leaves the byre as it is, with an event (R449, R482). -/
def autoFail (s : State) (b : Fin 6) : State := s.onByre b fun y => y.stateEvent (s.fwSt b) (s.fwSt b) 8 0 0 0 0

/-- Steps 4 and 5 of R449: the package goes into the standby bank, is armed for the next second, and the byre starts with it. -/
def autoPackage (s : State) (b : Fin 6) (slot : Nat) : State :=
  let (s, a) := s.loadPackage b (s.package b slot) (slot + 1) fun _ s => (none, s)
  match a with
  | .done 0 _ _ =>
    let y := s.byre b
    let t := y.tu.sec + 1
    let s := s.writeRegs b [(R.CHURN_ARM_SEC, t % 2 ^ 32), (R.CHURN_ARM_K, 0), (R.CHURN_ARM, 1)]
    if (s.byre b).ch.arm.isNone then s.autoFail b
    else s.onByre b fun y => { y with ch := { y.ch with startPend := true } }
  | _ => s.autoFail b

/-- The autostart of one byre (R449); `pg` says that its rails come up. -/
def autostartOf (s : State) (b : Fin 6) (pg : Bool) : State :=
  let e := SMap.get (fun _ => 0) s.crm.autostart b
  let st := s.fwSt b
  if e = 0 ∨ !(st = Byre.stOFF ∨ st = Byre.stHELD) then s
  else
    let s := (s.byreReq b domTIME 2 0 pg).2
    let s := (s.byreReq b domFAB 2 0 pg).2
    let s := s.policyApply b Byre.stHELD pg
    if !s.on b domFAB then s.autoFail b
    else
      match s.loadMicrocode b (SMap.get (fun _ => []) s.crm.ucodeStore b) fun _ s => (none, s) with
      | (s, .done 0 _ _) =>
        match s.release b with
        | (s, .done 0 _ _) => s.autoPackage b (e - 1)
        | (s, _) => s.autoFail b
      | (s, _) => s.autoFail b

/-- FIRMWARE_START: the image that the boot ROM started runs.  In RETIRED the byres are kept OFF (R452): those that are not go off. -/
def firmwareStart (s : State) (pg : Nat) : State :=
  if s.crm.mode ≠ 3 ∨ s.crm.up then s
  else
    let retired := s.crm.lifecycle == Creamery.lcRETIRED
    let s := s.onCrm fun c =>
      let c := closeRecords { c with up := true }
      if retired then { c with chain := [], secret := none } else c
    let s := allB.foldl creameryBack s
    let s := if retired then allB.foldl byreDark s
      else allB.foldl (fun s b => s.autostartOf b (bit pg b)) (allB.foldl policySync s)
    s.onCrm fun c => { c with trial := false }

end State

/-! ### Commands -/

/-- FIRMWARE_START (R449); bit b of `pgood` says that the rails of byre b come up. -/
def execFirmwareStart (pgood : BitVec 6) (s : State) : Host.Outcome State Fault Refusal := .next (s.firmwareStart pgood.toNat)

/-- HANDSHAKE_TIMEOUT (R487). -/
def execHandshakeTimeout (s : State) : Host.Outcome State Fault Refusal := .next s.shakeTimeout

/-- WAKE_EVENT (R490): the level of wake input `i` becomes `pgood.high`. -/
def execWakeEvent (b : Fin 6) (i : Fin 4) (dt : Nat) (pgood : WakeLevel) (s : State) : Host.Outcome State Fault Refusal :=
  .next ((s.onCrm fun c => c.tick dt).wakeEvent b i pgood.high pgood.pgood)

/-- VREQ_TIMEOUT (R495): `acked` says that every byte was acknowledged, `pgood` that Bn_PGOOD is high again at the end. -/
def execVreqTimeout (b : Fin 6) (acked pgood : Bool) (s : State) : Host.Outcome State Fault Refusal :=
  .next (s.vreqTimeout b acked pgood)

/-- VOLTAGE_REQUEST_DONE (R494). -/
def execVoltageRequestDone (b : Fin 6) (dt : Nat) (s : State) : Host.Outcome State Fault Refusal := .next (s.vreqComplete b dt)

/-- TRAINING_END (R385): `fail` names the channels that failed, `mib` the usable size. -/
def execTrainingEnd (b : Fin 6) (dt : Nat) (fail : BitVec 2) (mib : BitVec 16) (s : State) : Host.Outcome State Fault Refusal :=
  .next (s.runEnds b true dt fail.toNat mib.toNat)

/-- LOAD_END (R386). -/
def execLoadEnd (b : Fin 6) (dt : Nat) (fail : BitVec 2) (mib : BitVec 16) (s : State) : Host.Outcome State Fault Refusal :=
  .next (s.runEnds b false dt fail.toNat mib.toNat)

end Sys2Proof.Machine
end

