-- ==== Sys2Proof/Machine/Bus.lean ====
section
/-!
DEFINITION. Reads and writes of any management address (R7 to R9, R25 to R29, R401, R402, R404) and of the host window (R405).
-/

namespace Sys2Proof.Machine

namespace Creamery

/-- What a write does to the word of a creamery or AON register (R7, R9), and whether it held a reserved encoding. -/
def applyFlds : List FldD → Nat → Nat → Nat × Bool
  | [], old, _ => (old, false)
  | f :: fs, old, new =>
    let v := bits new f.hi f.lo
    match f.acc with
    | .rw =>
      if f.legal v then applyFlds fs (insBits old f.hi f.lo v) new else ((applyFlds fs old new).1, true)
    | .w1c =>
      let o := bits old f.hi f.lo
      applyFlds fs (insBits old f.hi f.lo (o - (o &&& v))) new
    | _ => applyFlds fs old new

/-- A byte of the boot flash read window, at flash offset `o` (R439): firmware slots, microcode store, and that part of the package
store that the window shows; every other byte is what the flash holds there. -/
def flashByte (c : Creamery) (o : Nat) : Byte :=
  let of := fun (im : List Byte) (k : Nat) => im.getD k (Config.romByte (0x8000000 + o))
  if 0x100000 ≤ o ∧ o < 0x500000 then of (c.fwImage 0) (o - 0x100000)
  else if 0x500000 ≤ o ∧ o < 0x900000 then of (c.fwImage 1) (o - 0x500000)
  else if 0x1000000 ≤ o ∧ o < 0x1C00000 then
    of (SMap.get (fun _ => []) c.ucodeStore ((o - 0x1000000) / 0x200000)) ((o - 0x1000000) % 0x200000)
  else if 0x1C00000 ≤ o then of (SMap.get (fun _ => []) c.packages ((o - 0x1C00000) / 0x100000)) ((o - 0x1C00000) % 0x100000)
  else Config.romByte (0x8000000 + o)

/-- A plain memory range of BAR index 0 (R404): mailbox buffers, event entries, MSI-X table and pending bits. -/
def bar0Mem (a : Nat) : Bool :=
  (decide (0x2010000 ≤ a) && decide (a < 0x2020000)) || (decide (0x2022000 ≤ a) && decide (a < 0x2024000)) ||
  (decide (0x2070000 ≤ a) && decide (a < 0x2070400)) || (decide (0x2071000 ≤ a) && decide (a < 0x2071008))

/-- A word of plain memory. -/
def memWord (c : Creamery) (a : Nat) : Nat := leNat (Mem.read c.mem a 4)

/-- Store a word of plain memory, whose parity it renews. -/
def putWord (c : Creamery) (a v : Nat) : Creamery :=
  { c with mem := Mem.write c.mem a (leBytes 4 v), badPar := c.badPar.filter (· != a) }

end Creamery

namespace State

/-! ### Reads -/

/-- A refused read: 0, with the error recorded. -/
def readErr (s : State) (e : BusErr) (m : Master) (a : Nat) : State := { s.busErr e m false a with busRd := 0#32 }

/-- The data of a read. -/
def readAs (s : State) (v : Nat) : State := { s with busRd := BitVec.ofNat 32 v }

/-- A read of a creamery or AON register: fields of type RC clear (R7, R8). -/
def crmRegRead (s : State) (m : Master) (a : Nat) : State :=
  match crmReg (a / 4 * 4) with
  | none => s.readErr .unmapped m a
  | some r =>
    if a % 4 ≠ 0 then s.readErr .align m a
    else
      let v := s.aonWord a &&& Byre.readMask r.flds
      let v := match arrIdx a (R.CRM_TNK_LIVE 0 7) 0x100 8 with
        | some n => (s.crm.chan n).liveCount s.crm.free v
        | none => v
      let v := match arrIdx a (R.CRM_LOCK_ACQ 0) 4 64 with
        | some l =>
          let ok := (crmLockRight (.mgmt m)).elim false fun k => bit (s.crm.rdN (R.CRM_LOCK_GRP_RIGHTS (l / 16))) k
          v % 2 ^ 31 + (if ok then 0 else 2 ^ 31)
        | none => v
      (s.onCrm fun c => r.flds.foldl (fun c f =>
        if f.acc = .rc then c.wrN a (insBits (c.rdN a) f.hi f.lo 0) else c) c).readAs v

/-- What stops a read of a byte through the host page map (R405). -/
def windowErr (s : State) (p : Nat) : Option BusErr :=
  if !s.crm.flag (F.CRM_HWIN_MAP_EN p) then some .unmapped
  else if h : s.crm.get (F.CRM_HWIN_MAP_BYRE p) < 6 then
    let b : Fin 6 := ⟨_, h⟩
    if !s.on b domFAB then some .domainOff
    else if !(s.byre b).bankOpen (s.crm.get (F.CRM_HWIN_MAP_BANK p)) 0x20 then some .notOwner
    else none
  else some .unmapped

/-- The byte at offset `o` of a mapped page. -/
def windowByte (s : State) (p o : Nat) : Nat :=
  if h : s.crm.get (F.CRM_HWIN_MAP_BYRE p) < 6 then
    leNat ((s.byre ⟨_, h⟩).vatRead (s.crm.get (F.CRM_HWIN_MAP_BANK p) * 0x40000 + o) 1)
  else 0

/-- A read of `n` bytes through the host page map. -/
def windowRead (s : State) (m : Master) (p o n : Nat) : State :=
  match s.windowErr p with
  | some e => s.readErr e m (0x4000000 + p * 0x40000 + o)
  | none => s.readAs (((List.range n).map fun i => s.windowByte p (o + i) * 2 ^ (8 * i)).sum)

/-- Is the master the host? -/
def isHost (m : Master) : Bool := m == .bar0 || m == .bar2

/-- A read of a word at a management address (R25, R28). -/
def busRead (s : State) (m : Master) (a : Nat) : State :=
  if !reaches m a then s.readErr .unmapped m a
  else if a < 0x10000 then s.readAs (leNat ((List.range 4).map fun i => Config.romByte (a + i)))
  else if 0x400000 ≤ a ∧ a < 0x800000 then
    (if m = .mp then s.readAs (s.crm.memWord a) else s.readErr .unmapped m a)
  else if 0x2000000 ≤ a ∧ a < 0x4000000 then
    (if Creamery.bar0Mem a then s.readAs (s.crm.memWord a) else s.crmRegRead m a)
  else if 0x4000000 ≤ a ∧ a < 0x8000000 then s.windowRead m ((a - 0x4000000) / 0x40000) (a % 0x40000) 4
  else if 0x8000000 ≤ a ∧ a < 0xC000000 then
    s.readAs (leNat ((List.range 4).map fun i => s.crm.flashByte (a - 0x8000000 + i)))
  else if 0xC000000 ≤ a ∧ a < 0xC010000 then s.readAs (s.crm.otpWord (a % 0x10000 / 4 * 4)).toNat
  else if 0xD000000 ≤ a ∧ a < 0xD010000 then s.crmRegRead m a
  else if h : 0x10000000 ≤ a ∧ a < 0x16000000 then s.regRead ⟨(a - 0x10000000) / 0x1000000, by omega⟩ m (a % 0x1000000)
  else s.readErr .unmapped m a

/-! ### Writes -/

/-- A write of a register's fields; a reserved encoding of an AON register is flagged (R9). -/
def crmFlds (s : State) (a v : Nat) : State :=
  match crmReg a with
  | none => s
  | some r =>
    let (w, bad) := Creamery.applyFlds r.flds (s.crm.rdN a) v
    let s := s.onCrm fun c => c.wrN a w
    if bad && decide (0xD000000 ≤ a) then s.aonRsv a else s

/-- A write of CRM_TNK_CTRL by its bits: DISABLE, ARM, DOORBELL, ABORT (R299 to R304, R425). -/
def crmTnkCtrl (s : State) (m : Master) (n v : Nat) : State :=
  let k := Fin.ofNat 24 (16 + n)
  let s := if bit v 31 = (s.crm.chan n).disabled then s
    else s.after (if bit v 31 then execTnkDisable 0 m k s else execTnkDisableClear 0 m k s)
  let s := if bit v 0 then s.after (execTnkArm 0 m k s) else s
  let s := if bit v 1 then s.after (execTnkDoorbell 0 m k s) else s
  if bit v 2 then
    let f := s.crm.free
    let t := s.onCrm fun c => { c with free := f + 1 }
    t.after (execTnkAbort 0 m k (Config.moved f) ((List.range (s.crm.chan n).desc.len).map (Config.lostByte f)) t)
  else s

/-- A write of a mailbox doorbell (R411): ABORT, ACK and RING, in that order. -/
def doorbell (s : State) (n v : Nat) : State :=
  let s := if bit v 2 then s.abort n else s
  let s := if bit v 1 then s.ack n else s
  if bit v 0 then s.ring n else s

/-- A write to a creamery register by the management processor or JTAG. -/
def crmRegWrite (s : State) (m : Master) (a v : Nat) : State :=
  if (crmReg (a / 4 * 4)).isNone then s.busErr .unmapped m true a
  else if a % 4 ≠ 0 then s.busErr .align m true a
  else
    let d := a - R.CRM_TNK_SH 0 0
    match arrIdx a (R.CRM_MB_DOORBELL 0) 0x10 8, arrIdx a (R.CRM_LOCK_ACQ 0) 4 64, arrIdx a (R.CRM_LOCK_REL 0) 4 64,
      arrIdx a (R.CRM_TNK_CTRL 0) 0x100 8 with
    | some n, _, _, _ => s.doorbell n v
    | _, some l, _, _ => s.after (execLockAcquire 0 true (.mgmt m) (Fin.ofNat 256 l) (BitVec.ofNat 32 v) s)
    | _, _, some l, _ => s.after (execLockRelease 0 true (.mgmt m) (Fin.ofNat 256 l) s)
    | _, _, _, some n => s.crmTnkCtrl m n v
    | none, none, none, none =>
      if R.CRM_TNK_SH 0 0 ≤ a ∧ d < 0x800 ∧ d % 0x100 < 0x20 then
        s.after (execTnkShadowWrite 0 m (Fin.ofNat 24 (16 + d / 0x100)) (Fin.ofNat 8 (d % 0x100 / 4)) (BitVec.ofNat 32 v) s)
      else s.crmFlds a v

/-- Is a register one of those that the host may write (R402)? -/
def hostTarget (a : Nat) : Bool :=
  (arrIdx a (R.CRM_MB_DOORBELL 0) 0x10 8).isSome || (arrIdx a (R.CRM_MB_STATUS 0) 0x10 8).isSome ||
  (arrIdx a (R.CRM_MB_CFG 0) 0x10 8).isSome || (arrIdx a (R.CRM_EXP_TAIL 0) 0x40 32).isSome || a == R.CRM_EVQ_RD ||
  a == R.CRM_EVQ_CFG || a == R.CRM_BUS_ERR || (arrIdx a (R.CRM_LOCK_ACQ 0) 4 64).isSome || (arrIdx a (R.CRM_LOCK_REL 0) 4 64).isSome

/-- A host write through BAR index 0 (R402): applied to the targets of its list, and refused as a write to a read-only range
otherwise. -/
def hostWrite (s : State) (a v : Nat) : State :=
  let mbBuf := (a - 0x2010000) / 0x2000
  let buf := decide (0x2010000 ≤ a) && decide (a < 0x2020000)
  if buf then
    (if (a - 0x2010000) % 0x2000 < 0x1000 ∧ s.crm.get (F.CRM_MB_STATUS_STATE mbBuf) = 0 then s.onCrm fun c => c.putWord a v
      else s.busErr .readOnly .bar0 true a)
  else if 0x2070000 ≤ a ∧ Creamery.bar0Mem a then s.onCrm fun c => c.putWord a v
  else if !hostTarget (a / 4 * 4) then s.busErr .readOnly .bar0 true a
  else if a % 4 ≠ 0 then s.busErr .align .bar0 true a
  else
    match arrIdx a (R.CRM_MB_DOORBELL 0) 0x10 8, arrIdx a (R.CRM_LOCK_ACQ 0) 4 64, arrIdx a (R.CRM_LOCK_REL 0) 4 64 with
    | some n, _, _ => s.doorbell n v
    | _, some l, _ => s.after (execLockAcquire 0 true (.mgmt .bar0) (Fin.ofNat 256 l) (BitVec.ofNat 32 v) s)
    | _, _, some l => s.after (execLockRelease 0 true (.mgmt .bar0) (Fin.ofNat 256 l) s)
    | none, none, none => s.crmFlds a v

/-- A write of an AON register: requests, or fields.  Bn_PGOOD is as AON_VSTAT shows it. -/
def aonRegWrite (s : State) (m : Master) (a v : Nat) : State :=
  if (crmReg (a / 4 * 4)).isNone then s.busErr .unmapped m true a
  else if a % 4 ≠ 0 then s.busErr .align m true a
  else if a = R.AON_PWR_REQ then s.aonWrite m a fun s => s.pwrWrite v 0 false
  else
    match allB.find? fun (b : Fin 6) => a == R.AON_VREQ b.val with
    | some b => s.aonWrite m a fun s => s.vreqWrite b v
    | none => s.aonWrite m a fun s => s.crmFlds a v

/-- Fuse programming through JTAG, which BLANK allows (R450, R452): the bits of the word are blown, unless PFAIL is raised (R451).  That
it is a write of the OTP window is DEDUCED (assumption log entry 7). -/
def fuseWrite (s : State) (a v : Nat) : State :=
  if s.crm.flag F.AON_PFAIL_STAT_PFAIL then s else s.onCrm fun c => c.otpBlow (a % 0x10000 / 4 * 4) (BitVec.ofNat 32 v)

/-- A write of a word at a management address (R25, R28). -/
def busWrite (s : State) (m : Master) (a v : Nat) : State :=
  if m = .bar0 then (if reaches m a then s.hostWrite a v else s.busErr .unmapped m true a)
  else if !reaches m a then s.busErr .unmapped m true a
  else if m = .jtag ∧ 0xC000000 ≤ a ∧ a < 0xC010000 ∧ s.crm.lifecycle = Creamery.lcBLANK then s.fuseWrite a v
  else if a < 0x10000 ∨ (0x4000000 ≤ a ∧ a < 0xC010000) then s.busErr .readOnly m true a
  else if 0x400000 ≤ a ∧ a < 0x800000 then
    (if m = .mp then s.onCrm fun c => c.putWord a v else s.busErr .unmapped m true a)
  else if 0x2000000 ≤ a ∧ a < 0x4000000 then
    (if Creamery.bar0Mem a then s.onCrm fun c => c.putWord a v else s.crmRegWrite m a v)
  else if 0xD000000 ≤ a ∧ a < 0xD010000 then s.aonRegWrite m a v
  else if h : 0x10000000 ≤ a ∧ a < 0x16000000 then s.regWrite ⟨(a - 0x10000000) / 0x1000000, by omega⟩ m (a % 0x1000000) v
  else s.busErr .unmapped m true a

/-- An access of a master: it does not happen while the host's port does not answer (R437) or the JTAG debug port is shut (R452, R459);
one of the host that happens shows the link up. -/
def viaHost (s : State) (m : Master) (f : State → State) : State :=
  if s.shut m then s else f (if isHost m then s.hostSeen else s)

end State

/-! ### Commands -/

/-- REGISTER_WRITE (R9, R19, R28, R402). -/
def execRegisterWrite (m : Master) (a v : Word) (s : State) : Host.Outcome State Fault Refusal :=
  .next (s.viaHost m fun s => s.busWrite m a.toNat v.toNat)

/-- RC_READ (R7, R8). -/
def execRcRead (m : Master) (a : Word) (s : State) : Host.Outcome State Fault Refusal :=
  .next (s.viaHost m fun s => s.busRead m a.toNat)

/-- HOST_WINDOW_READ (R405): the byte at offset `o` of page `p` of BAR index 2. -/
def execHostWindowRead (p : Fin 256) (o : BitVec 18) (s : State) : Host.Outcome State Fault Refusal :=
  .next (s.viaHost .bar2 fun s => s.windowRead .bar2 p o.toNat 1)

end Sys2Proof.Machine
end

