-- ==== Sys2Proof/Machine/Control.lean ====
section
/-!
DEFINITION. Control registers, contexts, transfers, hardware loops and the system instructions of the engines (R228 to
R239, R249, R250).
-/

namespace Sys2Proof.Machine

namespace Thr

/-- Entry `n` of a small register group, 0 past its end. -/
def grp {w k : Nat} (v : Vector (BitVec w) k) (n : Nat) : BitVec w := (v.toList[n]?).getD 0

/-- A control register's value (R235). -/
def crRead (th : Thr) (n : Nat) : Word :=
  if 0x20 ≤ n then
    let i := (n - 0x20) / 4
    (match (n - 0x20) % 4 with
     | 0 => grp th.sgBase i
     | 1 => grp th.sgLimit i
     | _ => (grp th.sgPerm i).setWidth 32)
  else if 0x10 ≤ n then
    let i := (n - 0x10) / 4
    (match (n - 0x10) % 4 with
     | 0 => (grp th.ls i).setWidth 32
     | 1 => (grp th.le i).setWidth 32
     | _ => grp th.lc i)
  else match n with
  | 0x00 => th.status.setWidth 32
  | 0x01 => th.tvec.setWidth 32
  | 0x02 => th.opret.setWidth 32
  | 0x03 => th.cpen.setWidth 32
  | 0x04 => th.tpc.setWidth 32
  | 0x05 => th.tstat.setWidth 32
  | 0x06 => th.tcause.setWidth 32
  | 0x07 => th.tval
  | 0x08 => th.tbtgt.setWidth 32
  | 0x09 => th.tscr0
  | 0x0A => th.tscr1
  | 0x0F => th.pc.setWidth 32
  | _ => 0#32

/-- Write a control register; `none` for a value with a nonzero reserved field (R235). -/
def crWrite (th : Thr) (n : Nat) (v : Word) : Option Thr :=
  let hi16 := v.extractLsb' 16 16 ≠ 0#16
  let lo := v.extractLsb' 0 16
  if 0x20 ≤ n then
    let i := (n - 0x20) / 4
    (match (n - 0x20) % 4 with
     | 0 => if v.extractLsb' 0 3 ≠ 0#3 then none else some { th with sgBase := th.sgBase.setIfInBounds i v }
     | 1 => some { th with sgLimit := th.sgLimit.setIfInBounds i v }
     | _ => if v.extractLsb' 3 29 ≠ 0#29 then none else some { th with sgPerm := th.sgPerm.setIfInBounds i (v.extractLsb' 0 3) })
  else if 0x10 ≤ n then
    let i := (n - 0x10) / 4
    (match (n - 0x10) % 4 with
     | 0 => if hi16 then none else some { th with ls := th.ls.setIfInBounds i lo }
     | 1 => if hi16 then none else some { th with le := th.le.setIfInBounds i lo }
     | _ => some { th with lc := th.lc.setIfInBounds i v })
  else match n with
  | 0x00 =>
    if v.extractLsb' 6 26 ≠ 0#26 then none
    else some { th with status := (v.extractLsb' 0 6 &&& 0x1F#6) ||| (th.status &&& 0x20#6) }
  | 0x01 => if hi16 then none else some { th with tvec := lo }
  | 0x02 => if hi16 then none else some { th with opret := lo }
  | 0x03 =>
    if v.extractLsb' 10 22 ≠ 0#22 ∨ v.extractLsb' 2 6 ≠ 0#6 then none else some { th with cpen := v.extractLsb' 0 10 }
  | 0x04 => if hi16 then none else some { th with tpc := lo }
  | 0x05 =>
    if v.extractLsb' 9 23 ≠ 0#23 ∨ v.extractLsb' 6 2 ≠ 0#2 then none else some { th with tstat := v.extractLsb' 0 9 }
  | 0x06 => if hi16 then none else some { th with tcause := lo }
  | 0x07 => some { th with tval := v }
  | 0x08 => if hi16 then none else some { th with tbtgt := lo }
  | 0x09 => some { th with tscr0 := v }
  | 0x0A => some { th with tscr1 := v }
  | 0x0F => if hi16 then none else some { th with pc := lo }
  | _ => some th

/-- Is a control register read by the supervisor level only (R235)? -/
def crSupRead (n : Nat) : Bool := n == 0x01 || n == 0x02 || (decide (0x04 ≤ n) && decide (n ≤ 0x0A))

/-- Is a control register written by the supervisor level only (R235)? -/
def crSupWrite (n : Nat) : Bool := !(decide (0x10 ≤ n) && decide (n < 0x20))

/-- A relative target (R228). -/
def relTarget {n : Nat} (th : Thr) (off : BitVec n) : BitVec 16 := th.pc + off.signExtend 16

/-- The conditions of BR (R228). -/
def brCond (c : Nat) (x y : Word) : Bool :=
  match c with
  | 0 => x == y
  | 1 => x != y
  | 2 => x.slt y
  | 3 => !x.slt y
  | 4 => x.ult y
  | _ => !x.ult y

/-- The conditions of BRZ (R228). -/
def brzCond (c : Nat) (x : Word) : Bool :=
  match c with
  | 0 => x == 0#32
  | 1 => x != 0#32
  | 2 => decide (x.toInt < 0)
  | 3 => decide (0 ≤ x.toInt)
  | 4 => decide (0 < x.toInt)
  | _ => decide (x.toInt ≤ 0)

/-- Return from a trap (R250). -/
def rft (th : Thr) (skip : Bool) : Thr :=
  let ds := th.tstat.getLsbD 8
  let th := { th with status := th.tstat.extractLsb' 0 6 }
  match skip, ds with
  | false, false => { th with pc := th.tpc, slot := none }
  | false, true => { th with pc := th.tpc, slot := some th.tbtgt }
  | true, false =>
    let (th, p) := loopEnd 3 th th.tpc
    { th with pc := p, slot := none }
  | true, true => { th with pc := th.tbtgt, slot := none }

end Thr

namespace Byre

/-- The instruction word that a thread executes, for TVAL. -/
def instrWord (y : Byre) (e t : Nat) : Nat := (y.codeWord e (y.thread e t).pc).toNat

/-- A transfer: taken after its slot (R229). -/
def transfer (y : Byre) (e t : Nat) (taken : Bool) (tgt : BitVec 16) : Ends :=
  let p := (y.thread e t).pc
  .ok y (.slot (if taken then tgt else p + 2#16))

/-- A transfer to a register's value (R229). -/
def regTransfer (y : Byre) (e t : Nat) (v : Word) (link : Bool) : Ends :=
  let p := (y.thread e t).pc
  if v.extractLsb' 16 16 ≠ 0#16 then .trap ⟨3, 5, v.toNat, 0⟩
  else
    let y := if link then y.onThread e t fun th => th.setA 15 ((p + 2#16).setWidth 32) else y
    .ok y (.slot (v.extractLsb' 0 16))

/-- A LOOP (R231). -/
def loop (y : Byre) (e t : Nat) (count : Word) (off : BitVec 16) : Ends :=
  let th := y.thread e t
  let n := th.ld
  let w := y.instrWord e t
  let le := th.pc.toNat + off.toNat
  if n = 3 then .trap ⟨9, 0, w, 0⟩
  else if 0xFFFF < le ∨ (0 < n ∧ (th.leAt (n - 1)).toNat < le) then .trap ⟨9, 1, w, 0⟩
  else if count = 0#32 then .ok y (.goto (BitVec.ofNat 16 (le + 1)))
  else
    let th' := { th with ls := th.ls.setIfInBounds n (th.pc + 1#16), le := th.le.setIfInBounds n (BitVec.ofNat 16 le),
                         lc := th.lc.setIfInBounds n count }
    .ok (y.setThread e t (th'.setLd (n + 1))) .seq

/-- May GETC and PUTC reach thread `k` from thread `t` (R237)? -/
def ctxOk (y : Byre) (e t k : Nat) : Bool := k != t && !(y.thread e k).released

/-- A register by CLASS and INDEX (R237). -/
def ctxRead (th : Thr) (cls idx : Nat) : Word :=
  match cls with
  | 0 => Thr.grp th.d idx
  | 1 => Thr.grp th.a idx
  | _ => th.crRead idx

/-- Write a register by CLASS and INDEX. -/
def ctxWrite (th : Thr) (cls idx : Nat) (v : Word) : Option Thr :=
  match cls with
  | 0 => some { th with d := th.d.setIfInBounds idx v }
  | 1 => some { th with a := th.a.setIfInBounds idx v }
  | _ => th.crWrite idx v

/-- MFC (R235, R236). -/
def mfc (y : Byre) (e t : Nat) (dx : Fin 16) (cr : Nat) : Ends :=
  let th := y.thread e t
  if th.task ∧ Thr.crSupRead cr then .trap ⟨6, 1, y.instrWord e t, 0⟩
  else .ok (y.setThread e t (th.setD dx (th.crRead cr))) .seq

/-- MTC (R235, R236): a value with a reserved field first, then the level. -/
def mtc (y : Byre) (e t : Nat) (dx : Fin 16) (cr : Nat) : Ends :=
  let th := y.thread e t
  match th.crWrite cr th.d[dx] with
  | none => .trap ⟨1, 0, y.instrWord e t, 0⟩
  | some th' => if th.task ∧ Thr.crSupWrite cr then .trap ⟨6, 1, y.instrWord e t, 0⟩ else .ok (y.setThread e t th') .seq

/-- GETC (R237). -/
def getc (y : Byre) (e t k cls idx : Nat) (dx : Fin 16) : Ends :=
  let th := y.thread e t
  if th.task then .trap ⟨6, 0, y.instrWord e t, 0⟩
  else if !y.ctxOk e t k then .trap ⟨6, 3, k, 0⟩
  else .ok (y.setThread e t (th.setD dx (ctxRead (y.withDbg (y.thread e k)) cls idx))) .seq

/-- PUTC (R237). -/
def putc (y : Byre) (e t k cls idx : Nat) (dx : Fin 16) : Ends :=
  let th := y.thread e t
  match ctxWrite (y.thread e k) cls idx th.d[dx] with
  | none => .trap ⟨1, 0, y.instrWord e t, 0⟩
  | some th' =>
    if th.task then .trap ⟨6, 0, y.instrWord e t, 0⟩
    else if !y.ctxOk e t k then .trap ⟨6, 3, k, 0⟩
    else .ok (y.setThread e k th') .seq

/-- RELEASE (R237): starts the stopped threads of the mask. -/
def release (y : Byre) (e t : Nat) (dx : Fin 16) : Ends :=
  let th := y.thread e t
  if th.task then .trap ⟨6, 0, y.instrWord e t, 0⟩
  else
    let m := th.d[dx].toNat
    .ok ((List.range 8).foldl (fun y k =>
      if bit m k && y.ctxOk e t k then y.onThread e k fun th => { th with released := true } else y) y) .seq

/-- LPOP (R233). -/
def lpop (y : Byre) (e t n : Nat) : Ends :=
  let th := y.thread e t
  if th.ld < n then .trap ⟨9, 2, y.instrWord e t, 0⟩ else .ok (y.setThread e t (th.setLd (th.ld - n))) .seq

/-- WFE (R198): continues at once where a masked event is latched, and waits otherwise. -/
def wfe (y : Byre) (e t : Nat) (dd : Fin 16) (mask : BitVec 5) : Ends :=
  .ok (y.onThread e t fun th =>
    let th := { th with wait := some mask, waitD := dd }
    if th.ev &&& mask ≠ 0#5 then th.wake false else th) .seq

/-- ENDOP (R238, R203): in a trap handler (STATUS.TH 1) the operation ends TRAPPED. -/
def endopI (y : Byre) (e t : Nat) (inv : Bool) : Ends :=
  let th := y.thread e t
  let y := y.endOp e t (if th.inTrap then 2 else b2n inv)
  .ok (y.onThread e t fun th => { th.setLd 0 with status := (th.setLd 0).status &&& 0x3E#6 }) (.goto th.opret)

/-- RFT (R250, R236): of the status bits restored, DBG is not the handler's to set (R249). -/
def rftI (y : Byre) (e t : Nat) (skip : Bool) : Ends :=
  let th := y.thread e t
  if th.task then .trap ⟨6, 0, y.instrWord e t, 0⟩ else .ok (y.setThread e t { y.withDbg (th.rft skip) with after := y.cycle e + 3 }) .set

/-- BRK (R249). -/
def brkI (y : Byre) (e t : Nat) : Ends :=
  let th := y.thread e t
  if th.status.getLsbD 5 then .ok (y.setThread e t { th with halted := true }) .seq
  else .trap ⟨0x0A, 0, y.instrWord e t, 0⟩

end Byre

/-- MFC (R235). -/
def execMfc (b : Fin 6) (e : Fin 32) (t : Fin 8) (dx : Fin 16) (cr : BitVec 6) (s : State) :
    Host.Outcome State Fault Refusal :=
  .next (s.engineOp b e t (.mfc b e t dx cr) fun y =>
    y.mfc e t dx cr.toNat)

/-- MTC (R235). -/
def execMtc (b : Fin 6) (e : Fin 32) (t : Fin 8) (dx : Fin 16) (cr : BitVec 6) (s : State) :
    Host.Outcome State Fault Refusal :=
  .next (s.engineOp b e t (.mtc b e t dx cr) fun y =>
    y.mtc e t dx cr.toNat)

/-- GETC (R237). -/
def execGetc (b : Fin 6) (e : Fin 32) (t : Fin 8) (th : Fin 8) (cls : BitVec 2) (idx : BitVec 6) (dx : Fin 16) (s : State) :
    Host.Outcome State Fault Refusal :=
  .next (s.engineOp b e t (.getc b e t th cls idx dx) fun y =>
    y.getc e t th cls.toNat idx.toNat dx)

/-- PUTC (R237). -/
def execPutc (b : Fin 6) (e : Fin 32) (t : Fin 8) (th : Fin 8) (cls : BitVec 2) (idx : BitVec 6) (dx : Fin 16) (s : State) :
    Host.Outcome State Fault Refusal :=
  .next (s.engineOp b e t (.putc b e t th cls idx dx) fun y =>
    y.putc e t th cls.toNat idx.toNat dx)

/-- RELEASE (R237). -/
def execRelease (b : Fin 6) (e : Fin 32) (t : Fin 8) (dx : Fin 16) (s : State) :
    Host.Outcome State Fault Refusal :=
  .next (s.engineOp b e t (.release b e t dx) fun y =>
    y.release e t dx)

/-- BR (R228). -/
def execBr (b : Fin 6) (e : Fin 32) (t : Fin 8) (ds dt : Fin 16) (cond : BitVec 3) (off : BitVec 15) (s : State) :
    Host.Outcome State Fault Refusal :=
  .next (s.engineOp b e t (.br b e t ds dt cond off) fun y =>
    let th := y.thread e t
    y.transfer e t (Thr.brCond cond.toNat th.d[ds] th.d[dt]) (th.relTarget off))

/-- BRZ (R228). -/
def execBrz (b : Fin 6) (e : Fin 32) (t : Fin 8) (ds : Fin 16) (cond : BitVec 3) (off : BitVec 16) (s : State) :
    Host.Outcome State Fault Refusal :=
  .next (s.engineOp b e t (.brz b e t ds cond off) fun y =>
    let th := y.thread e t
    y.transfer e t (Thr.brzCond cond.toNat th.d[ds]) (th.relTarget off))

/-- J (R228). -/
def execJ (b : Fin 6) (e : Fin 32) (t : Fin 8) (tgt : BitVec 16) (s : State) :
    Host.Outcome State Fault Refusal :=
  .next (s.engineOp b e t (.j b e t tgt) fun y =>
    y.transfer e t true tgt)

/-- CALL (R228). -/
def execCall (b : Fin 6) (e : Fin 32) (t : Fin 8) (tgt : BitVec 16) (s : State) :
    Host.Outcome State Fault Refusal :=
  .next (s.engineOp b e t (.call b e t tgt) fun y =>
    (y.onThread e t fun th => th.setA 15 ((th.pc + 2#16).setWidth 32)).transfer e t true tgt)

/-- JR (R228). -/
def execJr (b : Fin 6) (e : Fin 32) (t : Fin 8) (sa : Fin 16) (s : State) :
    Host.Outcome State Fault Refusal :=
  .next (s.engineOp b e t (.jr b e t sa) fun y =>
    y.regTransfer e t (y.thread e t).a[sa] false)

/-- CALLR (R228, R229). -/
def execCallr (b : Fin 6) (e : Fin 32) (t : Fin 8) (sa : Fin 16) (s : State) :
    Host.Outcome State Fault Refusal :=
  .next (s.engineOp b e t (.callr b e t sa) fun y =>
    y.regTransfer e t (y.thread e t).a[sa] true)

/-- RET (R228). -/
def execRet (b : Fin 6) (e : Fin 32) (t : Fin 8) (s : State) :
    Host.Outcome State Fault Refusal :=
  .next (s.engineOp b e t (.ret b e t) fun y =>
    y.regTransfer e t (y.thread e t).a[15] false)

/-- LOOPI (R231). -/
def execLoopi (b : Fin 6) (e : Fin 32) (t : Fin 8) (count : BitVec 10) (off : BitVec 16) (s : State) :
    Host.Outcome State Fault Refusal :=
  .next (s.engineOp b e t (.loopi b e t count off) fun y =>
    y.loop e t (count.setWidth 32) off)

/-- LOOPR (R231). -/
def execLoopr (b : Fin 6) (e : Fin 32) (t : Fin 8) (ds : Fin 16) (off : BitVec 16) (s : State) :
    Host.Outcome State Fault Refusal :=
  .next (s.engineOp b e t (.loopr b e t ds off) fun y =>
    y.loop e t (y.thread e t).d[ds] off)

/-- LPOP (R233). -/
def execLpop (b : Fin 6) (e : Fin 32) (t : Fin 8) (n : BitVec 2) (s : State) :
    Host.Outcome State Fault Refusal :=
  .next (s.engineOp b e t (.lpop b e t n) fun y =>
    y.lpop e t n.toNat)

/-- WFE (R238). -/
def execWfe (b : Fin 6) (e : Fin 32) (t : Fin 8) (dd : Fin 16) (mask : BitVec 5) (s : State) :
    Host.Outcome State Fault Refusal :=
  .next (s.engineOp b e t (.wfe b e t dd mask) fun y =>
    y.wfe e t dd mask)

/-- ENDOP (R238). -/
def execEndop (b : Fin 6) (e : Fin 32) (t : Fin 8) (inv : Bool) (s : State) :
    Host.Outcome State Fault Refusal :=
  .next (s.engineOp b e t (.endop b e t inv) fun y =>
    y.endopI e t inv)

/-- RFT (R250). -/
def execRft (b : Fin 6) (e : Fin 32) (t : Fin 8) (skip : Bool) (s : State) :
    Host.Outcome State Fault Refusal :=
  .next (s.engineOp b e t (.rft b e t skip) fun y =>
    y.rftI e t skip)

/-- BRK (R249). -/
def execBrk (b : Fin 6) (e : Fin 32) (t : Fin 8) (s : State) :
    Host.Outcome State Fault Refusal :=
  .next (s.engineOp b e t (.brk b e t) fun y =>
    y.brkI e t)

end Sys2Proof.Machine
end

