-- ==== Sys2Proof/Machine/LoadStore.lean ====
section
/-!
DEFINITION. Loads and stores of the engines: segments, the engine address space, I/O words, the pail and press windows,
and the coprocessor images (R190 to R192, R225 to R227, R256, R277, R278, R295, R318, R331, R341, R373, R396).
-/

namespace Sys2Proof.Machine

/-- A range of R190 that holds an access, with the offset in it. -/
inductive Tgt where
  | scratch (o : Nat)
  | code (o : Nat)
  | vat (o : Nat)
  | win (g o : Nat)
  | port (t o : Nat)
  | io (o : Nat)
  | pail (o : Nat)
  | pctl (o : Nat)
  deriving DecidableEq, Repr

/-- The range that holds `n` bytes from the physical address `p` (R190, R295). -/
def tgtOf (p n : Nat) : Option Tgt :=
  let within := fun lo hi => decide (lo ≤ p) && decide (p + n ≤ hi)
  if p + n ≤ 0x20000 then some (.scratch p)
  else if within 0x01000000 0x01040000 then some (.code (p - 0x01000000))
  else if within 0x02000000 0x02C00000 then some (.vat (p - 0x02000000))
  else if within 0x03000000 0x03800000 then
    (if (p - 0x03000000) % 0x100000 + n ≤ 0x100000 then some (.win ((p - 0x03000000) / 0x100000) ((p - 0x03000000) % 0x100000)) else none)
  else if within 0x03800000 0x03800800 then some (.port ((p - 0x03800000) / 0x100) ((p - 0x03800000) % 0x100))
  else if within 0x04000000 0x04002000 then some (.io (p - 0x04000000))
  else if within 0x05000000 0x05FFF000 then some (.pail (p - 0x05000000))
  else if within 0x05FFF000 0x06000000 then some (.pctl (p - 0x05FFF000))
  else none

/-- The words that `n` bytes from address `a` touch. -/
def wordsAt (a n : Nat) : List Nat := (List.range ((a % 4 + n + 3) / 4)).map fun i => a / 4 * 4 + 4 * i

/-- How an access ends. -/
inductive Access where
  | val (y : Byre) (bs : List Byte)
  | trap (cause detail : Nat)
  | parity (y : Byre) (a : Nat)
  | wait

namespace Byre

/-! ### I/O words -/

/-- What a word that loads may read answers; none for an offset that is not listed (R192, R212, R318, R331, R341, R373,
R396). -/
def ioRead (y : Byre) (e t o : Nat) : Option (Nat × Byre) :=
  let th := y.thread e t
  let v := fun (n : Nat) => some (n, y)
  if 0x100 ≤ o ∧ o < 0x140 then v (((y.engine e).shr.toList[(o - 0x100) / 4]?).getD 0#32).toNat
  else if 0x1000 ≤ o ∧ o < 0x1400 then
    (if h : e < 32 ∧ t < 8 then some (y.lockRead (.thread ⟨e, h.1⟩ ⟨t, h.2⟩) ((o - 0x1000) / 4)) else none)
  else if 0x1400 ≤ o ∧ o < 0x1800 then v 0
  else if o < 0x14 then v 0
  else match o with
  | 0x200 => v 0
  | 0x204 => v (e * 8 + t)
  | 0x208 => v (th.op.elim 0 (·.left))
  | 0x20C => v y.tu.cur.k
  | 0x210 => v (y.tu.cur.s % 2 ^ 32)
  | 0x220 => v (y.rdN (R.ROTA_ENG_SLOT0 e))
  | 0x224 => v (y.rdN (R.ROTA_ENG_SLOT1 e))
  | 0x228 => v (y.rdN (R.ROTA_ENG_URGENT e))
  | 0x300 => v 0
  | 0x400 => v (th.post.head?.elim 0 fun q => 2 ^ 31 + q.1)
  | 0x404 => v (th.post.head?.elim 0 (·.2))
  | 0x800 => v 0
  | 0x804 => v 0
  | 0x808 => v 0
  | 0x80C => v th.resStat.toNat
  | 0x820 => v 0
  | 0x824 => v th.subState.toNat
  | 0x828 => v th.subSt.toNat
  | 0x82C => v th.subSq.toNat
  | 0x840 => v y.capHead.1
  | 0x844 => v y.capHead.2.1
  | 0x848 => v y.capHead.2.2
  | 0x900 => v y.tunHead
  | 0x904 => v 0
  | 0x908 => v y.tunInj
  | 0x90C => v 0
  | 0xA00 => v 0
  | 0xA04 => v y.rcSt
  | _ => none

/-- A write to the adjust port (R58). -/
def adjPort (y : Byre) (e t n v : Nat) : Byre :=
  if y.get F.TIME_SERVO_OWNER_ENGINE = e ∧ y.get F.TIME_SERVO_OWNER_THREAD = t then
    (match n with
     | 0 => y.writeFlds R.TIME_FADJ v
     | 1 => y.writeFlds R.TIME_STEP_SEC v
     | 2 => y.stepRequest v
     | 3 => y.servoWrite v
     | _ => y.writeFlds R.TIME_UTC v)
  else y.inc R.TIME_CNT_REFUSED

/-- A store to the words for the thread's engine and its locks (R192). -/
def ioWriteEng (y : Byre) (e t o v : Nat) : Access :=
  let ok := fun (y : Byre) => Access.val y []
  let sup := fun (off : Nat) => if (y.thread e t).task then Access.trap 6 2 else ok ((y.slotNote e).writeFlds off v)
  if o < 0x14 then ok (y.adjPort e t (o / 4) v)
  else if 0x100 ≤ o ∧ o < 0x140 then
    let g := y.engine e
    ok (y.setEngine e { g with shr := g.shr.setIfInBounds ((o - 0x100) / 4) (BitVec.ofNat 32 v) })
  else if 0x1000 ≤ o then
    if h : e < 32 ∧ t < 8 then
      let src : Src := .thread ⟨e, h.1⟩ ⟨t, h.2⟩
      if o < 0x1400 then ok (y.lockAcquire src ((o - 0x1000) / 4) v)
      else if o < 0x1800 then ok (y.lockRelease src ((o - 0x1400) / 4))
      else .trap 3 2
    else .trap 3 2
  else match o with
  | 0x200 => ok (y.signal e (v % 256))
  | 0x220 => sup (R.ROTA_ENG_SLOT0 e)
  | 0x224 => sup (R.ROTA_ENG_SLOT1 e)
  | 0x228 => sup (R.ROTA_ENG_URGENT e)
  | 0x300 => ok (y.tallyAdvance v)
  | 0x400 => ok (y.postRemove e t)
  | 0x404 => ok y
  | _ => .trap 3 2

/-- A store to an I/O word. -/
def ioWrite (y : Byre) (e t o v : Nat) : Access :=
  let ok := fun (y : Byre) => Access.val y []
  let tun := fun (f : Byre → Byre) => if y.isTunEp e t then ok (f y) else Access.trap 6 2
  match o with
  | 0x800 => ok (y.onThread e t fun th => { th with resSlot := BitVec.ofNat 32 v })
  | 0x804 => ok (y.onThread e t fun th => { th with resW0 := BitVec.ofNat 32 v })
  | 0x808 => ok (y.resStage e t v)
  | 0x820 => ok (y.subSel e t v)
  | 0x840 => ok y.capRemove
  | 0x900 => tun Byre.tunPop
  | 0x904 => tun fun y => y.tunInject v
  | 0x90C => tun fun y => y.tunDrop v
  | 0xA00 => ok (y.recTrigger 0 (v % 65536) y.tu.cur y.now)
  | _ => y.ioWriteEng e t o v

/-! ### The pail window's control page (R295) -/

/-- A load from the control page. -/
def pctlRead (y : Byre) (e t o : Nat) : Option (Nat × Byre) :=
  if o % 4 = 0 ∧ o < 0x10 then some (y.engineAlloc e (o / 4))
  else if o = 0x1C then some (y.readColl e t)
  else if o = 0x10 ∨ o = 0x14 ∨ o = 0x18 then some (0, y)
  else none

/-- A store to the control page. -/
def pctlWrite (y : Byre) (e t o v : Nat) : Access :=
  match o with
  | 0x10 => .val (y.free_ (30 + clusterOf e) v) []
  | 0x14 => .val (y.setSendLen e t (v % 4096 + if v < 4096 then 0 else 4096)) []
  | 0x18 =>
    (match y.sendCheck e t v with
     | (false, y) => .val y []
     | (true, y') => if y.sendRoom then .val { y' with inq := y'.inq ++ [y'.newFrame v (y.thread e t).sendLen 24 y.now] } [] else .wait)
  | _ => .trap 3 2

/-! ### Memories -/

/-- Read bytes of a memory with the parity of their words (R225 check 7): `sp` 1 for scratch, 0 for the byre view. -/
def memLoad (y : Byre) (sp a n p : Nat) : Access :=
  let rec go (y : Byre) : List Nat → Option Nat × Byre
    | [] => (none, y)
    | w :: ws =>
      match y.parCheck sp w with
      | (true, y) => (some w, y)
      | (false, y) => go y ws
  match go y (wordsAt a n) with
  | (some w, y) => .parity y (p + w - a)
  | (none, y) => .val y (Mem.read (if sp = 1 then y.scratch else y.mem) a n)

/-- Store bytes in a memory; a whole word's parity is renewed. -/
def memStore (y : Byre) (sp a : Nat) (bs : List Byte) : Byre :=
  let y := if sp = 1 then { y with scratch := Mem.write y.scratch a bs } else y.vatWrite a bs
  (List.range (bs.length / 4)).foldl (fun y i => y.parClear sp (a + 4 * i)) y

/-- An engine store lost a collision (R284): it is not applied, COLL is set, and the loss is counted and captured. -/
def storeColl (y : Byre) (e t bank : Nat) : Byre :=
  let y := (y.onThread e t fun th => { th with coll := true }).inc R.VAT_CNT_COLL
  if y.flag F.VAT_COLL_CAP_VALID then y
  else
    let o := y.bankOwner bank
    let pails := o == 0x30
    let y := ((y.put F.VAT_COLL_CAP_ENG_VALID pails).set F.VAT_COLL_CAP_ENGINE (if pails then e else 0)).set F.VAT_COLL_CAP_BANK bank
    ((y.set F.VAT_COLL_CAP_OWNER o).set F.VAT_COLL_CAP_LOSER (if pails then 30 + clusterOf e else e)).put F.VAT_COLL_CAP_VALID true

/-- Are all the banks of an access open to an owner code? -/
def banksOpen (y : Byre) (a n c : Nat) : Bool := y.bankOpen (a / 0x40000) c && y.bankOpen ((a + n - 1) / 0x40000) c

/-- A load of `n` bytes at physical address `p` (R225 checks 4 to 7). -/
def loadAt (y : Byre) (e t p n : Nat) : Access :=
  match tgtOf p n with
  | none => .trap 3 2
  | some (.scratch o) => y.memLoad 1 (e * 0x20000 + o) n p
  | some (.code o) => y.memLoad 0 (codeAddr (clusterOf e) 0 + o) n p
  | some (.vat o) => if y.banksOpen o n (1 + clusterOf e) then y.memLoad 0 o n p else .trap 3 3
  | some (.win g o) =>
    if !y.gEn y.bank g || decide (y.gStride y.bank g < o + n) then .trap 3 2
    else
      match SMap.get (fun _ => 0) y.shown g with
      | 0 => .wait
      | s + 1 => y.memLoad 0 (s + o) n p
  | some (.port k o) =>
    if k ≠ t ∨ 0x100 < o + n then .trap 3 4
    else
      let th := y.thread e t
      let w := fun a => if a < 0x98 then (SMap.get (fun _ => 0#32) th.pp a).toNat else if a = 0xFC then th.ppStat.toNat else 0
      .val y (((wordsAt o n).flatMap fun a => leBytes 4 (w a)).drop (o % 4) |>.take n)
  | some (.io o) =>
    if n ≠ 4 then .trap 3 2
    else
      match y.ioRead e t o with
      | none => .trap 3 2
      | some (v, y) => .val y (leBytes 4 v)
  | some (.pail o) =>
    if y.banksOpen o n 0x30 then
      match y.memLoad 0 o n p with
      | .parity y a => .parity (y.inc R.PAIL_CNT_DATA_PARITY) a
      | r => r
    else .trap 3 2
  | some (.pctl o) =>
    if n ≠ 4 then .trap 3 2
    else
      match y.pctlRead e t o with
      | none => .trap 3 2
      | some (v, y) => .val y (leBytes 4 v)

/-- A store to the press port (R191): request bytes, and GO, which asks the press. -/
def portStore (y : Byre) (e t o : Nat) (bs : List Byte) : Byre :=
  let y := if o + bs.length ≤ 0x98 then
      y.onThread e t fun th =>
        let put := fun (m : SMap Word) (i : Nat) (b : Byte) =>
          let a := (o + i) / 4 * 4
          let old := (SMap.get (fun _ => 0#32) m a).toNat
          SMap.set (fun _ => 0#32) m a (BitVec.ofNat 32 (insBits old (8 * ((o + i) % 4) + 7) (8 * ((o + i) % 4)) b.toNat))
        { th with pp := (bs.zipIdx).foldl (fun m (b, i) => put m i b) th.pp }
    else y
  if o ≤ 0xF8 ∧ 0xF8 < o + bs.length then y.onThread e t fun th => { th with ppStat := 0xFFFFFFFF#32 } else y

/-- A store of bytes at physical address `p` (R225 checks 4 to 6); `coll` says that it loses a collision (R284). -/
def storeAt (y : Byre) (e t p : Nat) (bs : List Byte) (coll : Bool) : Access :=
  let n := bs.length
  match tgtOf p n with
  | none => .trap 3 2
  | some (.scratch o) => .val (y.memStore 1 (e * 0x20000 + o) bs) []
  | some (.code _) => .trap 3 2
  | some (.vat o) =>
    if y.banksOpen o n (1 + clusterOf e) then
      .val (if coll then y.storeColl e t (o / 0x40000) else y.memStore 0 o bs) []
    else .trap 3 3
  | some (.win _ _) => .trap 3 2
  | some (.port k o) => if k ≠ t ∨ 0x100 < o + n then .trap 3 4 else .val (y.portStore e t o bs) []
  | some (.io o) => if n = 4 ∧ o % 4 = 0 then y.ioWrite e t o (leNat bs) else .trap 3 2
  | some (.pail o) =>
    if y.banksOpen o n 0x30 then .val (if coll then y.storeColl e t (o / 0x40000) else y.memStore 0 o bs) [] else .trap 3 2
  | some (.pctl o) => if n = 4 then y.pctlWrite e t o (leNat bs) else .trap 3 2

/-! ### Segments (R225, R227) -/

/-- Checks 1 to 3 of R225 for `n` bytes at an offset with alignment `al`: the physical address, or cause and detail. -/
def segCheck (th : Thr) (sg off n al : Nat) (store : Bool) : Nat ⊕ (Nat × Nat) :=
  let perm := (th.sgPerm.toList[sg]?).getD 0#3
  let limit := ((th.sgLimit.toList[sg]?).getD 0#32).toNat
  let base := ((th.sgBase.toList[sg]?).getD 0#32).toNat
  if off % al ≠ 0 then .inr (4, 0)
  else if limit < off + n then .inr (3, 0)
  else if !perm.getLsbD (b2n store) || (th.task && !perm.getLsbD 2) then .inr (3, 1)
  else .inl ((base + off) % 2 ^ 32)

/-- Does a task-level store reach an I/O word that only the supervisor level may write (R192)?  It comes before the address checks
(R243). -/
def ioLevel (th : Thr) (sg off n : Nat) : Bool :=
  let p := (((th.sgBase.toList[sg]?).getD 0#32).toNat + off) % 2 ^ 32
  th.task && decide (p < 0x0400022C) && decide (0x04000220 < p + n)

/-- The trap of a failed access. -/
def accTrap (w off sg c d : Nat) : Trap := if c = 6 then ⟨6, d, w, 0⟩ else ⟨c, d, off, sg⟩

/-- A load through a segment: `f` takes the bytes. -/
def segLoad (y : Byre) (e t sg off n al : Nat) (f : Byre → List Byte → Ends) : Ends :=
  let w := y.instrAt e t
  match segCheck (y.thread e t) sg off n al false with
  | .inr (c, d) => .trap (accTrap w off sg c d)
  | .inl p =>
    match y.loadAt e t p n with
    | .val y bs => f y bs
    | .trap c d => .trap (accTrap w off sg c d)
    | .parity y a => .parTrap y ⟨8, 1, a, 0⟩
    | .wait => .notReady

/-- A store through a segment: `f` is what follows. -/
def segStore (y : Byre) (e t sg off al : Nat) (bs : List Byte) (coll : Bool) (f : Byre → Ends) : Ends :=
  let w := y.instrAt e t
  if ioLevel (y.thread e t) sg off bs.length then .trap ⟨6, 2, w, 0⟩
  else match segCheck (y.thread e t) sg off bs.length al true with
  | .inr (c, d) => .trap (accTrap w off sg c d)
  | .inl p =>
    match y.storeAt e t p bs coll with
    | .val y _ => f y
    | .trap c d => .trap (accTrap w off sg c d)
    | .parity y a => .parTrap y ⟨8, 1, a, 0⟩
    | .wait => .notReady

/-- The base write-back (R226). -/
def writeBack (y : Byre) (e t : Nat) (ab : Fin 16) (wb : Option Word) : Byre :=
  wb.elim y fun v => y.onThread e t fun th => th.setA ab v

/-- The common form of the loads (R226): size, and what becomes of the loaded bytes. -/
def loadOp (y : Byre) (e t : Nat) (ab : Fin 16) (sg : Nat) (m : Mode) (n : Nat) (put : Thr → List Byte → Thr) : Ends :=
  let (off, wb) := Mode.eval m (y.thread e t) ab
  y.segLoad e t sg off.toNat n n fun y bs => .ok ((y.onThread e t fun th => put th bs).writeBack e t ab wb) .seq

/-- The common form of the stores (R226). -/
def storeOp (y : Byre) (e t : Nat) (ab : Fin 16) (sg : Nat) (m : Mode) (coll : Bool) (bs : Thr → List Byte) : Ends :=
  let th := y.thread e t
  let (off, wb) := Mode.eval m th ab
  y.segStore e t sg off.toNat (bs th).length (bs th) coll fun y => .ok (y.writeBack e t ab wb) .seq

/-! ### Coprocessor images (R256, R277, R278) -/

/-- The separator image of a window: 384 bytes. -/
def sepImage (p : Sep) : List Byte :=
  let ext := fun (v : BitVec 80) => leBytes 16 (pat 128 v.toInt)
  ((List.range 32).flatMap fun n => leBytes 4 (if n = 0x17 then 0 else (p.reg n).toNat)) ++
    (List.range 8).flatMap fun c => ext (p.sum c).1 ++ ext (p.sum c).2

/-- The strainer image of a window: 256 bytes. -/
def strImage (s : Str) : List Byte :=
  ((List.range 27).flatMap fun n => leBytes 4 (strReg s n).toNat) ++ leBytes 4 (strReg s 0x1C).toNat ++ leBytes 4 (strStat s) ++
    leBytes 4 s.count ++ leBytes 8 0 ++ (if hdrGmac s.hdr then beBytes 16 s.mac ++ leBytes 16 0 else beBytes 32 s.mac) ++
    leBytes 8 s.mlen ++ leBytes 4 s.swaps ++ List.replicate 84 0#8

/-- Load a separator window from its image. -/
def sepOf (p : Sep) (bs : List Byte) : Sep :=
  let w := fun n => BitVec.ofNat 32 (leNat ((bs.drop (4 * n)).take 4))
  let keep := fun n => if n = 0x17 then 0#32 else if n = 0x10 then w n &&& 0x03FF17FF#32 else if n = 0x16 then w n &&& 0xFF#32 else w n
  let p := (List.range 32).foldl (fun p n => p.setReg n (keep n)) p
  let s := fun i => BitVec.ofNat 80 (leNat ((bs.drop (128 + 16 * i)).take 10))
  (List.range 8).foldl (fun p c => p.setSum c (s (2 * c), s (2 * c + 1))) p

/-- Load the strainer window from its image for thread `t`: the MAC state, with the bytes of an HMAC message short of a block, which
the message length says are at the start of B0 to B15 (of a GMAC message only that there were some matters), and the key of the live
slot that CTL names. -/
def strOf (y : Byre) (e t : Nat) (bs : List Byte) : Byre :=
  let w := fun n => leNat ((bs.drop (4 * n)).take 4)
  let ctl := w 27
  let slot := bits ctl 7 0
  let hdr := y.keyHdr y.bank slot
  let k := ctlKey hdr ctl
  let ((key, bad), y) := if slot = 255 then ((([], none) : List Byte × Option Nat), y) else y.slotRead y.bank slot k
  let mlen := leNat ((bs.drop 160).take 8)
  let regs := (List.range 27).map (fun n => (n, w n)) ++ [(0x1C, ctl % 1024)]
  let s0 : Str := Str.zero
  let s := regs.foldl (fun s (n, v) => strSet s n (BitVec.ofNat 32 v)) s0
  let s := { s with owner := t, active := bit (w 28) 3, done := bit (w 28) 4, err := bits (w 28) 11 8, count := w 29,
                    mac := if hdrGmac hdr then beNat ((bs.drop 128).take 16) else beNat ((bs.drop 128).take 32),
                    mlen := mlen, tail := (strBytes s 0 16).take (mlen % macBlk hdr), swaps := w 42, hdr := hdr, key := key,
                    iv := strBytes s 0x18 3, keyBad := bad }
  let (s, y) := match bad with
    | some a => y.strPoison (strErr s 6) tagRegs a
    | none => (s, y)
  (y.setEngine e { y.engine e with str := s }).unitClear e ((List.range 43).map fun i => 0x06004000 + i * 4)

/-- Store a unit's image whose words are at the reporting addresses `ws`: a refused address comes before a unit word that fails parity
(R243). -/
def imageStore (y : Byre) (e t sg off : Nat) (ws : List Nat) (img : List Byte) : Ends :=
  let st := fun (y : Byre) => y.segStore e t sg off 8 img false fun y => .ok y .seq
  match st y with
  | .ok _ _ => y.unitRead e ws st
  | r => r

/-- CSAVE (R256). -/
def csave (y : Byre) (e t : Nat) (unit : Bool) (ab : Fin 16) (sg : Nat) : Ends :=
  let th := y.thread e t
  let w := y.instrAt e t
  let off := th.a[ab].toNat
  if th.task then .trap ⟨6, 0, w, 0⟩
  else if unit then
    let s := (y.engine e).str
    if !s.pend.isEmpty then .notReady
    else y.imageStore e t sg off ((List.range 43).map fun i => 0x06004000 + i * 4) (strImage s)
  else if !th.sep.pend.isEmpty then .notReady
  else y.imageStore e t sg off ((List.range 96).map (sepAddr t)) (sepImage th.sep)

/-- CRST (R256). -/
def crst (y : Byre) (e t : Nat) (unit : Bool) (ab : Fin 16) (sg : Nat) : Ends :=
  let th := y.thread e t
  let w := y.instrAt e t
  let off := th.a[ab].toNat
  if th.task then .trap ⟨6, 0, w, 0⟩
  else if unit then
    if !(y.engine e).str.pend.isEmpty then .notReady
    else y.segLoad e t sg off 256 8 fun y bs => .ok (y.strOf e t bs) .seq
  else if !th.sep.pend.isEmpty then .notReady
  else y.segLoad e t sg off 384 8 fun y bs => 
      .ok ((y.onThread e t fun th => { th with sep := sepOf th.sep bs }).unitClear e ((List.range 96).map (sepAddr t))) .seq

end Byre

/-- Sign-extend the low `n` bits into a register word. -/
def sextWord (n : Nat) (bs : List Byte) : Word := BitVec.ofNat 32 (pat 32 (sgn n (leNat bs)))

/-- Zero-extend bytes into a register word. -/
def zextWord (bs : List Byte) : Word := BitVec.ofNat 32 (leNat bs)

/-- The odd partner of a register pair. -/
def pairReg (r : Fin 16) : Fin 16 := r + 1

/-- LD (R226). -/
def execLd (b : Fin 6) (e : Fin 32) (t : Fin 8) (rt ab : Fin 16) (seg : Fin 8) (m : Mode) (s : State) :
    Host.Outcome State Fault Refusal :=
  .next (s.engineOp b e t (.ld b e t rt ab seg m) fun y => y.loadOp e t ab seg m 4 fun th bs => th.setD rt (zextWord bs))

/-- LDH (R226). -/
def execLdh (b : Fin 6) (e : Fin 32) (t : Fin 8) (rt ab : Fin 16) (seg : Fin 8) (m : Mode) (s : State) :
    Host.Outcome State Fault Refusal :=
  .next (s.engineOp b e t (.ldh b e t rt ab seg m) fun y => y.loadOp e t ab seg m 2 fun th bs => th.setD rt (sextWord 16 bs))

/-- LDHU (R226). -/
def execLdhu (b : Fin 6) (e : Fin 32) (t : Fin 8) (rt ab : Fin 16) (seg : Fin 8) (m : Mode) (s : State) :
    Host.Outcome State Fault Refusal :=
  .next (s.engineOp b e t (.ldhu b e t rt ab seg m) fun y => y.loadOp e t ab seg m 2 fun th bs => th.setD rt (zextWord bs))

/-- LDB (R226). -/
def execLdb (b : Fin 6) (e : Fin 32) (t : Fin 8) (rt ab : Fin 16) (seg : Fin 8) (m : Mode) (s : State) :
    Host.Outcome State Fault Refusal :=
  .next (s.engineOp b e t (.ldb b e t rt ab seg m) fun y => y.loadOp e t ab seg m 1 fun th bs => th.setD rt (sextWord 8 bs))

/-- LDBU (R226). -/
def execLdbu (b : Fin 6) (e : Fin 32) (t : Fin 8) (rt ab : Fin 16) (seg : Fin 8) (m : Mode) (s : State) :
    Host.Outcome State Fault Refusal :=
  .next (s.engineOp b e t (.ldbu b e t rt ab seg m) fun y => y.loadOp e t ab seg m 1 fun th bs => th.setD rt (zextWord bs))

/-- LDP (R226): Rt takes the word at the lower address. -/
def execLdp (b : Fin 6) (e : Fin 32) (t : Fin 8) (rt ab : Fin 16) (seg : Fin 8) (m : Mode) (s : State) :
    Host.Outcome State Fault Refusal :=
  .next (s.engineOp b e t (.ldp b e t rt ab seg m) fun y => y.loadOp e t ab seg m 8 fun th bs =>
    (th.setD rt (zextWord (bs.take 4))).setD (pairReg rt) (zextWord (bs.drop 4)))

/-- LDA (R226). -/
def execLda (b : Fin 6) (e : Fin 32) (t : Fin 8) (rt ab : Fin 16) (seg : Fin 8) (m : Mode) (s : State) :
    Host.Outcome State Fault Refusal :=
  .next (s.engineOp b e t (.lda b e t rt ab seg m) fun y => y.loadOp e t ab seg m 4 fun th bs => th.setA rt (zextWord bs))

/-- ST (R226); `coll`: the store loses a collision (R284). -/
def execSt (b : Fin 6) (e : Fin 32) (t : Fin 8) (rt ab : Fin 16) (seg : Fin 8) (m : Mode) (coll : Bool) (s : State) :
    Host.Outcome State Fault Refusal :=
  .next (s.engineOp b e t (.st b e t rt ab seg m false) fun y => y.storeOp e t ab seg m coll fun th => leBytes 4 th.d[rt].toNat)

/-- STH (R226). -/
def execSth (b : Fin 6) (e : Fin 32) (t : Fin 8) (rt ab : Fin 16) (seg : Fin 8) (m : Mode) (coll : Bool) (s : State) :
    Host.Outcome State Fault Refusal :=
  .next (s.engineOp b e t (.sth b e t rt ab seg m false) fun y => y.storeOp e t ab seg m coll fun th => leBytes 2 th.d[rt].toNat)

/-- STB (R226). -/
def execStb (b : Fin 6) (e : Fin 32) (t : Fin 8) (rt ab : Fin 16) (seg : Fin 8) (m : Mode) (coll : Bool) (s : State) :
    Host.Outcome State Fault Refusal :=
  .next (s.engineOp b e t (.stb b e t rt ab seg m false) fun y => y.storeOp e t ab seg m coll fun th => leBytes 1 th.d[rt].toNat)

/-- STP (R226). -/
def execStp (b : Fin 6) (e : Fin 32) (t : Fin 8) (rt ab : Fin 16) (seg : Fin 8) (m : Mode) (coll : Bool) (s : State) :
    Host.Outcome State Fault Refusal :=
  .next (s.engineOp b e t (.stp b e t rt ab seg m false) fun y => y.storeOp e t ab seg m coll fun th =>
    leBytes 4 th.d[rt].toNat ++ leBytes 4 th.d[pairReg rt].toNat)

/-- STA (R226). -/
def execSta (b : Fin 6) (e : Fin 32) (t : Fin 8) (rt ab : Fin 16) (seg : Fin 8) (m : Mode) (coll : Bool) (s : State) :
    Host.Outcome State Fault Refusal :=
  .next (s.engineOp b e t (.sta b e t rt ab seg m false) fun y => y.storeOp e t ab seg m coll fun th => leBytes 4 th.a[rt].toNat)

/-- CSAVE (R256). -/
def execCsave (b : Fin 6) (e : Fin 32) (t : Fin 8) (unit : Bool) (ab : Fin 16) (seg : Fin 8) (s : State) :
    Host.Outcome State Fault Refusal :=
  .next (s.engineOp b e t (.csave b e t unit ab seg) fun y => y.unitOp e t unit (y.instrAt e t) fun y => y.csave e t unit ab seg)

/-- CRST (R256). -/
def execCrst (b : Fin 6) (e : Fin 32) (t : Fin 8) (unit : Bool) (ab : Fin 16) (seg : Fin 8) (s : State) :
    Host.Outcome State Fault Refusal :=
  .next (s.engineOp b e t (.crst b e t unit ab seg) fun y => y.unitOp e t unit (y.instrAt e t) fun y => y.crst e t unit ab seg)

end Sys2Proof.Machine
end

