-- ==== Sys2Proof/Machine/Mac.lean ====
section
/-!
DEFINITION. The multiply-accumulate instructions of the engines (R219, R240).
-/

namespace Sys2Proof.Machine

/-- ACX (R240): shift right arithmetically by `sh` after adding the half, and saturate. -/
def acxVal (a : BitVec 72) (sh : Nat) : Word :=
  let h : Int := if sh = 0 then 0 else (2 ^ (sh - 1) : Nat)
  sat32 ((a.toInt + h) / (2 ^ sh : Nat))

/-- A part of an accumulator (R240). -/
def acPart (a : BitVec 72) (part : Nat) : Word :=
  match part with
  | 0 => a.extractLsb' 0 32
  | 1 => a.extractLsb' 32 32
  | _ => (a.extractLsb' 64 8).signExtend 32

/-- Replace a part of an accumulator (R240). -/
def acPut (a : BitVec 72) (part : Nat) (v : Word) : BitVec 72 :=
  match part with
  | 0 => a.extractLsb' 32 40 ++ v
  | 1 => a.extractLsb' 64 8 ++ v ++ a.extractLsb' 0 32
  | _ => v.extractLsb' 0 8 ++ a.extractLsb' 0 64

/-- MAC (R240). -/
def execMac (b : Fin 6) (e : Fin 32) (t : Fin 8) (ac : Fin 4) (ds dt : Fin 16) (s : State) :
    Host.Outcome State Fault Refusal :=
  .next (s.threadOp b e t (.mac b e t ac ds dt) fun th =>
    th.setAc ac (th.ac[ac] + BitVec.ofInt 72 (prodS th.d[ds] th.d[dt])))

/-- MSU (R240). -/
def execMsu (b : Fin 6) (e : Fin 32) (t : Fin 8) (ac : Fin 4) (ds dt : Fin 16) (s : State) :
    Host.Outcome State Fault Refusal :=
  .next (s.threadOp b e t (.msu b e t ac ds dt) fun th =>
    th.setAc ac (th.ac[ac] - BitVec.ofInt 72 (prodS th.d[ds] th.d[dt])))

/-- MACU (R240). -/
def execMacu (b : Fin 6) (e : Fin 32) (t : Fin 8) (ac : Fin 4) (ds dt : Fin 16) (s : State) :
    Host.Outcome State Fault Refusal :=
  .next (s.threadOp b e t (.macu b e t ac ds dt) fun th =>
    th.setAc ac (th.ac[ac] + BitVec.ofNat 72 (prodU th.d[ds] th.d[dt])))

/-- MULAC (R240). -/
def execMulac (b : Fin 6) (e : Fin 32) (t : Fin 8) (ac : Fin 4) (ds dt : Fin 16) (s : State) :
    Host.Outcome State Fault Refusal :=
  .next (s.threadOp b e t (.mulac b e t ac ds dt) fun th =>
    th.setAc ac (BitVec.ofInt 72 (prodS th.d[ds] th.d[dt])))

/-- CLRAC (R240). -/
def execClrac (b : Fin 6) (e : Fin 32) (t : Fin 8) (ac : Fin 4) (s : State) :
    Host.Outcome State Fault Refusal :=
  .next (s.threadOp b e t (.clrac b e t ac) fun th =>
    th.setAc ac 0#72)

/-- ACX (R240). -/
def execAcx (b : Fin 6) (e : Fin 32) (t : Fin 8) (dd : Fin 16) (ac : Fin 4) (sh : BitVec 6) (s : State) :
    Host.Outcome State Fault Refusal :=
  .next (s.threadOp b e t (.acx b e t dd ac sh) fun th =>
    th.setD dd (acxVal th.ac[ac] sh.toNat))

/-- ACXT (R240). -/
def execAcxt (b : Fin 6) (e : Fin 32) (t : Fin 8) (dd : Fin 16) (ac : Fin 4) (sh : BitVec 6) (s : State) :
    Host.Outcome State Fault Refusal :=
  .next (s.threadOp b e t (.acxt b e t dd ac sh) fun th =>
    th.setD dd (th.ac[ac].extractLsb' sh.toNat 32))

/-- MFAC (R240). -/
def execMfac (b : Fin 6) (e : Fin 32) (t : Fin 8) (dd : Fin 16) (ac : Fin 4) (part : BitVec 2) (s : State) :
    Host.Outcome State Fault Refusal :=
  .next (s.threadOp b e t (.mfac b e t dd ac part) fun th =>
    th.setD dd (acPart th.ac[ac] part.toNat))

/-- MTAC (R240). -/
def execMtac (b : Fin 6) (e : Fin 32) (t : Fin 8) (ac : Fin 4) (ds : Fin 16) (part : BitVec 2) (s : State) :
    Host.Outcome State Fault Refusal :=
  .next (s.threadOp b e t (.mtac b e t ac ds part) fun th =>
    th.setAc ac (acPut th.ac[ac] part.toNat th.d[ds]))

end Sys2Proof.Machine
end

