-- ==== Sys2Proof/Machine/Dispatch.lean ====
section
/-!
DEFINITION. What each command does: one arm per constructor, a direct call of its meaning.
-/

namespace Sys2Proof.Machine

def exec (i : Instr) (s : State) : Host.Outcome State Fault Refusal :=
  match i with
  | .registerWrite m a v => Sys2Proof.Machine.execRegisterWrite m a v s
  | .rcRead m a => Sys2Proof.Machine.execRcRead m a s
  | .timeSecLoRead b m => Sys2Proof.Machine.execTimeSecLoRead b m s
  | .octetLoRead b m p tx => Sys2Proof.Machine.execOctetLoRead b m p tx s
  | .monoLoRead b m => Sys2Proof.Machine.execMonoLoRead b m s
  | .hostWindowRead p o => Sys2Proof.Machine.execHostWindowRead p o s
  | .servoReqNone b src bound => Sys2Proof.Machine.execServoReqNone b src bound s
  | .servoReqAcquiring b src bound => Sys2Proof.Machine.execServoReqAcquiring b src bound s
  | .servoReqLocked b src bound => Sys2Proof.Machine.execServoReqLocked b src bound s
  | .servoKeep b src => Sys2Proof.Machine.execServoKeep b src s
  | .servoWatchdogExpiry b => Sys2Proof.Machine.execServoWatchdogExpiry b s
  | .timeStepRequest b src v => Sys2Proof.Machine.execTimeStepRequest b src v s
  | .timeStepApply b => Sys2Proof.Machine.execTimeStepApply b s
  | .leapSecondApply b => Sys2Proof.Machine.execLeapSecondApply b s
  | .errBoundUpdate b dt => Sys2Proof.Machine.execErrBoundUpdate b dt s
  | .refclkLoss b => Sys2Proof.Machine.execRefclkLoss b s
  | .refclkReturn b => Sys2Proof.Machine.execRefclkReturn b s
  | .ppsOutEdge b => Sys2Proof.Machine.execPpsOutEdge b s
  | .ppsPulseEnd b => Sys2Proof.Machine.execPpsPulseEnd b s
  | .ppsInEdge b dt rise => Sys2Proof.Machine.execPpsInEdge b dt rise s
  | .ppsInMissing b => Sys2Proof.Machine.execPpsInMissing b s
  | .tickBoundary b inRoutine => Sys2Proof.Machine.execTickBoundary b inRoutine s
  | .pendingPlanStart b => Sys2Proof.Machine.execPendingPlanStart b s
  | .nop b => Sys2Proof.Machine.execNop b s
  | .waitOfs b => Sys2Proof.Machine.execWaitOfs b s
  | .waitOfsMet b => Sys2Proof.Machine.execWaitOfsMet b s
  | .seal b => Sys2Proof.Machine.execSeal b s
  | .dispatch b => Sys2Proof.Machine.execDispatch b s
  | .dispatchStallEnd b => Sys2Proof.Machine.execDispatchStallEnd b s
  | .tanker b => Sys2Proof.Machine.execTanker b s
  | .launch b => Sys2Proof.Machine.execLaunch b s
  | .audit b => Sys2Proof.Machine.execAudit b s
  | .swap b => Sys2Proof.Machine.execSwap b s
  | .loop b => Sys2Proof.Machine.execLoop b s
  | .commit b => Sys2Proof.Machine.execCommit b s
  | .commitInstant b => Sys2Proof.Machine.execCommitInstant b s
  | .handover b => Sys2Proof.Machine.execHandover b s
  | .sweep b => Sys2Proof.Machine.execSweep b s
  | .record b => Sys2Proof.Machine.execRecord b s
  | .event b => Sys2Proof.Machine.execEvent b s
  | .planEnd b => Sys2Proof.Machine.execPlanEnd b s
  | .overrun b => Sys2Proof.Machine.execOverrun b s
  | .recomputeRequest b inRoutine => Sys2Proof.Machine.execRecomputeRequest b inRoutine s
  | .epochArm b m cancel inRoutine => Sys2Proof.Machine.execEpochArm b m cancel inRoutine s
  | .epochCancel b m => Sys2Proof.Machine.execEpochCancel b m s
  | .verifiedStbySet b m => Sys2Proof.Machine.execVerifiedStbySet b m s
  | .freeze b m v inRoutine => Sys2Proof.Machine.execFreeze b m v inRoutine s
  | .byreFaultEntry b => Sys2Proof.Machine.execByreFaultEntry b s
  | .frameReceive b p dt bytes good => Sys2Proof.Machine.execFrameReceive b p dt bytes good s
  | .priorityFrameTransmit b p dt => Sys2Proof.Machine.execPriorityFrameTransmit b p dt s
  | .portUp b p dt speed => Sys2Proof.Machine.execPortUp b p dt speed s
  | .portDown b p dt why part => Sys2Proof.Machine.execPortDown b p dt why part s
  | .switchFrameDelivery b ix o => Sys2Proof.Machine.execSwitchFrameDelivery b ix o s
  | .creditTotalWrite b m o v => Sys2Proof.Machine.execCreditTotalWrite b m o v s
  | .portCalendarLaunch b p => Sys2Proof.Machine.execPortCalendarLaunch b p s
  | .pinCalendarLaunch b m => Sys2Proof.Machine.execPinCalendarLaunch b m s
  | .tallyRecordWrite b => Sys2Proof.Machine.execTallyRecordWrite b s
  | .tallyRdAdvance b e v => Sys2Proof.Machine.execTallyRdAdvance b e v s
  | .frameClassify b ix => Sys2Proof.Machine.execFrameClassify b ix s
  | .fragmentTimeout b ix => Sys2Proof.Machine.execFragmentTimeout b ix s
  | .inlineAuth b => Sys2Proof.Machine.execInlineAuth b s
  | .skimEntRead b m bank ix => Sys2Proof.Machine.execSkimEntRead b m bank ix s
  | .skimEntWrite b m bank ix => Sys2Proof.Machine.execSkimEntWrite b m bank ix s
  | .skimEntInvalidate b m bank ix => Sys2Proof.Machine.execSkimEntInvalidate b m bank ix s
  | .emuInsert b m => Sys2Proof.Machine.execEmuInsert b m s
  | .emuDeleteByKey b m => Sys2Proof.Machine.execEmuDeleteByKey b m s
  | .emuReadByKey b m => Sys2Proof.Machine.execEmuReadByKey b m s
  | .emuReadByLocation b m loc => Sys2Proof.Machine.execEmuReadByLocation b m loc s
  | .emuDeleteAllKt b m => Sys2Proof.Machine.execEmuDeleteAllKt b m s
  | .noteRemove b m => Sys2Proof.Machine.execNoteRemove b m s
  | .pressFrame b => Sys2Proof.Machine.execPressFrame b s
  | .sealPass b => Sys2Proof.Machine.execSealPass b s
  | .pressPortGo b e t => Sys2Proof.Machine.execPressPortGo b e t s
  | .pressCfgRead b m bank table ix => Sys2Proof.Machine.execPressCfgRead b m bank table ix s
  | .pressCfgWrite b m bank table ix => Sys2Proof.Machine.execPressCfgWrite b m bank table ix s
  | .lateEntryAppend b => Sys2Proof.Machine.execLateEntryAppend b s
  | .engineStart b m e => Sys2Proof.Machine.execEngineStart b m e s
  | .engineStop b m e => Sys2Proof.Machine.execEngineStop b m e s
  | .signalWrite b e mask => Sys2Proof.Machine.execSignalWrite b e mask s
  | .wfeWake b e t => Sys2Proof.Machine.execWfeWake b e t s
  | .operationPlace b => Sys2Proof.Machine.execOperationPlace b s
  | .ingressFrame b => Sys2Proof.Machine.execIngressFrame b s
  | .postHeadRemove b e t => Sys2Proof.Machine.execPostHeadRemove b e t s
  | .budgetOverrun b e t => Sys2Proof.Machine.execBudgetOverrun b e t s
  | .ingEntryRead b m bank ix => Sys2Proof.Machine.execIngEntryRead b m bank ix s
  | .ingEntryWrite b m bank ix => Sys2Proof.Machine.execIngEntryWrite b m bank ix s
  | .indDataRead b m => Sys2Proof.Machine.execIndDataRead b m s
  | .indDataWrite b m v => Sys2Proof.Machine.execIndDataWrite b m v s
  | .add b e t rd rs rt => Sys2Proof.Machine.execAdd b e t rd rs rt s
  | .sub b e t rd rs rt => Sys2Proof.Machine.execSub b e t rd rs rt s
  | .adds b e t rd rs rt => Sys2Proof.Machine.execAdds b e t rd rs rt s
  | .subs b e t rd rs rt => Sys2Proof.Machine.execSubs b e t rd rs rt s
  | .and b e t rd rs rt => Sys2Proof.Machine.execAnd b e t rd rs rt s
  | .or b e t rd rs rt => Sys2Proof.Machine.execOr b e t rd rs rt s
  | .xor b e t rd rs rt => Sys2Proof.Machine.execXor b e t rd rs rt s
  | .andn b e t rd rs rt => Sys2Proof.Machine.execAndn b e t rd rs rt s
  | .sll b e t rd rs rt => Sys2Proof.Machine.execSll b e t rd rs rt s
  | .srl b e t rd rs rt => Sys2Proof.Machine.execSrl b e t rd rs rt s
  | .sra b e t rd rs rt => Sys2Proof.Machine.execSra b e t rd rs rt s
  | .ror b e t rd rs rt => Sys2Proof.Machine.execRor b e t rd rs rt s
  | .slt b e t rd rs rt => Sys2Proof.Machine.execSlt b e t rd rs rt s
  | .sltu b e t rd rs rt => Sys2Proof.Machine.execSltu b e t rd rs rt s
  | .min b e t rd rs rt => Sys2Proof.Machine.execMin b e t rd rs rt s
  | .max b e t rd rs rt => Sys2Proof.Machine.execMax b e t rd rs rt s
  | .minu b e t rd rs rt => Sys2Proof.Machine.execMinu b e t rd rs rt s
  | .maxu b e t rd rs rt => Sys2Proof.Machine.execMaxu b e t rd rs rt s
  | .mul b e t rd rs rt => Sys2Proof.Machine.execMul b e t rd rs rt s
  | .mulh b e t rd rs rt => Sys2Proof.Machine.execMulh b e t rd rs rt s
  | .mulhu b e t rd rs rt => Sys2Proof.Machine.execMulhu b e t rd rs rt s
  | .clz b e t rd rs => Sys2Proof.Machine.execClz b e t rd rs s
  | .abs b e t rd rs => Sys2Proof.Machine.execAbs b e t rd rs s
  | .addi b e t rd rs imm => Sys2Proof.Machine.execAddi b e t rd rs imm s
  | .slti b e t rd rs imm => Sys2Proof.Machine.execSlti b e t rd rs imm s
  | .sltiu b e t rd rs imm => Sys2Proof.Machine.execSltiu b e t rd rs imm s
  | .andi b e t rd rs imm => Sys2Proof.Machine.execAndi b e t rd rs imm s
  | .ori b e t rd rs imm => Sys2Proof.Machine.execOri b e t rd rs imm s
  | .xori b e t rd rs imm => Sys2Proof.Machine.execXori b e t rd rs imm s
  | .lui b e t rd imm => Sys2Proof.Machine.execLui b e t rd imm s
  | .shifti b e t rd rs ty sh => Sys2Proof.Machine.execShifti b e t rd rs ty sh s
  | .addai b e t ad sa imm => Sys2Proof.Machine.execAddai b e t ad sa imm s
  | .mova b e t ad sa => Sys2Proof.Machine.execMova b e t ad sa s
  | .adda b e t ad sa dt sc => Sys2Proof.Machine.execAdda b e t ad sa dt sc s
  | .suba b e t ad sa dt sc => Sys2Proof.Machine.execSuba b e t ad sa dt sc s
  | .movda b e t ad ds => Sys2Proof.Machine.execMovda b e t ad ds s
  | .movad b e t dd sa => Sys2Proof.Machine.execMovad b e t dd sa s
  | .mfc b e t dx cr => Sys2Proof.Machine.execMfc b e t dx cr s
  | .mtc b e t dx cr => Sys2Proof.Machine.execMtc b e t dx cr s
  | .getc b e t th cls idx dx => Sys2Proof.Machine.execGetc b e t th cls idx dx s
  | .putc b e t th cls idx dx => Sys2Proof.Machine.execPutc b e t th cls idx dx s
  | .release b e t dx => Sys2Proof.Machine.execRelease b e t dx s
  | .ld b e t rt ab seg m => Sys2Proof.Machine.execLd b e t rt ab seg m s
  | .ldh b e t rt ab seg m => Sys2Proof.Machine.execLdh b e t rt ab seg m s
  | .ldhu b e t rt ab seg m => Sys2Proof.Machine.execLdhu b e t rt ab seg m s
  | .ldb b e t rt ab seg m => Sys2Proof.Machine.execLdb b e t rt ab seg m s
  | .ldbu b e t rt ab seg m => Sys2Proof.Machine.execLdbu b e t rt ab seg m s
  | .ldp b e t rt ab seg m => Sys2Proof.Machine.execLdp b e t rt ab seg m s
  | .lda b e t rt ab seg m => Sys2Proof.Machine.execLda b e t rt ab seg m s
  | .st b e t rt ab seg m coll => Sys2Proof.Machine.execSt b e t rt ab seg m coll s
  | .sth b e t rt ab seg m coll => Sys2Proof.Machine.execSth b e t rt ab seg m coll s
  | .stb b e t rt ab seg m coll => Sys2Proof.Machine.execStb b e t rt ab seg m coll s
  | .stp b e t rt ab seg m coll => Sys2Proof.Machine.execStp b e t rt ab seg m coll s
  | .sta b e t rt ab seg m coll => Sys2Proof.Machine.execSta b e t rt ab seg m coll s
  | .br b e t ds dt cond off => Sys2Proof.Machine.execBr b e t ds dt cond off s
  | .brz b e t ds cond off => Sys2Proof.Machine.execBrz b e t ds cond off s
  | .j b e t tgt => Sys2Proof.Machine.execJ b e t tgt s
  | .call b e t tgt => Sys2Proof.Machine.execCall b e t tgt s
  | .jr b e t sa => Sys2Proof.Machine.execJr b e t sa s
  | .callr b e t sa => Sys2Proof.Machine.execCallr b e t sa s
  | .ret b e t => Sys2Proof.Machine.execRet b e t s
  | .loopi b e t count off => Sys2Proof.Machine.execLoopi b e t count off s
  | .loopr b e t ds off => Sys2Proof.Machine.execLoopr b e t ds off s
  | .lpop b e t n => Sys2Proof.Machine.execLpop b e t n s
  | .wfe b e t dd mask => Sys2Proof.Machine.execWfe b e t dd mask s
  | .endop b e t inv => Sys2Proof.Machine.execEndop b e t inv s
  | .rft b e t skip => Sys2Proof.Machine.execRft b e t skip s
  | .brk b e t => Sys2Proof.Machine.execBrk b e t s
  | .mac b e t ac ds dt => Sys2Proof.Machine.execMac b e t ac ds dt s
  | .msu b e t ac ds dt => Sys2Proof.Machine.execMsu b e t ac ds dt s
  | .macu b e t ac ds dt => Sys2Proof.Machine.execMacu b e t ac ds dt s
  | .mulac b e t ac ds dt => Sys2Proof.Machine.execMulac b e t ac ds dt s
  | .clrac b e t ac => Sys2Proof.Machine.execClrac b e t ac s
  | .acx b e t dd ac sh => Sys2Proof.Machine.execAcx b e t dd ac sh s
  | .acxt b e t dd ac sh => Sys2Proof.Machine.execAcxt b e t dd ac sh s
  | .mfac b e t dd ac part => Sys2Proof.Machine.execMfac b e t dd ac part s
  | .mtac b e t ac ds part => Sys2Proof.Machine.execMtac b e t ac ds part s
  | .mfcp b e t unit dx reg => Sys2Proof.Machine.execMfcp b e t unit dx reg s
  | .mtcp b e t unit dx reg => Sys2Proof.Machine.execMtcp b e t unit dx reg s
  | .csave b e t unit ab seg => Sys2Proof.Machine.execCsave b e t unit ab seg s
  | .crst b e t unit ab seg => Sys2Proof.Machine.execCrst b e t unit ab seg s
  | .sdft b e t mask adv => Sys2Proof.Machine.execSdft b e t mask adv s
  | .out b e t ch form rot => Sys2Proof.Machine.execOut b e t ch form rot s
  | .cmul b e t qd qa qb => Sys2Proof.Machine.execCmul b e t qd qa qb s
  | .cmac b e t qd qa qb => Sys2Proof.Machine.execCmac b e t qd qa qb s
  | .cclr b e t qd => Sys2Proof.Machine.execCclr b e t qd s
  | .clrs b e t mask => Sys2Proof.Machine.execClrs b e t mask s
  | .begin b e t => Sys2Proof.Machine.execBegin b e t s
  | .upd b e t len => Sys2Proof.Machine.execUpd b e t len s
  | .fin b e t => Sys2Proof.Machine.execFin b e t s
  | .drop b e t => Sys2Proof.Machine.execDrop b e t s
  | .cpResultCommit b e t unit => Sys2Proof.Machine.execCpResultCommit b e t unit s
  | .cpGateWrite b m strGate v => Sys2Proof.Machine.execCpGateWrite b m strGate v s
  | .keySlotRead b m bank slot => Sys2Proof.Machine.execKeySlotRead b m bank slot s
  | .keyHeaderWrite b m bank slot => Sys2Proof.Machine.execKeyHeaderWrite b m bank slot s
  | .keyMaterialWrite b m bank key slot => Sys2Proof.Machine.execKeyMaterialWrite b m bank key slot s
  | .keySlotInvalidate b m bank slot => Sys2Proof.Machine.execKeySlotInvalidate b m bank slot s
  | .handoverPendingApply b bank => Sys2Proof.Machine.execHandoverPendingApply b bank s
  | .vatOwnerWrite b m bank owner => Sys2Proof.Machine.execVatOwnerWrite b m bank owner s
  | .bankRetain b m bank => Sys2Proof.Machine.execBankRetain b m bank s
  | .bankWake b m bank => Sys2Proof.Machine.execBankWake b m bank s
  | .bankWakeEnd b bank => Sys2Proof.Machine.execBankWakeEnd b bank s
  | .poolEnable b m p base nbanks => Sys2Proof.Machine.execPoolEnable b m p base nbanks s
  | .poolDisable b m p base nbanks => Sys2Proof.Machine.execPoolDisable b m p base nbanks s
  | .pailAlloc b r size => Sys2Proof.Machine.execPailAlloc b r size s
  | .pailFree b r off => Sys2Proof.Machine.execPailFree b r off s
  | .pailSend b e t off => Sys2Proof.Machine.execPailSend b e t off s
  | .collRead b e t => Sys2Proof.Machine.execCollRead b e t s
  | .poolRebuild b p => Sys2Proof.Machine.execPoolRebuild b p s
  | .tnkShadowWrite b m n w v => Sys2Proof.Machine.execTnkShadowWrite b m n w v s
  | .tnkArm b m n => Sys2Proof.Machine.execTnkArm b m n s
  | .tnkDoorbell b m n => Sys2Proof.Machine.execTnkDoorbell b m n s
  | .tnkAbort b m n cells host => Sys2Proof.Machine.execTnkAbort b m n cells host s
  | .tnkDisable b m n => Sys2Proof.Machine.execTnkDisable b m n s
  | .tnkDisableClear b m n => Sys2Proof.Machine.execTnkDisableClear b m n s
  | .descriptorComplete b n dt host => Sys2Proof.Machine.execDescriptorComplete b n dt host s
  | .lockAcquire b crm src l v => Sys2Proof.Machine.execLockAcquire b crm src l v s
  | .lockRelease b crm src l => Sys2Proof.Machine.execLockRelease b crm src l s
  | .resultStage b e t w1 => Sys2Proof.Machine.execResultStage b e t w1 s
  | .subSelLatch b e t n => Sys2Proof.Machine.execSubSelLatch b e t n s
  | .captureHeadRemove b e => Sys2Proof.Machine.execCaptureHeadRemove b e s
  | .recTrigWrite b e code => Sys2Proof.Machine.execRecTrigWrite b e code s
  | .pinPulseExpiry b m => Sys2Proof.Machine.execPinPulseExpiry b m s
  | .pinEdgeCapture b m dt rise => Sys2Proof.Machine.execPinEdgeCapture b m dt rise s
  | .gooseRetransmit b n => Sys2Proof.Machine.execGooseRetransmit b n s
  | .subExpiry b n => Sys2Proof.Machine.execSubExpiry b n s
  | .pubEntryRead b m bank n => Sys2Proof.Machine.execPubEntryRead b m bank n s
  | .pubEntryWrite b m bank n => Sys2Proof.Machine.execPubEntryWrite b m bank n s
  | .pubStateRead b m bank n => Sys2Proof.Machine.execPubStateRead b m bank n s
  | .subEntryRead b m bank n => Sys2Proof.Machine.execSubEntryRead b m bank n s
  | .subEntryWrite b m bank n => Sys2Proof.Machine.execSubEntryWrite b m bank n s
  | .subStateRead b m bank n => Sys2Proof.Machine.execSubStateRead b m bank n s
  | .initWordReceive b l dt node herd tot => Sys2Proof.Machine.execInitWordReceive b l dt node herd tot s
  | .linkWordReceive b l dt valid ack nak ret => Sys2Proof.Machine.execLinkWordReceive b l dt valid ack nak ret s
  | .canReceive b l dt bytes => Sys2Proof.Machine.execCanReceive b l dt bytes s
  | .canTransmit b l dt => Sys2Proof.Machine.execCanTransmit b l dt s
  | .retryTimeout b l => Sys2Proof.Machine.execRetryTimeout b l s
  | .echoRequest b l => Sys2Proof.Machine.execEchoRequest b l s
  | .echoResponse b l dt => Sys2Proof.Machine.execEchoResponse b l dt s
  | .ctlTxSend b m => Sys2Proof.Machine.execCtlTxSend b m s
  | .ctlRxRemove b m => Sys2Proof.Machine.execCtlRxRemove b m s
  | .join b => Sys2Proof.Machine.execJoin b s
  | .joinResend b => Sys2Proof.Machine.execJoinResend b s
  | .joinAck b => Sys2Proof.Machine.execJoinAck b s
  | .leave b => Sys2Proof.Machine.execLeave b s
  | .heartbeat b => Sys2Proof.Machine.execHeartbeat b s
  | .heartbeatSend b => Sys2Proof.Machine.execHeartbeatSend b s
  | .heartbeatTimeout b => Sys2Proof.Machine.execHeartbeatTimeout b s
  | .epochAnnounce b => Sys2Proof.Machine.execEpochAnnounce b s
  | .epochReport b => Sys2Proof.Machine.execEpochReport b s
  | .tunHeadRemove b e t => Sys2Proof.Machine.execTunHeadRemove b e t s
  | .tunInject b e t off => Sys2Proof.Machine.execTunInject b e t off s
  | .tunDrop b e t v => Sys2Proof.Machine.execTunDrop b e t v s
  | .shareEntryRead b m bank n => Sys2Proof.Machine.execShareEntryRead b m bank n s
  | .shareEntryWrite b m bank n => Sys2Proof.Machine.execShareEntryWrite b m bank n s
  | .dramTrain b m speed => Sys2Proof.Machine.execDramTrain b m speed s
  | .dramLoad b m speed => Sys2Proof.Machine.execDramLoad b m speed s
  | .speedGo b m speed => Sys2Proof.Machine.execSpeedGo b m speed s
  | .trainingEnd b dt fail mib => Sys2Proof.Machine.execTrainingEnd b dt fail mib s
  | .loadEnd b dt fail mib => Sys2Proof.Machine.execLoadEnd b dt fail mib s
  | .trainDataAccess b m write v => Sys2Proof.Machine.execTrainDataAccess b m write v s
  | .neighbourRefresh b => Sys2Proof.Machine.execNeighbourRefresh b s
  | .recorderDrain b n c => Sys2Proof.Machine.execRecorderDrain b n c s
  | .recCmdTrigger b m code => Sys2Proof.Machine.execRecCmdTrigger b m code s
  | .recCmdRearm b m code => Sys2Proof.Machine.execRecCmdRearm b m code s
  | .hostPortReset why dt => Sys2Proof.Machine.execHostPortReset why dt s
  | .mailboxAck n => Sys2Proof.Machine.execMailboxAck n s
  | .mailboxAbort n => Sys2Proof.Machine.execMailboxAbort n s
  | .evqRdWrite v => Sys2Proof.Machine.execEvqRdWrite v s
  | .expTailWrite r tail => Sys2Proof.Machine.execExpTailWrite r tail s
  | .exportEndMark b dt desc => Sys2Proof.Machine.execExportEndMark b dt desc s
  | .exportCoalTimeout r => Sys2Proof.Machine.execExportCoalTimeout r s
  | .sysInfo n => Sys2Proof.Machine.execSysInfo n s
  | .sysStatus n => Sys2Proof.Machine.execSysStatus n s
  | .alarmAck n => Sys2Proof.Machine.execAlarmAck n s
  | .counterBaseline n => Sys2Proof.Machine.execCounterBaseline n s
  | .creameryRestart n => Sys2Proof.Machine.execCreameryRestart n s
  | .sessionNonce n => Sys2Proof.Machine.execSessionNonce n s
  | .sessionOpen n => Sys2Proof.Machine.execSessionOpen n s
  | .sessionOpenHmac n => Sys2Proof.Machine.execSessionOpenHmac n s
  | .sessionClose n => Sys2Proof.Machine.execSessionClose n s
  | .claim n low => Sys2Proof.Machine.execClaim n low s
  | .installerKeyRotate n => Sys2Proof.Machine.execInstallerKeyRotate n s
  | .operatorSecretSet n => Sys2Proof.Machine.execOperatorSecretSet n s
  | .byreStatus n => Sys2Proof.Machine.execByreStatus n s
  | .byreReset n => Sys2Proof.Machine.execByreReset n s
  | .byreRelease n => Sys2Proof.Machine.execByreRelease n s
  | .byreStart n => Sys2Proof.Machine.execByreStart n s
  | .byreStop n => Sys2Proof.Machine.execByreStop n s
  | .microcodeLoad n host => Sys2Proof.Machine.execMicrocodeLoad n host s
  | .benchOverride n => Sys2Proof.Machine.execBenchOverride n s
  | .testEnter n => Sys2Proof.Machine.execTestEnter n s
  | .testExit n => Sys2Proof.Machine.execTestExit n s
  | .tankerAbort n => Sys2Proof.Machine.execTankerAbort n s
  | .blockCounters n => Sys2Proof.Machine.execBlockCounters n s
  | .schedLoad n host => Sys2Proof.Machine.execSchedLoad n host s
  | .schedVerify n => Sys2Proof.Machine.execSchedVerify n s
  | .schedArm n => Sys2Proof.Machine.execSchedArm n s
  | .schedCancel n => Sys2Proof.Machine.execSchedCancel n s
  | .schedStatus n => Sys2Proof.Machine.execSchedStatus n s
  | .schedInstall n host => Sys2Proof.Machine.execSchedInstall n host s
  | .schedList n => Sys2Proof.Machine.execSchedList n s
  | .schedSelect n => Sys2Proof.Machine.execSchedSelect n s
  | .schedRemove n => Sys2Proof.Machine.execSchedRemove n s
  | .emuWrite n => Sys2Proof.Machine.execEmuWrite n s
  | .emuRead n => Sys2Proof.Machine.execEmuRead n s
  | .emuDeleteType n => Sys2Proof.Machine.execEmuDeleteType n s
  | .emuConfig n => Sys2Proof.Machine.execEmuConfig n s
  | .learnConfig n => Sys2Proof.Machine.execLearnConfig n s
  | .fwdNotes n => Sys2Proof.Machine.execFwdNotes n s
  | .fwdCopy n => Sys2Proof.Machine.execFwdCopy n s
  | .keyWrite n => Sys2Proof.Machine.execKeyWrite n s
  | .keyInvalidate n => Sys2Proof.Machine.execKeyInvalidate n s
  | .keyRead n => Sys2Proof.Machine.execKeyRead n s
  | .timeStatus n => Sys2Proof.Machine.execTimeStatus n s
  | .timeConfig n => Sys2Proof.Machine.execTimeConfig n s
  | .rtcSet n => Sys2Proof.Machine.execRtcSet n s
  | .utcSet n => Sys2Proof.Machine.execUtcSet n s
  | .ppsConfig n => Sys2Proof.Machine.execPpsConfig n s
  | .portDelay n => Sys2Proof.Machine.execPortDelay n s
  | .portStatus n => Sys2Proof.Machine.execPortStatus n s
  | .portConfig n => Sys2Proof.Machine.execPortConfig n s
  | .pairConfig n => Sys2Proof.Machine.execPairConfig n s
  | .tallyConfig n => Sys2Proof.Machine.execTallyConfig n s
  | .pinConfig n => Sys2Proof.Machine.execPinConfig n s
  | .frameSend n => Sys2Proof.Machine.execFrameSend n s
  | .frameRecv n => Sys2Proof.Machine.execFrameRecv n s
  | .exportSetup n => Sys2Proof.Machine.execExportSetup n s
  | .exportStop n => Sys2Proof.Machine.execExportStop n s
  | .exportStatus n => Sys2Proof.Machine.execExportStatus n s
  | .hwinMap n => Sys2Proof.Machine.execHwinMap n s
  | .groupStatus n => Sys2Proof.Machine.execGroupStatus n s
  | .herdNode n => Sys2Proof.Machine.execHerdNode n s
  | .herdLink n => Sys2Proof.Machine.execHerdLink n s
  | .herdRoute n => Sys2Proof.Machine.execHerdRoute n s
  | .herdStatus n => Sys2Proof.Machine.execHerdStatus n s
  | .herdEpoch n => Sys2Proof.Machine.execHerdEpoch n s
  | .tunnelConfig n => Sys2Proof.Machine.execTunnelConfig n s
  | .recConfig n => Sys2Proof.Machine.execRecConfig n s
  | .recTrigger n => Sys2Proof.Machine.execRecTrigger n s
  | .recExport n => Sys2Proof.Machine.execRecExport n s
  | .recRearm n => Sys2Proof.Machine.execRecRearm n s
  | .recStatus n => Sys2Proof.Machine.execRecStatus n s
  | .powerStatus n readings => Sys2Proof.Machine.execPowerStatus n readings s
  | .domainSet n mute pgood => Sys2Proof.Machine.execDomainSet n mute pgood s
  | .vcoreSet n => Sys2Proof.Machine.execVcoreSet n s
  | .dramSpeed n => Sys2Proof.Machine.execDramSpeed n s
  | .powerPolicy n => Sys2Proof.Machine.execPowerPolicy n s
  | .pfailConfig n => Sys2Proof.Machine.execPfailConfig n s
  | .auditStatus n => Sys2Proof.Machine.execAuditStatus n s
  | .auditExport n => Sys2Proof.Machine.execAuditExport n s
  | .auditWrap n => Sys2Proof.Machine.execAuditWrap n s
  | .regRead n => Sys2Proof.Machine.execRegRead n s
  | .regWrite n => Sys2Proof.Machine.execRegWrite n s
  | .debugUnlock n => Sys2Proof.Machine.execDebugUnlock n s
  | .debugHalt n => Sys2Proof.Machine.execDebugHalt n s
  | .debugResume n => Sys2Proof.Machine.execDebugResume n s
  | .debugFreeze n => Sys2Proof.Machine.execDebugFreeze n s
  | .scratchRead n => Sys2Proof.Machine.execScratchRead n s
  | .tempRead n temps => Sys2Proof.Machine.execTempRead n temps s
  | .fuseProgram n => Sys2Proof.Machine.execFuseProgram n s
  | .factoryTest n => Sys2Proof.Machine.execFactoryTest n s
  | .fwStatus n => Sys2Proof.Machine.execFwStatus n s
  | .fwUpdate n host => Sys2Proof.Machine.execFwUpdate n host s
  | .fwActivate n => Sys2Proof.Machine.execFwActivate n s
  | .fwCommit n => Sys2Proof.Machine.execFwCommit n s
  | .creameryResetRelease dt flash => Sys2Proof.Machine.execCreameryResetRelease dt flash s
  | .creameryWatchdogExpiry => Sys2Proof.Machine.execCreameryWatchdogExpiry s
  | .firmwareStart pgood => Sys2Proof.Machine.execFirmwareStart pgood s
  | .sessionTimeout id => Sys2Proof.Machine.execSessionTimeout id s
  | .pwrRequest m v mute pgood => Sys2Proof.Machine.execPwrRequest m v mute pgood s
  | .handshakeTimeout => Sys2Proof.Machine.execHandshakeTimeout s
  | .wakeEvent b ix dt pgood => Sys2Proof.Machine.execWakeEvent b ix dt pgood s
  | .voltageRequest m b v => Sys2Proof.Machine.execVoltageRequest m b v s
  | .vreqTimeout b acked pgood => Sys2Proof.Machine.execVreqTimeout b acked pgood s
  | .pgoodFall b dt => Sys2Proof.Machine.execPgoodFall b dt s
  | .pfailRaise dt vin => Sys2Proof.Machine.execPfailRaise dt vin s
  | .pfailClear dt vin => Sys2Proof.Machine.execPfailClear dt vin s
  | .powerOnReset rise => Sys2Proof.Machine.execPowerOnReset rise s
  | .crmResetPin dt => Sys2Proof.Machine.execCrmResetPin dt s
  | .crmRefclkLoss dt back => Sys2Proof.Machine.execCrmRefclkLoss dt back s
  | .jtagSystemReset => Sys2Proof.Machine.execJtagSystemReset s
  | .mailboxRing n dt => Sys2Proof.Machine.execMailboxRing n dt s
  | .undefinedInstruction b e t => Sys2Proof.Machine.execUndefinedInstruction b e t s
  | .initWordSend b l dt => Sys2Proof.Machine.execInitWordSend b l dt s
  | .voltageRequestDone b dt => Sys2Proof.Machine.execVoltageRequestDone b dt s

end Sys2Proof.Machine
end

