-- ==== Sys2Proof/Machine/Mp.lean ====
section
/-!
DEFINITION. The management processor of the creamery (R251): one thread that executes the engine instruction set from the
management SRAM, its segments over the management view, and with no coprocessor, no budget and no operations.
-/

namespace Sys2Proof.Machine

namespace State

/-! ### The management view as segments see it (R25, R26, R28) -/

/-- Does the address lie in a register block? -/
def inRegs (a : Nat) : Bool :=
  (decide (0x2000000 ≤ a) && decide (a < 0x4000000) && !Creamery.bar0Mem a) || (decide (0xD000000 ≤ a) && decide (a < 0xD010000)) ||
  (decide (0x10000000 ≤ a) && decide (a < 0x16000000) && decide (0xC00000 ≤ a % 0x1000000) && decide (a % 0x1000000 < 0xD00000))

/-- Why a register block refuses an access that is not a naturally aligned word (R28). -/
def partErr (s : State) (a : Nat) : BusErr :=
  if h : 0x10000000 ≤ a ∧ a < 0x16000000 then
    if !s.on ⟨(a - 0x10000000) / 0x1000000, by omega⟩ domFAB then .domainOff
    else if (byreReg (a % 0x1000000 / 4 * 4)).isNone then .unmapped else .align
  else if (crmReg (a / 4 * 4)).isNone then .unmapped else .align

/-- The state after the first of the words that the access `f` records an error at: a refused access is refused whole, and recorded
once (R28, R29). -/
def refusedAt (s : State) (f : State → Nat → State) : List Nat → Option State
  | [] => none
  | a :: as =>
    let t := f s a
    if t.crm.regs = s.crm.regs then s.refusedAt f as else some t

/-- A load of `n` bytes from the management address `p`: a refused one reads 0 and raises no trap. -/
def mpRead (s : State) (p n : Nat) : State × List Byte :=
  let keep := fun (t : State) => { t with busRd := s.busRd }
  let rd := fun (s : State) (a : Nat) => s.busRead .mp (a % 2 ^ 32)
  if inRegs p then
    (if p % 4 = 0 ∧ n = 4 then (keep (rd s p), leBytes 4 (rd s p).busRd.toNat)
     else (s.busErr (s.partErr p) .mp false p, List.replicate n 0#8))
  else
    match s.refusedAt rd (wordsAt p n) with
    | some t => (keep t, List.replicate n 0#8)
    | none => (s, (((wordsAt p n).flatMap fun a => leBytes 4 (rd s a).busRd.toNat).drop (p % 4)).take n)

/-- A store of bytes at the management address `p`: a refused one is not applied and raises no trap. -/
def mpWrite (s : State) (p : Nat) (bs : List Byte) : State :=
  let n := bs.length
  let put := fun (s : State) (a : Nat) =>
    let old := leBytes 4 (s.busRead .mp (a % 2 ^ 32)).busRd.toNat
    let new := (List.range 4).map fun (i : Nat) => if p ≤ a + i ∧ a + i < p + n then bs.getD (a + i - p) 0#8 else old.getD i 0#8
    { s.busWrite .mp (a % 2 ^ 32) (leNat new) with busRd := s.busRd }
  if inRegs p then
    (if p % 4 = 0 ∧ n = 4 then { s.busWrite .mp p (leNat bs) with busRd := s.busRd }
     else s.busErr (s.partErr p) .mp true p)
  else (s.refusedAt put (wordsAt p n)).getD ((wordsAt p n).foldl put s)

/-- Does one of the words fail parity, where they lie in the management SRAM (R24, R473)? -/
def sramBad (s : State) (ws : List Nat) : Bool := ws.any fun a => s.crm.badPar.contains a

/-! ### Instructions -/

/-- The thread after a trap (R244, R245). -/
def mpTrap (s : State) (t : Trap) : State := s.onCrm fun c => { c with mp := c.mp.trapEntry t }

/-- An instruction that neither loads nor stores has the effect it has on an engine (R251): it runs as the thread of an engine that
has nothing else to do, and the thread is taken back. -/
def mpShell (th : Thr) (w : Word) : State :=
  let y := (Byre.zero 0).setThread 0 0 th
  { State.reset with
    byres := State.reset.byres.set 0 { y with mem := Mem.write y.mem (Byre.codeAddr 0 th.pc.toNat) (leBytes 4 w.toNat) }
    crm := (Creamery.zero.setDom 0 domFAB 2).setDom 0 domCL 2 }

/-- The thread after such an instruction. -/
def mpAlu (th : Thr) (w : Word) (i : Instr) : Thr :=
  match exec i (mpShell th w) with
  | .next s => { (s.byre 0).thread 0 0 with after := 0, load := false }
  | _ => th

end State

/-- What a load does (R226): base, segment, mode, size, and the register write. -/
def loadForm : Instr → Option (Fin 16 × Nat × Mode × Nat × (Thr → List Byte → Thr))
  | .ld _ _ _ rt ab sg m => some (ab, sg, m, 4, fun th bs => th.setD rt (zextWord bs))
  | .ldh _ _ _ rt ab sg m => some (ab, sg, m, 2, fun th bs => th.setD rt (sextWord 16 bs))
  | .ldhu _ _ _ rt ab sg m => some (ab, sg, m, 2, fun th bs => th.setD rt (zextWord bs))
  | .ldb _ _ _ rt ab sg m => some (ab, sg, m, 1, fun th bs => th.setD rt (sextWord 8 bs))
  | .ldbu _ _ _ rt ab sg m => some (ab, sg, m, 1, fun th bs => th.setD rt (zextWord bs))
  | .ldp _ _ _ rt ab sg m =>
    some (ab, sg, m, 8, fun th bs => (th.setD rt (zextWord (bs.take 4))).setD (pairReg rt) (zextWord (bs.drop 4)))
  | .lda _ _ _ rt ab sg m => some (ab, sg, m, 4, fun th bs => th.setA rt (zextWord bs))
  | _ => none

/-- What a store does (R226): base, segment, mode and the bytes. -/
def storeForm : Instr → Option (Fin 16 × Nat × Mode × (Thr → List Byte))
  | .st _ _ _ rt ab sg m _ => some (ab, sg, m, fun th => leBytes 4 th.d[rt].toNat)
  | .sth _ _ _ rt ab sg m _ => some (ab, sg, m, fun th => leBytes 2 th.d[rt].toNat)
  | .stb _ _ _ rt ab sg m _ => some (ab, sg, m, fun th => leBytes 1 th.d[rt].toNat)
  | .stp _ _ _ rt ab sg m _ => some (ab, sg, m, fun th => leBytes 4 th.d[rt].toNat ++ leBytes 4 th.d[pairReg rt].toNat)
  | .sta _ _ _ rt ab sg m _ => some (ab, sg, m, fun th => leBytes 4 th.a[rt].toNat)
  | _ => none

/-- GETC, PUTC, RELEASE and ENDOP, which the management processor does not define (R251). -/
def engineOnly : Instr → Bool
  | .getc .. => true
  | .putc .. => true
  | .release .. => true
  | .endop .. => true
  | _ => false

namespace State

/-- The processor's thread, changed. -/
def onMp (s : State) (f : Thr → Thr) : State := s.onCrm fun c => { c with mp := f c.mp }

/-- A load of the management processor (R225 checks 1 to 3, R251); a failing word of the management SRAM restarts the creamery
(R473). -/
def mpLoad (s : State) (w : Word) (ab : Fin 16) (sg : Nat) (m : Mode) (n : Nat) (put : Thr → List Byte → Thr) : State :=
  let th := s.crm.mp
  let (off, wb) := Mode.eval m th ab
  match Byre.segCheck th sg off.toNat n n false with
  | .inr (c, d) => s.mpTrap (Byre.accTrap w.toNat off.toNat sg c d)
  | .inl p =>
    if s.sramBad (wordsAt p n) then s.crmReset 5
    else
      let (s, bs) := s.mpRead p n
      s.onMp fun th => (wb.elim (put th bs) fun v => (put th bs).setA ab v).complete .seq

/-- A store of the management processor.  Where it restarts the creamery, the processor is as its reset leaves it. -/
def mpStore (s : State) (w : Word) (ab : Fin 16) (sg : Nat) (m : Mode) (bs : List Byte) : State :=
  let th := s.crm.mp
  let (off, wb) := Mode.eval m th ab
  match Byre.segCheck th sg off.toNat bs.length bs.length true with
  | .inr (c, d) => s.mpTrap (Byre.accTrap w.toNat off.toNat sg c d)
  | .inl p =>
    (s.mpWrite p bs).onMp fun th => if th.released then (wb.elim th fun v => th.setA ab v).complete .seq else th

/-- The instruction word `w` at the processor's PC (R243, R251). -/
def mpExec (s : State) (w : Word) : State :=
  let th := s.crm.mp
  match Byre.slotViolation th w with
  | some d => s.mpTrap ⟨5, d, w.toNat, 0⟩
  | none =>
    if 0x38 ≤ bits w.toNat 31 26 then s.mpTrap ⟨2, 0, w.toNat, 0⟩
    else
      match decodeEng 0 0 0 w with
      | none => s.mpTrap ⟨1, 0, w.toNat, 0⟩
      | some i =>
        if engineOnly i then s.mpTrap ⟨1, 0, w.toNat, 0⟩
        else
          match loadForm i, storeForm i with
          | some (ab, sg, m, n, put), _ => s.mpLoad w ab sg m n put
          | none, some (ab, sg, m, bs) => s.mpStore w ab sg m (bs th)
          | none, none => s.onMp fun th => mpAlu th w i

/-- A wait of the processor: it ends on a masked event, of which bit 1, the firmware timer, comes whenever it comes (R198, R251). -/
def mpWait (s : State) : State :=
  s.onCrm fun c =>
    let ev := if Config.fwTimer c.free then BitVec.ofNat 5 (setBit c.mp.ev.toNat 1) else c.mp.ev
    let th := { c.mp with ev := ev }
    { c with free := c.free + 1, mp := if (th.wait.getD 0#5) &&& ev ≠ 0#5 then th.wake false else th }

/-- One instruction of the management processor, while its firmware image is started: a word of the management SRAM that fails
parity restarts the creamery (R473). -/
def mpStep (s : State) : State :=
  let th := s.crm.mp
  if s.crm.mode ≠ 3 ∨ !th.released ∨ th.halted then s
  else if th.wait.isSome then s.mpWait
  else
    let a := Creamery.sram + 4 * th.pc.toNat
    if s.sramBad [a] then s.crmReset 5 else s.mpExec (BitVec.ofNat 32 (s.crm.memWord a))

end State

end Sys2Proof.Machine
end

