-- ==== Sys2Proof/Machine/Step.lean ====
section
/-!
DEFINITION. One step: the command at the front of the queue runs with the queue's rest; with an empty queue the management processor
executes one instruction of its own (R251), and the block idles while that is not running or waits (assumption log entry 1).
-/

namespace Sys2Proof.Machine

/-- Run the command that waits longest; on an empty queue, an instruction of the management processor. -/
def step (s : State) : Host.Outcome State Fault Refusal :=
  match s.pending with
  | [] => .next s.mpStep
  | c :: rest => exec c { s with pending := rest }

/-- `s` with the command that a table word spells at the front of its queue. -/
def State.withFetchWord (s : State) (nbits w : Nat) : State :=
  match decodeTableWord nbits w with
  | none => s
  | some c => { s with pending := c :: s.pending }

end Sys2Proof.Machine
end

