-- ==== Sys2Proof/Safety.lean ====
section
/-!
DEFINITION. What counts as a well-kept state and a safe run: every addressed memory and register file is in its canonical
form, and every byre carries its own number; a run is safe while no step stops.
-/

namespace Sys2Proof.Machine

/-- The memories and the register file of a byre are canonical. -/
def Byre.wf (y : Byre) : Bool :=
  SMap.wf byreRst y.regs && Mem.wf y.mem && Mem.wf y.scratch && SMap.rising y.dram

/-- The memories and the register file of the creamery are canonical. -/
def Creamery.wf (c : Creamery) : Bool := SMap.wf crmRst c.regs && Mem.wf c.mem && SMap.rising c.host

/-- Everything addressed is canonical, and every byre stands at its number. -/
def State.wf (s : State) : Bool :=
  s.byres.toList.all Byre.wf && s.crm.wf && (List.finRange 6).all fun b => s.byres[b].num == b.val

/-- The step does not stop. -/
def State.runs (s : State) : Prop := ∃ t, step s = .next t

end Sys2Proof.Machine
end

