-- ==== Sys2Proof/WellFormed.lean ====
section
/-!
DEFINITION. Which commands are well formed: an engine instruction whose fields R220 to R241, R261 and R272 allow, a port
speed that a negotiation has, answers of the length their command reads.  Every other operand is legal at each value of its type.
-/

namespace Sys2Proof

/-- Does GETC or PUTC with this CLS and IDX name a register (R237)? -/
def ctxListed (cls : BitVec 2) (idx : BitVec 6) : Bool :=
  match cls.toNat with
  | 0 => decide (idx.toNat < 16)
  | 1 => decide (idx.toNat < 16)
  | 2 => crListed idx || idx == 0x0F#6
  | _ => false

/-- Is a descriptor, where the host's memory answers, 32 bytes long (R421)? -/
def descWhole (desc : Option (List Byte)) : Bool :=
  match desc with
  | none => true
  | some bs => decide (bs.length = 32)

/-- Is the command well formed? -/
def Instr.wellFormed (i : Instr) : Bool :=
  match i with
  | .registerWrite _ _ _ => true
  | .rcRead _ _ => true
  | .timeSecLoRead _ _ => true
  | .octetLoRead _ _ _ _ => true
  | .monoLoRead _ _ => true
  | .hostWindowRead _ _ => true
  | .servoReqNone _ _ _ => true
  | .servoReqAcquiring _ _ _ => true
  | .servoReqLocked _ _ _ => true
  | .servoKeep _ _ => true
  | .servoWatchdogExpiry _ => true
  | .timeStepRequest _ _ _ => true
  | .timeStepApply _ => true
  | .leapSecondApply _ => true
  | .errBoundUpdate _ _ => true
  | .refclkLoss _ => true
  | .refclkReturn _ => true
  | .ppsOutEdge _ => true
  | .ppsPulseEnd _ => true
  | .ppsInEdge _ _ _ => true
  | .ppsInMissing _ => true
  | .tickBoundary _ _ => true
  | .pendingPlanStart _ => true
  | .nop _ => true
  | .waitOfs _ => true
  | .waitOfsMet _ => true
  | .seal _ => true
  | .dispatch _ => true
  | .dispatchStallEnd _ => true
  | .tanker _ => true
  | .launch _ => true
  | .audit _ => true
  | .swap _ => true
  | .loop _ => true
  | .commit _ => true
  | .commitInstant _ => true
  | .handover _ => true
  | .sweep _ => true
  | .record _ => true
  | .event _ => true
  | .planEnd _ => true
  | .overrun _ => true
  | .recomputeRequest _ _ => true
  | .epochArm _ _ _ _ => true
  | .epochCancel _ _ => true
  | .verifiedStbySet _ _ => true
  | .freeze _ _ _ _ => true
  | .byreFaultEntry _ => true
  | .frameReceive _ _ _ _ _ => true
  | .priorityFrameTransmit _ _ _ => true
  | .portUp _ _ _ speed => decide (speed.toNat ≤ 2)
  | .portDown _ _ _ why _ => decide (why.toNat ≤ 6)
  | .switchFrameDelivery _ _ _ => true
  | .creditTotalWrite _ _ _ _ => true
  | .portCalendarLaunch _ _ => true
  | .pinCalendarLaunch _ _ => true
  | .tallyRecordWrite _ => true
  | .tallyRdAdvance _ _ _ => true
  | .frameClassify _ _ => true
  | .fragmentTimeout _ _ => true
  | .inlineAuth _ => true
  | .skimEntRead _ _ _ _ => true
  | .skimEntWrite _ _ _ _ => true
  | .skimEntInvalidate _ _ _ _ => true
  | .emuInsert _ _ => true
  | .emuDeleteByKey _ _ => true
  | .emuReadByKey _ _ => true
  | .emuReadByLocation _ _ _ => true
  | .emuDeleteAllKt _ _ => true
  | .noteRemove _ _ => true
  | .pressFrame _ => true
  | .sealPass _ => true
  | .pressPortGo _ _ _ => true
  | .pressCfgRead _ _ _ _ _ => true
  | .pressCfgWrite _ _ _ _ _ => true
  | .lateEntryAppend _ => true
  | .engineStart _ _ _ => true
  | .engineStop _ _ _ => true
  | .signalWrite _ _ _ => true
  | .wfeWake _ _ _ => true
  | .operationPlace _ => true
  | .ingressFrame _ => true
  | .postHeadRemove _ _ _ => true
  | .budgetOverrun _ _ _ => true
  | .ingEntryRead _ _ _ _ => true
  | .ingEntryWrite _ _ _ _ => true
  | .indDataRead _ _ => true
  | .indDataWrite _ _ _ => true
  | .add _ _ _ _ _ _ => true
  | .sub _ _ _ _ _ _ => true
  | .adds _ _ _ _ _ _ => true
  | .subs _ _ _ _ _ _ => true
  | .and _ _ _ _ _ _ => true
  | .or _ _ _ _ _ _ => true
  | .xor _ _ _ _ _ _ => true
  | .andn _ _ _ _ _ _ => true
  | .sll _ _ _ _ _ _ => true
  | .srl _ _ _ _ _ _ => true
  | .sra _ _ _ _ _ _ => true
  | .ror _ _ _ _ _ _ => true
  | .slt _ _ _ _ _ _ => true
  | .sltu _ _ _ _ _ _ => true
  | .min _ _ _ _ _ _ => true
  | .max _ _ _ _ _ _ => true
  | .minu _ _ _ _ _ _ => true
  | .maxu _ _ _ _ _ _ => true
  | .mul _ _ _ _ _ _ => true
  | .mulh _ _ _ _ _ _ => true
  | .mulhu _ _ _ _ _ _ => true
  | .clz _ _ _ _ _ => true
  | .abs _ _ _ _ _ => true
  | .addi _ _ _ _ _ _ => true
  | .slti _ _ _ _ _ _ => true
  | .sltiu _ _ _ _ _ _ => true
  | .andi _ _ _ _ _ _ => true
  | .ori _ _ _ _ _ _ => true
  | .xori _ _ _ _ _ _ => true
  | .lui _ _ _ _ _ => true
  | .shifti _ _ _ _ _ _ _ => true
  | .addai _ _ _ _ _ _ => true
  | .mova _ _ _ _ _ => true
  | .adda _ _ _ _ _ _ _ => true
  | .suba _ _ _ _ _ _ _ => true
  | .movda _ _ _ _ _ => true
  | .movad _ _ _ _ _ => true
  | .mfc _ _ _ _ cr => crListed cr
  | .mtc _ _ _ _ cr => crListed cr
  | .getc _ _ _ _ cls idx _ => ctxListed cls idx
  | .putc _ _ _ _ cls idx _ => ctxListed cls idx
  | .release _ _ _ _ => true
  | .ld _ _ _ _ _ _ _ => true
  | .ldh _ _ _ _ _ _ _ => true
  | .ldhu _ _ _ _ _ _ _ => true
  | .ldb _ _ _ _ _ _ _ => true
  | .ldbu _ _ _ _ _ _ _ => true
  | .ldp _ _ _ rt _ _ _ => decide (rt.val % 2 = 0)
  | .lda _ _ _ rt ab _ m => !(rt == ab && m.writesBase)
  | .st _ _ _ _ _ _ _ _ => true
  | .sth _ _ _ _ _ _ _ _ => true
  | .stb _ _ _ _ _ _ _ _ => true
  | .stp _ _ _ rt _ _ _ _ => decide (rt.val % 2 = 0)
  | .sta _ _ _ rt ab _ m _ => !(rt == ab && m.writesBase)
  | .br _ _ _ _ _ cond _ => decide (cond.toNat ≤ 5)
  | .brz _ _ _ _ cond _ => decide (cond.toNat ≤ 5)
  | .j _ _ _ _ => true
  | .call _ _ _ _ => true
  | .jr _ _ _ _ => true
  | .callr _ _ _ _ => true
  | .ret _ _ _ => true
  | .loopi _ _ _ count off => count != 0 && off != 0
  | .loopr _ _ _ _ off => off != 0
  | .lpop _ _ _ n => n != 0
  | .wfe _ _ _ _ _ => true
  | .endop _ _ _ _ => true
  | .rft _ _ _ _ => true
  | .brk _ _ _ => true
  | .mac _ _ _ _ _ _ => true
  | .msu _ _ _ _ _ _ => true
  | .macu _ _ _ _ _ _ => true
  | .mulac _ _ _ _ _ _ => true
  | .clrac _ _ _ _ => true
  | .acx _ _ _ _ _ _ => true
  | .acxt _ _ _ _ _ sh => decide (sh.toNat ≤ 40)
  | .mfac _ _ _ _ _ part => part != 3
  | .mtac _ _ _ _ _ part => part != 3
  | .mfcp _ _ _ _ _ _ => true
  | .mtcp _ _ _ _ _ _ => true
  | .csave _ _ _ _ _ _ => true
  | .crst _ _ _ _ _ _ => true
  | .sdft _ _ _ _ _ => true
  | .out _ _ _ _ _ _ => true
  | .cmul _ _ _ _ _ _ => true
  | .cmac _ _ _ _ _ _ => true
  | .cclr _ _ _ _ => true
  | .clrs _ _ _ _ => true
  | .begin _ _ _ => true
  | .upd _ _ _ len => decide (1 ≤ len.toNat) && decide (len.toNat ≤ 64)
  | .fin _ _ _ => true
  | .drop _ _ _ => true
  | .cpResultCommit _ _ _ _ => true
  | .cpGateWrite _ _ _ _ => true
  | .keySlotRead _ _ _ _ => true
  | .keyHeaderWrite _ _ _ _ => true
  | .keyMaterialWrite _ _ _ _ _ => true
  | .keySlotInvalidate _ _ _ _ => true
  | .handoverPendingApply _ _ => true
  | .vatOwnerWrite _ _ _ _ => true
  | .bankRetain _ _ _ => true
  | .bankWake _ _ _ => true
  | .bankWakeEnd _ _ => true
  | .poolEnable _ _ _ _ _ => true
  | .poolDisable _ _ _ _ _ => true
  | .pailAlloc _ _ _ => true
  | .pailFree _ _ _ => true
  | .pailSend _ _ _ _ => true
  | .collRead _ _ _ => true
  | .poolRebuild _ _ => true
  | .tnkShadowWrite _ _ _ _ _ => true
  | .tnkArm _ _ _ => true
  | .tnkDoorbell _ _ _ => true
  | .tnkAbort _ _ _ _ _ => true
  | .tnkDisable _ _ _ => true
  | .tnkDisableClear _ _ _ => true
  | .descriptorComplete _ _ _ _ => true
  | .lockAcquire _ _ _ _ _ => true
  | .lockRelease _ _ _ _ => true
  | .resultStage _ _ _ _ => true
  | .subSelLatch _ _ _ _ => true
  | .captureHeadRemove _ _ => true
  | .recTrigWrite _ _ _ => true
  | .pinPulseExpiry _ _ => true
  | .pinEdgeCapture _ _ _ _ => true
  | .gooseRetransmit _ _ => true
  | .subExpiry _ _ => true
  | .pubEntryRead _ _ _ _ => true
  | .pubEntryWrite _ _ _ _ => true
  | .pubStateRead _ _ _ _ => true
  | .subEntryRead _ _ _ _ => true
  | .subEntryWrite _ _ _ _ => true
  | .subStateRead _ _ _ _ => true
  | .initWordReceive _ _ _ _ _ _ => true
  | .linkWordReceive _ _ _ _ _ _ _ => true
  | .canReceive _ _ _ _ => true
  | .canTransmit _ _ _ => true
  | .retryTimeout _ _ => true
  | .echoRequest _ _ => true
  | .echoResponse _ _ _ => true
  | .ctlTxSend _ _ => true
  | .ctlRxRemove _ _ => true
  | .join _ => true
  | .joinResend _ => true
  | .joinAck _ => true
  | .leave _ => true
  | .heartbeat _ => true
  | .heartbeatSend _ => true
  | .heartbeatTimeout _ => true
  | .epochAnnounce _ => true
  | .epochReport _ => true
  | .tunHeadRemove _ _ _ => true
  | .tunInject _ _ _ _ => true
  | .tunDrop _ _ _ _ => true
  | .shareEntryRead _ _ _ _ => true
  | .shareEntryWrite _ _ _ _ => true
  | .dramTrain _ _ _ => true
  | .dramLoad _ _ _ => true
  | .speedGo _ _ _ => true
  | .trainingEnd _ _ _ _ => true
  | .loadEnd _ _ _ _ => true
  | .trainDataAccess _ _ _ _ => true
  | .neighbourRefresh _ => true
  | .recorderDrain _ _ _ => true
  | .recCmdTrigger _ _ _ => true
  | .recCmdRearm _ _ _ => true
  | .hostPortReset _ _ => true
  | .mailboxAck _ => true
  | .mailboxAbort _ => true
  | .evqRdWrite _ => true
  | .expTailWrite _ _ => true
  | .exportEndMark _ _ desc => descWhole desc
  | .exportCoalTimeout _ => true
  | .sysInfo _ => true
  | .sysStatus _ => true
  | .alarmAck _ => true
  | .counterBaseline _ => true
  | .creameryRestart _ => true
  | .sessionNonce _ => true
  | .sessionOpen _ => true
  | .sessionOpenHmac _ => true
  | .sessionClose _ => true
  | .claim _ _ => true
  | .installerKeyRotate _ => true
  | .operatorSecretSet _ => true
  | .byreStatus _ => true
  | .byreReset _ => true
  | .byreRelease _ => true
  | .byreStart _ => true
  | .byreStop _ => true
  | .microcodeLoad _ _ => true
  | .benchOverride _ => true
  | .testEnter _ => true
  | .testExit _ => true
  | .tankerAbort _ => true
  | .blockCounters _ => true
  | .schedLoad _ _ => true
  | .schedVerify _ => true
  | .schedArm _ => true
  | .schedCancel _ => true
  | .schedStatus _ => true
  | .schedInstall _ _ => true
  | .schedList _ => true
  | .schedSelect _ => true
  | .schedRemove _ => true
  | .emuWrite _ => true
  | .emuRead _ => true
  | .emuDeleteType _ => true
  | .emuConfig _ => true
  | .learnConfig _ => true
  | .fwdNotes _ => true
  | .fwdCopy _ => true
  | .keyWrite _ => true
  | .keyInvalidate _ => true
  | .keyRead _ => true
  | .timeStatus _ => true
  | .timeConfig _ => true
  | .rtcSet _ => true
  | .utcSet _ => true
  | .ppsConfig _ => true
  | .portDelay _ => true
  | .portStatus _ => true
  | .portConfig _ => true
  | .pairConfig _ => true
  | .tallyConfig _ => true
  | .pinConfig _ => true
  | .frameSend _ => true
  | .frameRecv _ => true
  | .exportSetup _ => true
  | .exportStop _ => true
  | .exportStatus _ => true
  | .hwinMap _ => true
  | .groupStatus _ => true
  | .herdNode _ => true
  | .herdLink _ => true
  | .herdRoute _ => true
  | .herdStatus _ => true
  | .herdEpoch _ => true
  | .tunnelConfig _ => true
  | .recConfig _ => true
  | .recTrigger _ => true
  | .recExport _ => true
  | .recRearm _ => true
  | .recStatus _ => true
  | .powerStatus _ readings => decide (readings.length = 108)
  | .domainSet _ _ _ => true
  | .vcoreSet _ => true
  | .dramSpeed _ => true
  | .powerPolicy _ => true
  | .pfailConfig _ => true
  | .auditStatus _ => true
  | .auditExport _ => true
  | .auditWrap _ => true
  | .regRead _ => true
  | .regWrite _ => true
  | .debugUnlock _ => true
  | .debugHalt _ => true
  | .debugResume _ => true
  | .debugFreeze _ => true
  | .scratchRead _ => true
  | .tempRead _ temps => decide (temps.length = 14)
  | .fuseProgram _ => true
  | .factoryTest _ => true
  | .fwStatus _ => true
  | .fwUpdate _ _ => true
  | .fwActivate _ => true
  | .fwCommit _ => true
  | .creameryResetRelease _ _ => true
  | .creameryWatchdogExpiry => true
  | .firmwareStart _ => true
  | .sessionTimeout _ => true
  | .pwrRequest _ _ _ _ => true
  | .handshakeTimeout => true
  | .wakeEvent _ _ _ _ => true
  | .voltageRequest _ _ _ => true
  | .vreqTimeout _ _ _ => true
  | .pgoodFall _ _ => true
  | .pfailRaise _ _ => true
  | .pfailClear _ _ => true
  | .powerOnReset _ => true
  | .crmResetPin _ => true
  | .crmRefclkLoss _ _ => true
  | .jtagSystemReset => true
  | .mailboxRing _ _ => true
  | .undefinedInstruction _ _ _ => true
  | .initWordSend _ _ _ => true
  | .voltageRequestDone _ _ => true

end Sys2Proof
end

