-- ==== Sys2Proof/Certificates/Slice0/Effects.lean ====
section
/-!
DEFINITION. The words the statements are made of: when an engine instruction may issue, and what a step of one thread or
one byre leaves alone.
-/

namespace Sys2Proof.Machine

/-! ### Engines -/

/-- The rotation lets the thread issue the instruction `i` now (R193, R194), and no cause that R243 puts before the instruction's own is
present: budget left, good parity of the word fetched, no slot violation. -/
def Ready (s : State) (b : Fin 6) (e : Fin 32) (t : Fin 8) (i : Instr) : Prop :=
  let y := s.byre b
  let th := y.thread e t
  s.engOn b e = true ∧ y.mayIssue e t = true ∧ decodeEng b e t (y.codeWord e th.pc) = some i ∧
    Byre.budgetSpent th = false ∧ (y.parCheck 0 (Byre.codeAddr (clusterOf e) th.pc.toNat)).1 = false ∧
    Byre.slotViolation th (y.codeWord e th.pc) = none

/-- The thread as its instruction finds it: one instruction of its operation's budget is spent (R202), and STATUS.DBG shows whether
the byre is under debug control (R249, R459). -/
def Byre.charged (y : Byre) (e : Fin 32) (t : Fin 8) : Thr :=
  { y.withDbg (y.thread e t) with op := (y.thread e t).op.map fun r => { r with left := r.left - 1 } }

/-- The registers that count an issue: CNT_ISSUE and CNT_BUBBLE of the engine (R215). -/
abbrev issueRegs (e : Fin 32) : List Nat := [R.ROTA_ENG_CNT_ISSUE e, R.ROTA_ENG_CNT_BUBBLE e]

/-- Engine `e` has issued an instruction of thread `t` (R193, R215): CNT_ISSUE counts it, CNT_BUBBLE the slots that passed empty before
it, and the engine's next cycle is the one after it. -/
def Byre.Issued (y y' : Byre) (e : Fin 32) (t : Fin 8) : Prop :=
  y'.rd (R.ROTA_ENG_CNT_ISSUE e) = y.rd (R.ROTA_ENG_CNT_ISSUE e) + 1#32 ∧
  y'.rd (R.ROTA_ENG_CNT_BUBBLE e) = y.rd (R.ROTA_ENG_CNT_BUBBLE e) +
    BitVec.ofNat 32 (y.issueCycle e t - SMap.get (fun _ => 0) y.engCyc e) ∧
  y'.engCyc = SMap.set (fun _ => 0) y.engCyc e (y.issueCycle e t + 1)

/-- The thread's own record of whether its last instruction was a load (R193), as the instruction at its PC leaves it. -/
def Byre.noted (y : Byre) (e : Fin 32) (t : Fin 8) (th : Thr) : Thr :=
  { th with load := Byre.isLoad (y.codeWord e (y.thread e t).pc) }

/-- `y'` is `y` after one instruction that changes its own thread alone: the thread is `th'`, the engine has
issued, and everything else of the byre is as it was. -/
def Byre.Stepped (y y' : Byre) (e : Fin 32) (t : Fin 8) (th' : Thr) : Prop :=
  y'.thread e t = y.noted e t th' ∧
  (∀ (e' : Fin 32) (t' : Fin 8), (e', t') ≠ (e, t) → y'.thread e' t' = y.thread e' t') ∧
  y.Issued y' e t ∧ (∀ o, o ∉ issueRegs e → y'.rd o = y.rd o) ∧
  { y' with thr := y.thr, regs := y.regs, engCyc := y.engCyc } = y

/-- The command `c` completes with the thread as `th'` and nothing else of the machine changed; the byre's waiting events
go to the event queue as R14 says. -/
def ThreadStep (c : Instr) (s : State) (b : Fin 6) (e : Fin 32) (t : Fin 8) (th' : Thr) : Prop :=
  ∃ y', exec c s = .next ((s.setByre b y').drain b) ∧ (s.byre b).Stepped y' e t th'

/-- The thread whose instruction at `pc` has completed in sequence (R217, R229, R232). -/
def inSequence (th : Thr) : Thr := th.complete .seq

/-- As `Stepped`, for an instruction that changes other threads of its engine: thread `t'` of them becomes `oth t'`. -/
def Byre.SteppedWith (y y' : Byre) (e : Fin 32) (t : Fin 8) (th' : Thr) (oth : Fin 8 → Thr) : Prop :=
  y'.thread e t = y.noted e t th' ∧ (∀ t', t' ≠ t → y'.thread e t' = oth t') ∧
  (∀ (e' : Fin 32) (t' : Fin 8), e' ≠ e → y'.thread e' t' = y.thread e' t') ∧
  y.Issued y' e t ∧ (∀ o, o ∉ issueRegs e → y'.rd o = y.rd o) ∧
  { y' with thr := y.thr, regs := y.regs, engCyc := y.engCyc } = y

/-- The command completes as `SteppedWith` says. -/
def ContextStep (c : Instr) (s : State) (b : Fin 6) (e : Fin 32) (t : Fin 8) (th' : Thr) (oth : Fin 8 → Thr) : Prop :=
  ∃ y', exec c s = .next ((s.setByre b y').drain b) ∧ (s.byre b).SteppedWith y' e t th' oth

/-- The thread after a trap, as R244, R245 and R246 say. -/
def trapped (th : Thr) (cause detail tval seg : Nat) : Thr :=
  { th with
    tpc := th.pc
    tstat := BitVec.ofNat 9 (th.status.toNat + if th.slot = none then 0 else 256)
    tbtgt := th.slot.getD 0#16
    tcause := BitVec.ofNat 16 (cause + (if th.status.getLsbD 1 then 256 else 0) + seg * 512 + detail * 4096)
    tval := BitVec.ofNat 32 tval
    status := th.status &&& 0b110000#6 ||| 0b000010#6
    pc := th.tvec
    slot := none }

/-- `y'` is `y` after an instruction that has trapped with a cause other than 0x08: the thread as R244 says, its
handler's first instruction 3 cycles on at the earliest (R248), the issue and CNT_TRAP counted, ENG_TRAP recorded where VALID was clear, and
everything else as it was. -/
def Byre.Trapped (y y' : Byre) (e : Fin 32) (t : Fin 8) (cause detail tval seg : Nat) : Prop :=
  y'.thread e t = { trapped (y.charged e t) cause detail tval seg with
    after := max y.tu.clk (y.issueCycle e t + 1) + 3, load := false } ∧
  (∀ (e' : Fin 32) (t' : Fin 8), (e', t') ≠ (e, t) → y'.thread e' t' = y.thread e' t') ∧
  y.Issued y' e t ∧ y'.rd (R.ROTA_ENG_CNT_TRAP e) = y.rd (R.ROTA_ENG_CNT_TRAP e) + 1#32 ∧
  (y.flag (F.ROTA_ENG_TRAP_VALID e) = true → y'.rd (R.ROTA_ENG_TRAP e) = y.rd (R.ROTA_ENG_TRAP e)) ∧
  (y.flag (F.ROTA_ENG_TRAP_VALID e) = false →
    y'.get (F.ROTA_ENG_TRAP_VALID e) = 1 ∧ y'.get (F.ROTA_ENG_TRAP_THREAD e) = t ∧ y'.get (F.ROTA_ENG_TRAP_CAUSE e) = cause) ∧
  (∀ o, o ∉ issueRegs e → o ≠ R.ROTA_ENG_CNT_TRAP e → o ≠ R.ROTA_ENG_TRAP e → y'.rd o = y.rd o) ∧
  { y' with thr := y.thr, regs := y.regs, engCyc := y.engCyc } = y

/-- The command ends in that trap. -/
def TrapStep (c : Instr) (s : State) (b : Fin 6) (e : Fin 32) (t : Fin 8) (cause detail tval seg : Nat) : Prop :=
  ∃ y', exec c s = .next ((s.setByre b y').drain b) ∧ (s.byre b).Trapped y' e t cause detail tval seg

/-- The instruction completes with the thread as `th'` and the bytes `bs` stored from address `o` of the engine's scratch
(`sp` 1) or of the byre view (`sp` 0).  No other byte changes; words stored whole may get good parity. -/
def StoreStep (c : Instr) (s : State) (b : Fin 6) (e : Fin 32) (t : Fin 8) (th' : Thr) (sp o : Nat) (bs : List Byte) : Prop :=
  ∃ y', exec c s = .next ((s.setByre b y').drain b) ∧
    let y := s.byre b
    let stored := fun (space a : Nat) (old : Byte) =>
      if space = sp ∧ o ≤ a ∧ a < o + bs.length then (bs[a - o]?).getD 0#8 else old
    y'.thread e t = y.noted e t th' ∧
    (∀ (e' : Fin 32) (t' : Fin 8), (e', t') ≠ (e, t) → y'.thread e' t' = y.thread e' t') ∧
    y.Issued y' e t ∧ (∀ r, r ∉ issueRegs e → y'.rd r = y.rd r) ∧
    (∀ a, Mem.ldb y'.scratch a = stored 1 a (Mem.ldb y.scratch a)) ∧
    (∀ a, Mem.ldb y'.mem a = stored 0 a (Mem.ldb y.mem a)) ∧
    (∀ x ∈ y'.badPar, x ∈ y.badPar) ∧
    (∀ x ∈ y.badPar, x ∈ y'.badPar ∨ (x.1 = sp ∧ o ≤ x.2 ∧ x.2 < o + bs.length)) ∧
    { y' with thr := y.thr, regs := y.regs, engCyc := y.engCyc, scratch := y.scratch, mem := y.mem, badPar := y.badPar } = y

/-- The instruction completes with the thread as `th'` and its engine as `g`; nothing else changes. -/
def UnitStep (c : Instr) (s : State) (b : Fin 6) (e : Fin 32) (t : Fin 8) (th' : Thr) (g : Eng) : Prop :=
  ∃ y', exec c s = .next ((s.setByre b y').drain b) ∧
    let y := s.byre b
    y'.thread e t = y.noted e t th' ∧
    (∀ (e' : Fin 32) (t' : Fin 8), (e', t') ≠ (e, t) → y'.thread e' t' = y.thread e' t') ∧
    y'.engine e = g ∧ (∀ e' : Fin 32, e' ≠ e → y'.engine e' = y.engine e') ∧
    y.Issued y' e t ∧ (∀ r, r ∉ issueRegs e → y'.rd r = y.rd r) ∧
    { y' with thr := y.thr, regs := y.regs, engCyc := y.engCyc, eng := y.eng } = y

/-! ### Other commands -/

/-- The command completes and changes byre `b` alone, to a byre of which `P` holds; the byre's waiting events go to the
event queue as R14 says. -/
def ByreStep (c : Instr) (s : State) (b : Fin 6) (P : Byre → Prop) : Prop :=
  ∃ y', exec c s = .next ((s.setByre b y').drain b) ∧ P y'

/-- The command completes and changes the creamery alone, to one of which `P` holds. -/
def CrmStep (c : Instr) (s : State) (P : Creamery → Prop) : Prop :=
  ∃ m, exec c s = .next { s with crm := m } ∧ P m

/-- Every register of the byre but those at the offsets `os` reads as before. -/
def Byre.KeepsRegs (y y' : Byre) (os : List Nat) : Prop := ∀ o, o ∉ os → y'.rd o = y.rd o

/-- Every register of the creamery but those at the addresses `os` reads as before. -/
def Creamery.KeepsRegs (m m' : Creamery) (os : List Nat) : Prop := ∀ a, a ∉ os → m'.rdN a = m.rdN a

/-- A management write of the register at `off` is taken: nothing of R17, R19, R26, R27 and R28
stops the access of master `m`. -/
def Taken (s : State) (b : Fin 6) (m : Master) (off : Nat) : Prop := s.stop b m off true = none

/-! ### Mailbox commands -/

/-- The request that mailbox `n` holds. -/
abbrev State.request (s : State) (n : Nat) : Req := reqOf (s.mb n).req

/-- It is the turn of the command `code` in mailbox `n`: its request has passed the checks of R410, none rung before it waits
to execute (R414), and the host port has not been reset meanwhile (R403). -/
def Turn (s : State) (n : Fin 8) (code : Nat) : Prop := s.ready n code = true ∧ (s.mb n).gone = false

/-- As `Turn`, and what R427, R444 and R452 ask when a command starts to execute is met. -/
def Due (s : State) (n : Fin 8) (code : Nat) : Prop := Turn s n code ∧ s.late (s.request n) = 0

/-- The command ends its mailbox command with that status and DETAIL and a payload of which `Q` holds: the response is stored
(R413) and in the response buffer, SEQ_LAST names it, the mailbox is DONE (R408, R411), and `P` holds of the state. -/
def Answer (c : Instr) (s : State) (n : Fin 8) (st det : Nat) (Q : List Byte → Prop) (P : State → Prop) : Prop :=
  ∃ s' p, exec c s = .next s' ∧ Q p ∧ P s' ∧
    let bs := State.respBytes (s.request n) st det p
    (s'.mb n).run = 0 ∧ (s'.mb n).key = some (s.request n).key ∧ (s'.mb n).resp = bs ∧
    Mem.read s'.crm.mem (State.respAddr n) bs.length = bs ∧
    s'.crm.get (F.CRM_MB_STATUS_SEQ_LAST n) = (s.request n).seq ∧ s'.crm.get (F.CRM_MB_STATUS_STATE n) = 2

/-- No byre has changed, and the commands that wait are as before. -/
def NoByre (s s' : State) : Prop := s'.byres = s.byres ∧ s'.pending = s.pending

/-- No byre has changed, except that its engines see whether debug is unlocked (R459), and the commands that wait are as before. -/
def SameByres (s s' : State) : Prop :=
  (∀ b, s'.byre b = { s.byre b with unlocked := s'.crm.dbg }) ∧ s'.pending = s.pending

/-- No byre but `b` has changed, and `P` holds of byre `b`. -/
def OneByre (s : State) (b : Fin 6) (P : Byre → Prop) (s' : State) : Prop :=
  (∀ b', b' ≠ b → s'.byre b' = s.byre b') ∧ P (s'.byre b)

/-- The command ends its mailbox command with that status, and changes no byre. -/
def Refuses (c : Instr) (s : State) (n : Fin 8) (st : Nat) : Prop := Answer c s n st 0 (· = []) (NoByre s)

end Sys2Proof.Machine
end

