-- ==== Sys2Proof/Certificates/Slice0/Obligations.lean ====
section
/-!
DEFINITION. The statements for the provers.  Each says which rules it formalises, or that it is derived, in
OBLIGATIONS.json; what a clause takes from the model's own choices names its assumption log entry.
-/

open Sys2Proof Sys2Proof.Machine

/-! ### Engine instructions -/

namespace Sys2Proof.Machine

/-- The ALU register forms of R222 with the value each writes to Dd, from Ds and Dt. -/
def aluForms (b : Fin 6) (e : Fin 32) (t : Fin 8) (rd rs rt : Fin 16) : List (Instr × (Word → Word → Word)) :=
  [(.add b e t rd rs rt, fun x y => x + y),
   (.sub b e t rd rs rt, fun x y => x - y),
   (.adds b e t rd rs rt, fun x y => BitVec.ofInt 32 (max (-2147483648) (min 2147483647 (x.toInt + y.toInt)))),
   (.subs b e t rd rs rt, fun x y => BitVec.ofInt 32 (max (-2147483648) (min 2147483647 (x.toInt - y.toInt)))),
   (.and b e t rd rs rt, fun x y => x &&& y),
   (.or b e t rd rs rt, fun x y => x ||| y),
   (.xor b e t rd rs rt, fun x y => x ^^^ y),
   (.andn b e t rd rs rt, fun x y => x &&& ~~~ y),
   (.sll b e t rd rs rt, fun x y => BitVec.ofNat 32 (x.toNat * 2 ^ (y.toNat % 32))),
   (.srl b e t rd rs rt, fun x y => BitVec.ofNat 32 (x.toNat / 2 ^ (y.toNat % 32))),
   (.sra b e t rd rs rt, fun x y => BitVec.ofInt 32 (x.toInt / 2 ^ (y.toNat % 32))),
   (.ror b e t rd rs rt, fun x y => x.rotateRight (y.toNat % 32)),
   (.slt b e t rd rs rt, fun x y => if x.toInt < y.toInt then 1#32 else 0#32),
   (.sltu b e t rd rs rt, fun x y => if x.toNat < y.toNat then 1#32 else 0#32),
   (.min b e t rd rs rt, fun x y => if x.toInt < y.toInt then x else y),
   (.max b e t rd rs rt, fun x y => if x.toInt < y.toInt then y else x),
   (.minu b e t rd rs rt, fun x y => if x.toNat < y.toNat then x else y),
   (.maxu b e t rd rs rt, fun x y => if x.toNat < y.toNat then y else x),
   (.mul b e t rd rs rt, fun x y => BitVec.ofNat 32 (x.toNat * y.toNat)),
   (.mulh b e t rd rs rt, fun x y => BitVec.ofInt 32 (x.toInt * y.toInt / 2 ^ 32)),
   (.mulhu b e t rd rs rt, fun x y => BitVec.ofNat 32 (x.toNat * y.toNat / 2 ^ 32)),
   (.clz b e t rd rs, fun x _ => if x.toNat = 0 then 32#32 else BitVec.ofNat 32 (31 - Nat.log2 x.toNat)),
   (.abs b e t rd rs, fun x _ => BitVec.ofInt 32 (min 2147483647 (if x.toInt < 0 then - x.toInt else x.toInt)))]

/-- The immediate forms of R223 with the value each writes to Dd, from Ds. -/
def immForms (b : Fin 6) (e : Fin 32) (t : Fin 8) (rd rs : Fin 16) (imm : BitVec 18) (imm16 : BitVec 16) (sh : BitVec 5) :
    List (Instr × (Word → Word)) :=
  [(.addi b e t rd rs imm, fun x => x + BitVec.ofInt 32 imm.toInt),
   (.slti b e t rd rs imm, fun x => if x.toInt < imm.toInt then 1#32 else 0#32),
   (.sltiu b e t rd rs imm, fun x => if x.toNat < (BitVec.ofInt 32 imm.toInt).toNat then 1#32 else 0#32),
   (.andi b e t rd rs imm, fun x => x &&& BitVec.ofNat 32 imm.toNat),
   (.ori b e t rd rs imm, fun x => x ||| BitVec.ofNat 32 imm.toNat),
   (.xori b e t rd rs imm, fun x => x ^^^ BitVec.ofNat 32 imm.toNat),
   (.lui b e t rd imm16, fun _ => BitVec.ofNat 32 (imm16.toNat * 65536)),
   (.shifti b e t rd rs 0 sh, fun x => BitVec.ofNat 32 (x.toNat * 2 ^ sh.toNat)),
   (.shifti b e t rd rs 1 sh, fun x => BitVec.ofNat 32 (x.toNat / 2 ^ sh.toNat)),
   (.shifti b e t rd rs 2 sh, fun x => BitVec.ofInt 32 (x.toInt / 2 ^ sh.toNat)),
   (.shifti b e t rd rs 3 sh, fun x => x.rotateRight sh.toNat)]

/-- The multiply-accumulate forms of R240 that write an accumulator, with the value each gives ACn, as an integer taken
modulo 2⁷², from ACn, Ds and Dt. -/
def macForms (b : Fin 6) (e : Fin 32) (t : Fin 8) (ac : Fin 4) (ds dt : Fin 16) : List (Instr × (Int → Word → Word → Int)) :=
  [(.mac b e t ac ds dt, fun a x y => a + x.toInt * y.toInt),
   (.msu b e t ac ds dt, fun a x y => a - x.toInt * y.toInt),
   (.macu b e t ac ds dt, fun a x y => a + (x.toNat : Int) * y.toNat),
   (.mulac b e t ac ds dt, fun _ x y => x.toInt * y.toInt),
   (.clrac b e t ac, fun _ _ _ => 0),
   (.mtac b e t ac ds 0, fun a x _ => a / 2 ^ 32 * 2 ^ 32 + x.toNat),
   (.mtac b e t ac ds 1, fun a x _ => a / 2 ^ 64 * 2 ^ 64 + (x.toNat : Int) * 2 ^ 32 + a % 2 ^ 32),
   (.mtac b e t ac ds 2, fun a x _ => ((x.toNat % 256 : Nat) : Int) * 2 ^ 64 + a % 2 ^ 64)]

/-- The multiply-accumulate forms of R240 that read an accumulator, with the value each writes to Dd. -/
def accReads (b : Fin 6) (e : Fin 32) (t : Fin 8) (dd : Fin 16) (ac : Fin 4) (sh : BitVec 6) : List (Instr × (Int → Int)) :=
  [(.acx b e t dd ac sh, fun a =>
      max (-2147483648) (min 2147483647 ((a + (if sh.toNat = 0 then 0 else 2 ^ (sh.toNat - 1))) / 2 ^ sh.toNat))),
   (.acxt b e t dd ac sh, fun a => a / 2 ^ sh.toNat),
   (.mfac b e t dd ac 0, fun a => a),
   (.mfac b e t dd ac 1, fun a => a / 2 ^ 32),
   (.mfac b e t dd ac 2, fun a => a / 2 ^ 64)]

end Sys2Proof.Machine

/-- R222: every ALU register form writes its value to Dd and changes nothing else but the next word and the counts. -/
def Claims.AluRegisterForms : Prop :=
  ∀ (s : State) (b : Fin 6) (e : Fin 32) (t : Fin 8) (rd rs rt : Fin 16),
    ∀ p ∈ aluForms b e t rd rs rt, Ready s b e t p.1 →
      let th := (s.byre b).charged e t
      ThreadStep p.1 s b e t (inSequence { th with d := th.d.set rd (p.2 th.d[rs] th.d[rt]) })

/-- R223: every immediate form writes its value to Dd, and nothing else changes. -/
def Claims.ImmediateForms : Prop :=
  ∀ (s : State) (b : Fin 6) (e : Fin 32) (t : Fin 8) (rd rs : Fin 16) (imm : BitVec 18) (imm16 : BitVec 16) (sh : BitVec 5),
    ∀ p ∈ immForms b e t rd rs imm imm16 sh, Ready s b e t p.1 →
      let th := (s.byre b).charged e t
      ThreadStep p.1 s b e t (inSequence { th with d := th.d.set rd (p.2 th.d[rs]) })

/-- R222, R223: the ALU instructions. -/
def Obligations.AluForms : Prop := Claims.AluRegisterForms ∧ Claims.ImmediateForms


/-- R224: the address instructions; addresses wrap modulo 2³² (R218). -/
def Obligations.AddressForms : Prop :=
  ∀ (s : State) (b : Fin 6) (e : Fin 32) (t : Fin 8) (x y k : Fin 16) (sc : BitVec 2) (imm : BitVec 18),
    let th := (s.byre b).charged e t
    let setA := fun v : Word => inSequence { th with a := th.a.set x v }
    (Ready s b e t (.addai b e t x y imm) →
      ThreadStep (.addai b e t x y imm) s b e t (setA (th.a[y] + BitVec.ofInt 32 imm.toInt))) ∧
    (Ready s b e t (.mova b e t x y) → ThreadStep (.mova b e t x y) s b e t (setA th.a[y])) ∧
    (Ready s b e t (.adda b e t x y k sc) →
      ThreadStep (.adda b e t x y k sc) s b e t (setA (th.a[y] + BitVec.ofNat 32 (th.d[k].toNat * 2 ^ sc.toNat)))) ∧
    (Ready s b e t (.suba b e t x y k sc) →
      ThreadStep (.suba b e t x y k sc) s b e t (setA (th.a[y] - BitVec.ofNat 32 (th.d[k].toNat * 2 ^ sc.toNat)))) ∧
    (Ready s b e t (.movda b e t x y) → ThreadStep (.movda b e t x y) s b e t (setA th.d[y])) ∧
    (Ready s b e t (.movad b e t x y) →
      ThreadStep (.movad b e t x y) s b e t (inSequence { th with d := th.d.set x th.a[y] }))

/-- R240, R219: the forms that write an accumulator; sums wrap modulo 2⁷². -/
def Claims.AccumulatorWrites : Prop :=
  ∀ (s : State) (b : Fin 6) (e : Fin 32) (t : Fin 8) (ac : Fin 4) (ds dt : Fin 16),
    ∀ p ∈ macForms b e t ac ds dt, Ready s b e t p.1 →
      let th := (s.byre b).charged e t
      ThreadStep p.1 s b e t
        (inSequence { th with ac := th.ac.set ac (BitVec.ofInt 72 (p.2 th.ac[ac].toInt th.d[ds] th.d[dt])) })

/-- R240: the forms that read an accumulator. -/
def Claims.AccumulatorReads : Prop :=
  ∀ (s : State) (b : Fin 6) (e : Fin 32) (t : Fin 8) (dd : Fin 16) (ac : Fin 4) (sh : BitVec 6),
    ∀ p ∈ accReads b e t dd ac sh, Ready s b e t p.1 →
      let th := (s.byre b).charged e t
      ThreadStep p.1 s b e t (inSequence { th with d := th.d.set dd (BitVec.ofInt 32 (p.2 th.ac[ac].toInt)) })

/-- R219, R240: the multiply-accumulate instructions. -/
def Obligations.Accumulators : Prop := Claims.AccumulatorWrites ∧ Claims.AccumulatorReads

namespace Sys2Proof.Machine

/-- The control registers of R235, numbered, with the value each holds as a number, the bits an MTC may set, what an MTC
makes of the thread, and whether a read is for the supervisor level only.  STATUS.DBG is read-only. -/
def controlRegisters : List (Nat × (Thr → Nat) × Nat × (Thr → Nat → Thr) × Bool) :=
  [(0x00, fun th => th.status.toNat, 0x3F,
      fun th v => { th with status := BitVec.ofNat 6 (v % 32 + if th.status.getLsbD 5 then 32 else 0) }, false),
   (0x01, fun th => th.tvec.toNat, 0xFFFF, fun th v => { th with tvec := BitVec.ofNat 16 v }, true),
   (0x02, fun th => th.opret.toNat, 0xFFFF, fun th v => { th with opret := BitVec.ofNat 16 v }, true),
   (0x03, fun th => th.cpen.toNat, 0x303, fun th v => { th with cpen := BitVec.ofNat 10 v }, false),
   (0x04, fun th => th.tpc.toNat, 0xFFFF, fun th v => { th with tpc := BitVec.ofNat 16 v }, true),
   (0x05, fun th => th.tstat.toNat, 0x13F, fun th v => { th with tstat := BitVec.ofNat 9 v }, true),
   (0x06, fun th => th.tcause.toNat, 0xFFFF, fun th v => { th with tcause := BitVec.ofNat 16 v }, true),
   (0x07, fun th => th.tval.toNat, 0xFFFFFFFF, fun th v => { th with tval := BitVec.ofNat 32 v }, true),
   (0x08, fun th => th.tbtgt.toNat, 0xFFFF, fun th v => { th with tbtgt := BitVec.ofNat 16 v }, true),
   (0x09, fun th => th.tscr0.toNat, 0xFFFFFFFF, fun th v => { th with tscr0 := BitVec.ofNat 32 v }, true),
   (0x0A, fun th => th.tscr1.toNat, 0xFFFFFFFF, fun th v => { th with tscr1 := BitVec.ofNat 32 v }, true)] ++
  (List.finRange 3).flatMap (fun n =>
    [(0x10 + 4 * n.val, fun th => th.ls[n].toNat, 0xFFFF, fun th v => { th with ls := th.ls.set n (BitVec.ofNat 16 v) }, false),
     (0x11 + 4 * n.val, fun th => th.le[n].toNat, 0xFFFF, fun th v => { th with le := th.le.set n (BitVec.ofNat 16 v) }, false),
     (0x12 + 4 * n.val, fun th => th.lc[n].toNat, 0xFFFFFFFF, fun th v => { th with lc := th.lc.set n (BitVec.ofNat 32 v) }, false)]) ++
  (List.finRange 8).flatMap (fun n =>
    [(0x20 + 4 * n.val, fun th => th.sgBase[n].toNat, 0xFFFFFFF8, fun th v => { th with sgBase := th.sgBase.set n (BitVec.ofNat 32 v) }, false),
     (0x21 + 4 * n.val, fun th => th.sgLimit[n].toNat, 0xFFFFFFFF, fun th v => { th with sgLimit := th.sgLimit.set n (BitVec.ofNat 32 v) }, false),
     (0x22 + 4 * n.val, fun th => th.sgPerm[n].toNat, 7, fun th v => { th with sgPerm := th.sgPerm.set n (BitVec.ofNat 3 v) }, false)])

/-- The comparisons of BR by COND (R228). -/
def brConditions : List (BitVec 3 × (Word → Word → Bool)) :=
  [(0, fun x y => decide (x = y)), (1, fun x y => decide (x ≠ y)), (2, fun x y => decide (x.toInt < y.toInt)),
   (3, fun x y => decide (y.toInt ≤ x.toInt)), (4, fun x y => decide (x.toNat < y.toNat)), (5, fun x y => decide (y.toNat ≤ x.toNat))]

/-- The comparisons of BRZ by COND (R228). -/
def brzConditions : List (BitVec 3 × (Word → Bool)) :=
  [(0, fun x => decide (x.toInt = 0)), (1, fun x => decide (x.toInt ≠ 0)), (2, fun x => decide (x.toInt < 0)),
   (3, fun x => decide (0 ≤ x.toInt)), (4, fun x => decide (0 < x.toInt)), (5, fun x => decide (x.toInt ≤ 0))]

/-- The thread after a transfer to `tgt`, before its delay slot (R229). -/
def toSlot (th : Thr) (tgt : BitVec 16) : Thr := { th with pc := th.pc + 1#16, slot := some tgt }

end Sys2Proof.Machine

/-- R217, R229, R232: the word after an instruction that completes in sequence.  A pending transfer is taken after its
slot; at a loop end the level counts down and runs again, or is left for the level around it; otherwise the next word
follows, modulo 65,536. -/
def Obligations.NextWord : Prop :=
  ∀ (th : Thr),
    (∀ w, th.slot = some w → inSequence th = { th with pc := w, slot := none }) ∧
    (th.slot = none → th.ld = 0 ∨ th.leAt (th.ld - 1) ≠ th.pc → inSequence th = { th with pc := th.pc + 1#16 }) ∧
    (∀ (n : Fin 3), th.slot = none → th.ld = n.val + 1 → th.le[n] = th.pc → th.lc[n] ≠ 1#32 →
      inSequence th = { th with lc := th.lc.set n (th.lc[n] - 1#32), pc := th.ls[n] }) ∧
    (∀ (n : Fin 3), th.slot = none → th.ld = n.val + 1 → th.le[n] = th.pc → th.lc[n] = 1#32 →
      inSequence th = inSequence { th with lc := th.lc.set n 0#32,
                                           status := th.status &&& 0b110011#6 ||| BitVec.ofNat 6 (4 * n.val) })

/-- R235, R236: MFC and MTC of every control register.  A level that the table does not allow traps 0x06 with detail 1; an
MTC value with a reserved bit traps 0x01 and is not applied. -/
def Claims.ControlRegisterMoves : Prop :=
  ∀ (s : State) (b : Fin 6) (e : Fin 32) (t : Fin 8) (dx : Fin 16), ∀ r ∈ controlRegisters,
    let th := (s.byre b).charged e t
    let w := ((s.byre b).codeWord e th.pc).toNat
    let get := Instr.mfc b e t dx (BitVec.ofNat 6 r.1)
    let put := Instr.mtc b e t dx (BitVec.ofNat 6 r.1)
    let task := th.status.getLsbD 0
    (Ready s b e t get →
      (¬(task = true ∧ r.2.2.2.2 = true) →
        ThreadStep get s b e t (inSequence { th with d := th.d.set dx (BitVec.ofNat 32 (r.2.1 th)) })) ∧
      (task = true ∧ r.2.2.2.2 = true → TrapStep get s b e t 6 1 w 0)) ∧
    (Ready s b e t put →
      (th.d[dx].toNat &&& r.2.2.1 = th.d[dx].toNat →
        (task = false ∨ 0x10 ≤ r.1 ∧ r.1 < 0x20 → ThreadStep put s b e t (inSequence (r.2.2.2.1 th th.d[dx].toNat))) ∧
        (task = true → ¬(0x10 ≤ r.1 ∧ r.1 < 0x20) → TrapStep put s b e t 6 1 w 0)) ∧
      (th.d[dx].toNat &&& r.2.2.1 ≠ th.d[dx].toNat → TrapStep put s b e t 1 0 w 0))

/-- R237, R236: GETC and PUTC of every register of a stopped thread of the engine, and RELEASE, at supervisor level. -/
def Claims.ContextInstructions : Prop :=
  ∀ (s : State) (b : Fin 6) (e : Fin 32) (t k : Fin 8) (r dx : Fin 16),
    let y := s.byre b
    let th := y.charged e t
    let tk := y.thread e k
    let setD := fun v : Word => inSequence { th with d := th.d.set dx v }
    let oth := fun (f : Thr) (t' : Fin 8) => if t' = k then f else y.thread e t'
    let n := BitVec.ofNat 6 r.val
    th.status.getLsbD 0 = false →
    (k ≠ t → tk.released = false →
      (Ready s b e t (.getc b e t k 0 n dx) → ThreadStep (.getc b e t k 0 n dx) s b e t (setD tk.d[r])) ∧
      (Ready s b e t (.getc b e t k 1 n dx) → ThreadStep (.getc b e t k 1 n dx) s b e t (setD tk.a[r])) ∧
      (Ready s b e t (.getc b e t k 2 0x0F dx) →
        ThreadStep (.getc b e t k 2 0x0F dx) s b e t (setD (BitVec.ofNat 32 tk.pc.toNat))) ∧
      (Ready s b e t (.putc b e t k 0 n dx) →
        ContextStep (.putc b e t k 0 n dx) s b e t (inSequence th) (oth { tk with d := tk.d.set r th.d[dx] })) ∧
      (Ready s b e t (.putc b e t k 1 n dx) →
        ContextStep (.putc b e t k 1 n dx) s b e t (inSequence th) (oth { tk with a := tk.a.set r th.d[dx] })) ∧
      (Ready s b e t (.putc b e t k 2 0x0F dx) → th.d[dx].toNat < 65536 →
        ContextStep (.putc b e t k 2 0x0F dx) s b e t (inSequence th) (oth { tk with pc := BitVec.ofNat 16 th.d[dx].toNat })) ∧
      (∀ c ∈ controlRegisters,
        (Ready s b e t (.getc b e t k 2 (BitVec.ofNat 6 c.1) dx) →
          ThreadStep (.getc b e t k 2 (BitVec.ofNat 6 c.1) dx) s b e t (setD (BitVec.ofNat 32 (c.2.1 (y.withDbg tk))))) ∧
        (Ready s b e t (.putc b e t k 2 (BitVec.ofNat 6 c.1) dx) → th.d[dx].toNat &&& c.2.2.1 = th.d[dx].toNat →
          ContextStep (.putc b e t k 2 (BitVec.ofNat 6 c.1) dx) s b e t (inSequence th) (oth (c.2.2.2.1 tk th.d[dx].toNat))))) ∧
    (k = t ∨ tk.released = true → ∀ c : BitVec 2, c.toNat ≤ 1 →
      (Ready s b e t (.getc b e t k c n dx) → TrapStep (.getc b e t k c n dx) s b e t 6 3 k 0) ∧
      (Ready s b e t (.putc b e t k c n dx) → TrapStep (.putc b e t k c n dx) s b e t 6 3 k 0)) ∧
    (Ready s b e t (.release b e t dx) →
      ContextStep (.release b e t dx) s b e t (inSequence th) fun t' =>
        { y.thread e t' with released := (y.thread e t').released || th.d[dx].getLsbD t'.val })

/-- What reads and writes control registers and contexts.
Conventions of the model used here: assumption log entry 50. -/
def Obligations.ContextState : Prop := Claims.ControlRegisterMoves ∧ Claims.ContextInstructions

/-- R228, R229: a transfer is taken after its delay slot, and CALL and CALLR write the word after the slot to A15. -/
def Claims.Transfers : Prop :=
  ∀ (s : State) (b : Fin 6) (e : Fin 32) (t : Fin 8) (x z : Fin 16) (off15 : BitVec 15) (off tgt : BitVec 16),
    let th := (s.byre b).charged e t
    let rel := fun (taken : Bool) (o : Int) => toSlot th (if taken then BitVec.ofInt 16 (th.pc.toNat + o) else th.pc + 2#16)
    let link := { th with a := th.a.set 15 (BitVec.ofNat 32 ((th.pc.toNat + 2) % 65536)) }
    (∀ c ∈ brConditions, Ready s b e t (.br b e t x z c.1 off15) →
      ThreadStep (.br b e t x z c.1 off15) s b e t (rel (c.2 th.d[x] th.d[z]) off15.toInt)) ∧
    (∀ c ∈ brzConditions, Ready s b e t (.brz b e t x c.1 off) →
      ThreadStep (.brz b e t x c.1 off) s b e t (rel (c.2 th.d[x]) off.toInt)) ∧
    (Ready s b e t (.j b e t tgt) → ThreadStep (.j b e t tgt) s b e t (toSlot th tgt)) ∧
    (Ready s b e t (.call b e t tgt) → ThreadStep (.call b e t tgt) s b e t (toSlot link tgt)) ∧
    (th.a[x].toNat < 65536 →
      (Ready s b e t (.jr b e t x) → ThreadStep (.jr b e t x) s b e t (toSlot th (BitVec.ofNat 16 th.a[x].toNat))) ∧
      (Ready s b e t (.callr b e t x) → ThreadStep (.callr b e t x) s b e t (toSlot link (BitVec.ofNat 16 th.a[x].toNat)))) ∧
    (65536 ≤ th.a[x].toNat →
      (Ready s b e t (.jr b e t x) → TrapStep (.jr b e t x) s b e t 3 5 th.a[x].toNat 0) ∧
      (Ready s b e t (.callr b e t x) → TrapStep (.callr b e t x) s b e t 3 5 th.a[x].toNat 0)) ∧
    (Ready s b e t (.ret b e t) →
      (th.a[15].toNat < 65536 → ThreadStep (.ret b e t) s b e t (toSlot th (BitVec.ofNat 16 th.a[15].toNat))) ∧
      (65536 ≤ th.a[15].toNat → TrapStep (.ret b e t) s b e t 3 5 th.a[15].toNat 0))

/-- R231, R233: LOOPI and LOOPR open a level, LOOPR with count 0 skips the body, LPOP pops levels, and each traps 0x09
where the rule says. -/
def Claims.HardwareLoops : Prop :=
  ∀ (s : State) (b : Fin 6) (e : Fin 32) (t : Fin 8) (count : BitVec 10) (ds : Fin 16) (off : BitVec 16) (k : BitVec 2),
    let th := (s.byre b).charged e t
    let w := ((s.byre b).codeWord e th.pc).toNat
    let last := th.pc.toNat + off.toNat
    let fits := last ≤ 0xFFFF ∧ ∀ m : Fin 3, th.ld = m.val + 1 → last ≤ th.le[m].toNat
    let level := fun (c : Word) (n : Nat) =>
      { th with ls := th.ls.setIfInBounds n (th.pc + 1#16), le := th.le.setIfInBounds n (BitVec.ofNat 16 last),
                lc := th.lc.setIfInBounds n c, status := th.status &&& 0b110011#6 ||| BitVec.ofNat 6 (4 * (n + 1)),
                pc := th.pc + 1#16 }
    (∀ p ∈ [(Instr.loopi b e t count off, BitVec.ofNat 32 count.toNat), (Instr.loopr b e t ds off, th.d[ds])],
      Ready s b e t p.1 →
        (th.ld < 3 → fits → p.2 ≠ 0#32 → ThreadStep p.1 s b e t (level p.2 th.ld)) ∧
        (th.ld < 3 → fits → p.2 = 0#32 → ThreadStep p.1 s b e t { th with pc := BitVec.ofNat 16 (last + 1) }) ∧
        (th.ld = 3 → TrapStep p.1 s b e t 9 0 w 0) ∧
        (th.ld < 3 → ¬fits → TrapStep p.1 s b e t 9 1 w 0)) ∧
    (Ready s b e t (.lpop b e t k) →
      (k.toNat ≤ th.ld → ThreadStep (.lpop b e t k) s b e t
        (inSequence { th with status := th.status &&& 0b110011#6 ||| BitVec.ofNat 6 (4 * (th.ld - k.toNat)) })) ∧
      (th.ld < k.toNat → TrapStep (.lpop b e t k) s b e t 9 2 w 0))

/-- The control transfers with their slot, and the hardware loops. -/
def Obligations.ControlTransfers : Prop := Claims.Transfers ∧ Claims.HardwareLoops

/-- R198, R238, R250, R249: WFE goes on at once where a masked event is latched and waits otherwise; ENDOP of a thread
without an operation only goes on at OPRET; RFT returns as the table of R250 says, with DBG as
the byre's debug control has it; BRK traps, or halts under DBG.  `waitD`
is the model's own record of the register that a wait writes. -/
def Obligations.SystemInstructions : Prop :=
  ∀ (s : State) (b : Fin 6) (e : Fin 32) (t : Fin 8) (dd : Fin 16) (mask : BitVec 5) (inv skip : Bool),
    let th := (s.byre b).charged e t
    let w := ((s.byre b).codeWord e th.pc).toNat
    let back := { th with status := th.tstat.extractLsb' 0 6 &&& 0x1F#6 ||| th.status &&& 0x20#6, slot := none,
                          after := max (s.byre b).tu.clk ((s.byre b).issueCycle e t + 1) + 3 }
    (Ready s b e t (.wfe b e t dd mask) →
      (th.ev &&& mask ≠ 0#5 → ThreadStep (.wfe b e t dd mask) s b e t (inSequence
        { th with d := th.d.set dd (BitVec.ofNat 32 (th.ev &&& mask).toNat), ev := th.ev &&& ~~~ mask, waitD := dd })) ∧
      (th.ev &&& mask = 0#5 → ThreadStep (.wfe b e t dd mask) s b e t (inSequence
        { th with wait := some mask, waitD := dd }))) ∧
    (Ready s b e t (.endop b e t inv) → th.op = none →
      ThreadStep (.endop b e t inv) s b e t { th with status := th.status &&& 0b110010#6, pc := th.opret, slot := none }) ∧
    (Ready s b e t (.rft b e t skip) →
      (th.status.getLsbD 0 = true → TrapStep (.rft b e t skip) s b e t 6 0 w 0) ∧
      (th.status.getLsbD 0 = false →
        (skip = false → th.tstat.getLsbD 8 = false → ThreadStep (.rft b e t skip) s b e t { back with pc := th.tpc }) ∧
        (skip = false → th.tstat.getLsbD 8 = true →
          ThreadStep (.rft b e t skip) s b e t { back with pc := th.tpc, slot := some th.tbtgt }) ∧
        (skip = true → th.tstat.getLsbD 8 = false →
          ThreadStep (.rft b e t skip) s b e t (inSequence { back with pc := th.tpc })) ∧
        (skip = true → th.tstat.getLsbD 8 = true → ThreadStep (.rft b e t skip) s b e t { back with pc := th.tbtgt }))) ∧
    (Ready s b e t (.brk b e t) →
      (th.status.getLsbD 5 = false → TrapStep (.brk b e t) s b e t 10 0 w 0) ∧
      (th.status.getLsbD 5 = true → ThreadStep (.brk b e t) s b e t (inSequence { th with halted := true })))

/-- R220, R242, R244: a word that the instruction set leaves undefined traps 0x01, and one of CP2 and CP3 traps 0x02. -/
def Obligations.UndefinedInstructionTraps : Prop :=
  ∀ (s : State) (b : Fin 6) (e : Fin 32) (t : Fin 8),
    let y := s.byre b
    let th := y.thread e t
    let w := y.codeWord e th.pc
    s.engOn b e = true → y.mayIssue e t = true → decodeEng b e t w = none → Byre.budgetSpent th = false →
    (y.parCheck 0 (Byre.codeAddr (clusterOf e) th.pc.toNat)).1 = false → Byre.slotViolation th w = none →
    (w.toNat / 2 ^ 26 < 0x38 → TrapStep (.undefinedInstruction b e t) s b e t 1 0 w.toNat 0) ∧
    (0x3C ≤ w.toNat / 2 ^ 26 → TrapStep (.undefinedInstruction b e t) s b e t 2 0 w.toNat 0)


namespace Sys2Proof.Machine

/-- The offset that an addressing mode names (R226), modulo 2³² (R218). -/
def modeOffset (th : Thr) (ab : Fin 16) : Mode → Word
  | .disp imm => th.a[ab] + BitVec.ofInt 32 imm.toInt
  | .post _ => th.a[ab]
  | .pre imm => th.a[ab] + BitVec.ofInt 32 imm.toInt
  | .index dk sc => th.a[ab] + BitVec.ofNat 32 (th.d[dk].toNat * 2 ^ sc.toNat)

/-- The base write-back of an addressing mode (R226), of which the value was computed in `th`. -/
def withBase (th : Thr) (ab : Fin 16) (m : Mode) (th' : Thr) : Thr :=
  match m with
  | .post imm => { th' with a := th'.a.set ab (th.a[ab] + BitVec.ofInt 32 imm.toInt) }
  | .pre imm => { th' with a := th'.a.set ab (th.a[ab] + BitVec.ofInt 32 imm.toInt) }
  | _ => th'

/-- The loads of R226: the bytes each reads, and what becomes of their little-endian value. -/
def loadForms (b : Fin 6) (e : Fin 32) (t : Fin 8) (rt ab : Fin 16) (sg : Fin 8) (m : Mode) :
    List (Instr × Nat × (Thr → Nat → Thr)) :=
  [(.ld b e t rt ab sg m, 4, fun th v => { th with d := th.d.set rt (BitVec.ofNat 32 v) }),
   (.ldh b e t rt ab sg m, 2, fun th v => { th with d := th.d.set rt (BitVec.ofInt 32 (BitVec.ofNat 16 v).toInt) }),
   (.ldhu b e t rt ab sg m, 2, fun th v => { th with d := th.d.set rt (BitVec.ofNat 32 v) }),
   (.ldb b e t rt ab sg m, 1, fun th v => { th with d := th.d.set rt (BitVec.ofInt 32 (BitVec.ofNat 8 v).toInt) }),
   (.ldbu b e t rt ab sg m, 1, fun th v => { th with d := th.d.set rt (BitVec.ofNat 32 v) }),
   (.ldp b e t rt ab sg m, 8, fun th v =>
      { th with d := (th.d.set rt (BitVec.ofNat 32 v)).set (rt + 1 : Fin 16) (BitVec.ofNat 32 (v / 2 ^ 32)) }),
   (.lda b e t rt ab sg m, 4, fun th v => { th with a := th.a.set rt (BitVec.ofNat 32 v) })]

/-- The stores of R226: the little-endian value of each, and its size. -/
def storeForms (b : Fin 6) (e : Fin 32) (t : Fin 8) (rt ab : Fin 16) (sg : Fin 8) (m : Mode) (coll : Bool) :
    List (Instr × Instr × Nat × (Thr → Nat)) :=
  [(.st b e t rt ab sg m coll, .st b e t rt ab sg m false, 4, fun th => th.d[rt].toNat),
   (.sth b e t rt ab sg m coll, .sth b e t rt ab sg m false, 2, fun th => th.d[rt].toNat % 2 ^ 16),
   (.stb b e t rt ab sg m coll, .stb b e t rt ab sg m false, 1, fun th => th.d[rt].toNat % 2 ^ 8),
   (.stp b e t rt ab sg m coll, .stp b e t rt ab sg m false, 8, fun th => th.d[rt].toNat + 2 ^ 32 * th.d[(rt + 1 : Fin 16)].toNat),
   (.sta b e t rt ab sg m coll, .sta b e t rt ab sg m false, 4, fun th => th.a[rt].toNat)]

/-- `n` bytes from the engine address `p` lie in memory that the engine may read: parity space `sp` (1 scratch, 0 the
byre view), address `o` there (R182, R190, R295). -/
def ReadsAt (y : Byre) (e : Fin 32) (p n sp o : Nat) : Prop :=
  let owned := fun (x c : Nat) => y.bankOpen (x / 0x40000) c = true ∧ y.bankOpen ((x + n - 1) / 0x40000) c = true
  (p + n ≤ 0x20000 ∧ sp = 1 ∧ o = e * 0x20000 + p) ∨
  (0x01000000 ≤ p ∧ p + n ≤ 0x01040000 ∧ sp = 0 ∧ o = 0xE00000 + e / 8 * 0x40000 + (p - 0x01000000)) ∨
  (0x02000000 ≤ p ∧ p + n ≤ 0x02C00000 ∧ owned (p - 0x02000000) (1 + e / 8) ∧ sp = 0 ∧ o = p - 0x02000000) ∨
  (0x05000000 ≤ p ∧ p + n ≤ 0x05C00000 ∧ owned (p - 0x05000000) 0x30 ∧ sp = 0 ∧ o = p - 0x05000000) ∨
  (∃ g < 8, ∃ v : Nat, 0x03000000 + g * 0x100000 ≤ p ∧ p + n ≤ 0x03000000 + (g + 1) * 0x100000 ∧ y.gEn y.bank g = true ∧
    p + n ≤ 0x03000000 + g * 0x100000 + y.gStride y.bank g ∧ SMap.get (fun _ => 0) y.shown g = v + 1 ∧
    sp = 0 ∧ o = v + (p - (0x03000000 + g * 0x100000)))

/-- As `ReadsAt`, for memory that the engine may write: its own scratch, its cluster's banks, and pails. -/
def WritesAt (y : Byre) (e : Fin 32) (p n sp o : Nat) : Prop :=
  let owned := fun (x c : Nat) => y.bankOpen (x / 0x40000) c = true ∧ y.bankOpen ((x + n - 1) / 0x40000) c = true
  (p + n ≤ 0x20000 ∧ sp = 1 ∧ o = e * 0x20000 + p) ∨
  (0x02000000 ≤ p ∧ p + n ≤ 0x02C00000 ∧ owned (p - 0x02000000) (1 + e / 8) ∧ sp = 0 ∧ o = p - 0x02000000) ∨
  (0x05000000 ≤ p ∧ p + n ≤ 0x05C00000 ∧ owned (p - 0x05000000) 0x30 ∧ sp = 0 ∧ o = p - 0x05000000)

/-- No byte from `p` on lies in a range of R190 that the access could meet. -/
def Outside (p n : Nat) (store : Bool) : Prop :=
  (0x20000 ≤ p ∧ p + n ≤ 0x01000000) ∨ (0x01040000 ≤ p ∧ p + n ≤ 0x02000000) ∨ (0x02C00000 ≤ p ∧ p + n ≤ 0x03000000) ∨
  (0x03800800 ≤ p ∧ p + n ≤ 0x04000000) ∨ (0x04002000 ≤ p ∧ p + n ≤ 0x05000000) ∨ 0x06000000 ≤ p ∨
  (store = true ∧ ((0x01000000 ≤ p ∧ p + n ≤ 0x01040000) ∨ (0x03000000 ≤ p ∧ p + n ≤ 0x03800000)))

/-- The parity of every word that `n` bytes from `o` touch is good. -/
def GoodParity (y : Byre) (sp o n : Nat) : Prop :=
  ∀ w, w % 4 = 0 → w < o + n → o < w + 4 → (y.parCheck sp w).1 = false

/-- What segment `sg` makes of an access of `n` bytes at offset `off`: aligned, within LIMIT, allowed (R225). -/
def SegAligned (off n : Nat) : Prop := off % n = 0
def SegWithin (th : Thr) (sg : Fin 8) (off n : Nat) : Prop := off + n ≤ th.sgLimit[sg].toNat
def SegAllowed (th : Thr) (sg : Fin 8) (store : Bool) : Prop :=
  th.sgPerm[sg].getLsbD (if store then 1 else 0) = true ∧ (th.status.getLsbD 0 = true → th.sgPerm[sg].getLsbD 2 = true)

/-- The physical address (R225). -/
def physical (th : Thr) (sg : Fin 8) (off : Nat) : Nat := (th.sgBase[sg].toNat + off) % 2 ^ 32

end Sys2Proof.Machine

/-- R218, R225, R226: every load from scratch, the code store, a vat bank of the cluster, the press read window or the
pail window loads the little-endian value and writes the base back; and the checks of R225 trap in their order.
Conventions of the model used here: assumption log entry 49. -/
def Obligations.Loads : Prop :=
  ∀ (s : State) (b : Fin 6) (e : Fin 32) (t : Fin 8) (rt ab : Fin 16) (sg : Fin 8) (m : Mode),
    ∀ p ∈ loadForms b e t rt ab sg m, Ready s b e t p.1 →
      let y := s.byre b
      let th := y.charged e t
      let off := (modeOffset th ab m).toNat
      let n := p.2.1
      let a := physical th sg off
      (SegAligned off n → SegWithin th sg off n → SegAllowed th sg false →
        (∀ sp o, ReadsAt y e a n sp o → GoodParity y sp o n →
          ThreadStep p.1 s b e t (inSequence (withBase th ab m
            (p.2.2 th (leNat (Mem.read (if sp = 1 then y.scratch else y.mem) o n)))))) ∧
        (Outside a n false → TrapStep p.1 s b e t 3 2 off sg) ∧
        (0x02000000 ≤ a → a + n ≤ 0x02C00000 → y.bankOpen ((a - 0x02000000) / 0x40000) (1 + e / 8) = false →
          TrapStep p.1 s b e t 3 3 off sg)) ∧
      (¬SegAligned off n → TrapStep p.1 s b e t 4 0 off sg) ∧
      (SegAligned off n → ¬SegWithin th sg off n → TrapStep p.1 s b e t 3 0 off sg) ∧
      (SegAligned off n → SegWithin th sg off n → ¬SegAllowed th sg false → TrapStep p.1 s b e t 3 1 off sg)

/-- R218, R225, R226, R284: every store to scratch, a vat bank of the cluster or a pail stores the register's bytes, low
byte first, and writes the base back, with every other byte as it was; a store that loses a collision stores nothing and
sets COLL; and the checks of R225 trap in their order.
Conventions of the model used here: assumption log entry 53. -/
def Obligations.Stores : Prop :=
  ∀ (s : State) (b : Fin 6) (e : Fin 32) (t : Fin 8) (rt ab : Fin 16) (sg : Fin 8) (m : Mode) (coll : Bool),
    ∀ p ∈ storeForms b e t rt ab sg m coll, Ready s b e t p.2.1 →
      let y := s.byre b
      let th := y.charged e t
      let off := (modeOffset th ab m).toNat
      let n := p.2.2.1
      let a := physical th sg off
      (SegAligned off n → SegWithin th sg off n → SegAllowed th sg true →
        (∀ sp o, WritesAt y e a n sp o → coll = false ∨ sp = 1 →
          StoreStep p.1 s b e t (inSequence (withBase th ab m th)) sp o (leBytes n (p.2.2.2 th))) ∧
        (∀ o, WritesAt y e a n 0 o → coll = true → ByreStep p.1 s b fun y' =>
          y'.thread e t = y.noted e t (inSequence (withBase th ab m { th with coll := true })) ∧
          y'.mem = y.mem ∧ y'.scratch = y.scratch ∧ y'.rd R.VAT_CNT_COLL = y.rd R.VAT_CNT_COLL + 1#32) ∧
        (Outside a n true → TrapStep p.1 s b e t 3 2 off sg) ∧
        (0x02000000 ≤ a → a + n ≤ 0x02C00000 → y.bankOpen ((a - 0x02000000) / 0x40000) (1 + e / 8) = false →
          TrapStep p.1 s b e t 3 3 off sg)) ∧
      (¬SegAligned off n → TrapStep p.1 s b e t 4 0 off sg) ∧
      (SegAligned off n → ¬SegWithin th sg off n → TrapStep p.1 s b e t 3 0 off sg) ∧
      (SegAligned off n → SegWithin th sg off n → ¬SegAllowed th sg true → TrapStep p.1 s b e t 3 1 off sg)

/-- R192: loads and stores of words of the engine's I/O space: SELF, TICK_K and TICK_SEC, the shared registers, and the
slot table, which a store at task level may not change.
Conventions of the model used here: assumption log entry 50. -/
def Obligations.EngineIoWords : Prop :=
  ∀ (s : State) (b : Fin 6) (e : Fin 32) (t : Fin 8) (rt ab : Fin 16) (sg : Fin 8) (m : Mode) (n : Fin 16),
    let y := s.byre b
    let th := y.charged e t
    let off := (modeOffset th ab m).toNat
    let at_ := fun (o : Nat) (store : Bool) =>
      SegAligned off 4 ∧ SegWithin th sg off 4 ∧ SegAllowed th sg store ∧ physical th sg off = 0x04000000 + o
    let got := fun (v : Nat) => ThreadStep (.ld b e t rt ab sg m) s b e t
      (inSequence (withBase th ab m { th with d := th.d.set rt (BitVec.ofNat 32 v) }))
    (Ready s b e t (.ld b e t rt ab sg m) →
      (at_ 0x204 false → got (e * 8 + t)) ∧
      (at_ 0x20C false → got y.tu.cur.k) ∧
      (at_ 0x210 false → got y.tu.cur.s) ∧
      (at_ (0x100 + 4 * n) false → got (y.engine e).shr[n].toNat) ∧
      (at_ 0x200 false → got 0)) ∧
    (Ready s b e t (.st b e t rt ab sg m false) →
      (at_ (0x100 + 4 * n) true →
        UnitStep (.st b e t rt ab sg m false) s b e t (inSequence (withBase th ab m th))
          { y.engine e with shr := (y.engine e).shr.set n th.d[rt] }) ∧
      (at_ 0x220 true → th.status.getLsbD 0 = true →
        TrapStep (.st b e t rt ab sg m false) s b e t 6 2 (y.codeWord e th.pc).toNat 0) ∧
      (at_ 0x204 true → TrapStep (.st b e t rt ab sg m false) s b e t 3 2 off sg))

namespace Sys2Proof.Machine

/-- Every storage word of the coprocessors of engine `e` has good parity. -/
def UnitClean (y : Byre) (e : Fin 32) : Prop := ∀ a, (y.parCheck 5 (e * 0x10000 + a)).1 = false

/-- The unit takes the instruction (R242). -/
def Enabled (y : Byre) (e : Fin 32) (t : Fin 8) (u : Bool) : Prop :=
  let th := y.thread e t
  th.cpen.getLsbD ((if th.status.getLsbD 0 then 8 else 0) + if u then 1 else 0) = true ∧
    (if u then (y.rd R.ROTA_CP_GATE_STR).getLsbD (e / 8) else (y.rd R.ROTA_CP_GATE_SEP).getLsbD e) = true

/-- The thread with another separator window. -/
def withSep (th : Thr) (p : Sep) : Thr := { th with sep := p }

/-- The thread after a separator operation whose results wait for CP_RESULT_COMMIT (R254). -/
def sepQueued (th : Thr) (regs : List (Nat × Word)) (sums : List (Nat × BitVec 80 × BitVec 80)) : Thr :=
  inSequence (withSep th { th.sep with pend := th.sep.pend ++ [⟨regs, sums⟩] })

/-- The engine with another strainer window. -/
def withStr (g : Eng) (w : Str) : Eng := { g with str := w }

/-- The engine after a strainer operation that waits for its turn. -/
def strQueued (g : Eng) (op t len : Nat) : Eng :=
  withStr g { g.str with pend := g.str.pend ++
    [⟨op, t, len, Byre.strBytes g.str 0 16, Byre.strBytes g.str 0x18 3, (Byre.strReg g.str 0x1C).toNat⟩] }

end Sys2Proof.Machine

/-- R241, R242, R252, R258, R260, R271: MFCP and MTCP of the two units.  A unit that is off traps 0x02, a register number
the unit does not have traps 0x01, a coefficient write at task level traps 0x06.
Conventions of the model used here: assumption log entry 54. -/
def Obligations.CoprocessorMoves : Prop :=
  ∀ (s : State) (b : Fin 6) (e : Fin 32) (t : Fin 8) (u : Bool) (dx : Fin 16) (n : BitVec 6),
    let y := s.byre b
    let th := y.charged e t
    let g := y.engine e
    let w := (y.codeWord e th.pc).toNat
    let get := Instr.mfcp b e t u dx n
    let put := Instr.mtcp b e t u dx n
    let v := th.d[dx]
    let setD := fun v : Word => inSequence { th with d := th.d.set dx v }
    let plain := n.toNat ≤ 0x0F ∨ n.toNat = 0x12 ∨ n.toNat = 0x13 ∨ 0x18 ≤ n.toNat ∧ n.toNat ≤ 0x1F
    (Ready s b e t get → ¬Enabled y e t u → TrapStep get s b e t 2 0 w 0) ∧
    (Ready s b e t put → ¬Enabled y e t u → TrapStep put s b e t 2 0 w 0) ∧
    (Enabled y e t u → UnitClean y e → u = false →
      (Ready s b e t get →
        (n.toNat ≤ 0x16 ∨ 0x18 ≤ n.toNat ∧ n.toNat ≤ 0x1F → th.sep.busy n.toNat = false →
          ThreadStep get s b e t (setD (th.sep.reg n.toNat))) ∧
        (n.toNat = 0x20 → th.sep.busy 0x20 = false → ThreadStep get s b e t (setD (BitVec.ofNat 32 th.sep.taddr))) ∧
        (n.toNat = 0x17 ∨ 0x23 ≤ n.toNat → TrapStep get s b e t 1 0 w 0)) ∧
      (Ready s b e t put → th.sep.pend = [] →
        (plain → ThreadStep put s b e t (inSequence (withSep th (th.sep.setReg n.toNat v)))) ∧
        (n.toNat = 0x11 → v.toNat < th.sep.len →
          ThreadStep put s b e t (inSequence (withSep th (th.sep.setReg 0x11 v)))) ∧
        (n.toNat = 0x20 → th.status.getLsbD 0 = false → v.toNat < 1024 →
          ThreadStep put s b e t (inSequence (withSep th { th.sep with taddr := v.toNat }))) ∧
        (n.toNat = 0x21 → th.status.getLsbD 0 = false →
          ThreadStep put s b e t (inSequence (withSep th { th.sep with tcos := v }))) ∧
        (n.toNat = 0x22 → th.status.getLsbD 0 = false →
          UnitStep put s b e t (inSequence (withSep th { th.sep with taddr := (th.sep.taddr + 1) % 1024 }))
            { g with coef := SMap.set (fun _ => (0#32, 0#32)) g.coef th.sep.taddr (th.sep.tcos, v) }) ∧
        (n.toNat = 0x21 ∨ n.toNat = 0x22 → th.status.getLsbD 0 = true → TrapStep put s b e t 6 0 w 0) ∧
        (n.toNat = 0x17 ∨ 0x14 ≤ n.toNat ∧ n.toNat ≤ 0x16 ∨ 0x23 ≤ n.toNat → TrapStep put s b e t 1 0 w 0))) ∧
    (Enabled y e t u → UnitClean y e → u = true → g.str.pend = [] → g.str.poison = [] →
      (Ready s b e t get →
        (n.toNat ≤ 0x1A ∨ n.toNat = 0x1C → ThreadStep get s b e t (setD (Byre.strReg g.str n.toNat))) ∧
        (n.toNat = 0x1D → ThreadStep get s b e t
          (setD (BitVec.ofNat 32 (g.str.owner + (if g.str.active then 8 else 0) + (if g.str.done then 16 else 0) + 256 * g.str.err)))) ∧
        (n.toNat = 0x1E → ThreadStep get s b e t (setD (BitVec.ofNat 32 g.str.count))) ∧
        (n.toNat = 0x1B ∨ 0x1F ≤ n.toNat → TrapStep get s b e t 1 0 w 0)) ∧
      (Ready s b e t put → g.str.active = false ∨ g.str.owner = t →
        (n.toNat ≤ 0x0F ∨ 0x18 ≤ n.toNat ∧ n.toNat ≤ 0x1A →
          UnitStep put s b e t (inSequence th) (withStr g (Byre.strSet g.str n.toNat v))) ∧
        (0x10 ≤ n.toNat ∧ n.toNat ≤ 0x17 ∨ n.toNat = 0x1B ∨ 0x1D ≤ n.toNat → TrapStep put s b e t 1 0 w 0)))

/-- R253, R254, R261, R262, R263: what the separator operations compute once no register they name is busy, from the window with every
earlier operation done; the results wait for their commit. -/
def Claims.SeparatorOperations : Prop :=
  ∀ (s : State) (b : Fin 6) (e : Fin 32) (t : Fin 8) (mask : BitVec 8) (adv : Bool) (ch : Fin 8) (form rot : Bool) (qd qa qb : Fin 4),
    let y := s.byre b
    let th := y.charged e t
    let p := th.sep.view
    let chans := (List.range 8).filter fun c => bit mask.toNat c
    let ph := (p.reg 0x11).toNat
    let back := decide (p.half = true ∧ p.len / 2 ≤ ph)
    let sg : Int := if back then -1 else 1
    let cs := ((y.engine e).coefAt (p.tbase + ph - if back then p.len / 2 else 0)).1.toInt
    let sn := ((y.engine e).coefAt (p.tbase + ph - if back then p.len / 2 else 0)).2.toInt
    let d := fun c => if p.half then (p.reg c).toInt + (p.reg (8 + c)).toInt else (p.reg c).toInt - (p.reg (8 + c)).toInt
    let re := fun c => (p.sum c).1.toInt + sg * d c * cs
    let im := fun c => (p.sum c).2.toInt - sg * d c * sn
    let past := fun v : Int => v < -(2 ^ 79) ∨ 2 ^ 79 ≤ v
    let free := fun ns : List Nat => th.sep.anyBusy ns = false
    let qr := fun i : Fin 4 => [0x18 + 2 * i.val, 0x19 + 2 * i.val]
    Enabled y e t false → UnitClean y e →
    (Ready s b e t (.sdft b e t mask adv) → p.len ≠ 0 → free ([0x10, 0x11, 0x16] ++ chans ++ chans.map (8 + ·)) →
      ∃ wrap : Word, (∀ c < 8, wrap.getLsbD c = true ↔ (p.reg 0x16).getLsbD c = true ∨ (mask.getLsbD c = true ∧ (past (re c) ∨ past (im c)))) ∧
        ThreadStep (.sdft b e t mask adv) s b e t (sepQueued th
          ([(0x16, wrap)] ++ if adv then [(0x11, BitVec.ofNat 32 ((ph + 1) % p.len))] else [])
          (chans.map fun c => (c, BitVec.ofInt 80 (re c), BitVec.ofInt 80 (im c))))) ∧
    (Ready s b e t (.out b e t ch true false) → p.win ≠ 0 → free [0x10, 0x14, 0x15] →
      ThreadStep (.out b e t ch true false) s b e t (sepQueued th
        [(0x14, flOfRat ((p.sum ch).1.toInt * 2) (2 ^ 30 * p.win)), (0x15, flOfRat ((p.sum ch).2.toInt * 2) (2 ^ 30 * p.win))] [])) ∧
    (Ready s b e t (.out b e t ch form rot) → p.win ≠ 0 → free [0x10, 0x12, 0x13, 0x14, 0x15] →
      ∃ x0 x1 : Word, ThreadStep (.out b e t ch form rot) s b e t (sepQueued th [(0x14, x0), (0x15, x1)] [])) ∧
    (Ready s b e t (.cmul b e t qd qa qb) → free (qr qa ++ qr qb ++ qr qd) →
      let r := cprod (p.q qa).1 (p.q qa).2 (p.q qb).1 (p.q qb).2
      ThreadStep (.cmul b e t qd qa qb) s b e t (sepQueued th [(0x18 + 2 * qd, r.1), (0x19 + 2 * qd, r.2)] [])) ∧
    (Ready s b e t (.cmac b e t qd qa qb) → free (qr qa ++ qr qb ++ qr qd) →
      let r := cprodAdd (p.q qd).1 (p.q qd).2 (p.q qa).1 (p.q qa).2 (p.q qb).1 (p.q qb).2
      ThreadStep (.cmac b e t qd qa qb) s b e t (sepQueued th [(0x18 + 2 * qd, r.1), (0x19 + 2 * qd, r.2)] [])) ∧
    (Ready s b e t (.cclr b e t qd) → free (qr qd) →
      ThreadStep (.cclr b e t qd) s b e t (sepQueued th [(0x18 + 2 * qd, 0#32), (0x19 + 2 * qd, 0#32)] [])) ∧
    (Ready s b e t (.clrs b e t mask) → free [0x16] →
      ∃ wrap : Word, (∀ c < 8, wrap.getLsbD c = true ↔ (p.reg 0x16).getLsbD c = true ∧ mask.getLsbD c = false) ∧
        ThreadStep (.clrs b e t mask) s b e t (sepQueued th [(0x16, wrap)] (chans.map fun c => (c, 0#80, 0#80))))

/-- R254, R272 to R275: the strainer's operations wait in its window for their turn, and a DROP of the owner abandons what
waits. -/
def Claims.StrainerOperations : Prop :=
  ∀ (s : State) (b : Fin 6) (e : Fin 32) (t : Fin 8) (len : BitVec 7),
    let y := s.byre b
    let th := y.charged e t
    let g := y.engine e
    Enabled y e t true → UnitClean y e →
    (Ready s b e t (.begin b e t) → UnitStep (.begin b e t) s b e t (inSequence th) (strQueued g 1 t 0)) ∧
    (Ready s b e t (.upd b e t len) → UnitStep (.upd b e t len) s b e t (inSequence th) (strQueued g 2 t len.toNat)) ∧
    (Ready s b e t (.fin b e t) → UnitStep (.fin b e t) s b e t (inSequence th) (strQueued g 3 t 0)) ∧
    (Ready s b e t (.drop b e t) → g.str.pend = [] → g.str.active = true → g.str.owner = t →
      UnitStep (.drop b e t) s b e t (inSequence th) (withStr g { g.str with active := false }))

/-- The operations of both coprocessors.
Conventions of the model used here: assumption log entry 54. -/
def Obligations.SeparatorAndStrainer : Prop := Claims.SeparatorOperations ∧ Claims.StrainerOperations

/-- R254, R261, R272 to R274: the oldest result of a window commits.  In the strainer, BEGIN takes the window and checks
the key, UPD and FIN of an owner without a BEGIN are error 3, and those of another thread error 4. -/
def Claims.ResultCommits : Prop :=
  ∀ (s : State) (b : Fin 6) (e : Fin 32) (t : Fin 8),
    let y := s.byre b
    let g := y.engine e
    s.engOn b e = true →
    (∀ q qs, (y.thread e t).sep.pend = q :: qs →
      ByreStep (.cpResultCommit b e t false) s b fun y' =>
        let p' := (y'.thread e t).sep
        p'.pend = qs ∧
        (∀ n, (∀ r ∈ q.regs, r.1 ≠ n) → p'.reg n = (y.thread e t).sep.reg n) ∧
        (∀ n v, q.regs = [(n, v)] → p'.reg n = v) ∧
        (∀ c v w, q.sums = [(c, v, w)] → p'.sum c = (v, w)) ∧
        (∀ (e' : Fin 32) (t' : Fin 8), (e', t') ≠ (e, t) → y'.thread e' t' = y.thread e' t') ∧
        { y' with thr := y.thr, badPar := y.badPar } = y) ∧
    ((y.thread e t).sep.pend = [] → ByreStep (.cpResultCommit b e t false) s b fun y' => y'.thread e t = y.thread e t) ∧
    (∀ q qs, g.str.pend = q :: qs →
      let hdr := y.keyHdr y.bank (q.ctl % 256)
      ByreStep (.cpResultCommit b e t true) s b fun y' =>
        let w := (y'.engine e).str
        w.pend = qs ∧
        (q.op = 1 → (g.str.active = false ∨ g.str.owner = q.thr) →
          w.owner = q.thr ∧ w.active = true ∧ w.done = false ∧ w.count = 0 ∧
          ((∀ a, (y.parCheck 6 a).1 = false) → hdr / 2 ^ 31 % 2 = 0 → w.err = 1)) ∧
        (q.op = 2 → g.str.active = true → g.str.owner ≠ q.thr → g.str.err = 0 → w.err = 4 ∧ w.count = g.str.count) ∧
        (q.op = 2 → g.str.active = true → g.str.owner = q.thr → g.str.done = false → g.str.tail = [] →
          w.err = g.str.err ∧ w.count = (g.str.count + q.len) % 2 ^ 32) ∧
        (q.op = 3 → g.str.active = true → g.str.owner = q.thr → g.str.done = false → w.done = true) ∧
        (q.op = 3 → g.str.active = false → g.str.err = 0 → w.err = 3))

/-- R256, R278: CSAVE stores the window's image at the segment offset in Ab, and CRST loads it; both are for the supervisor
level only. -/
def Claims.CoprocessorImages : Prop :=
  ∀ (s : State) (b : Fin 6) (e : Fin 32) (t : Fin 8) (u : Bool) (ab : Fin 16) (sg : Fin 8) (sp o : Nat),
    let y := s.byre b
    let th := y.charged e t
    let g := y.engine e
    let w := (y.codeWord e th.pc).toNat
    let off := th.a[ab].toNat
    let n := if u then 256 else 384
    Enabled y e t u → UnitClean y e →
    (Ready s b e t (.csave b e t u ab sg) →
      (th.status.getLsbD 0 = true → TrapStep (.csave b e t u ab sg) s b e t 6 0 w 0) ∧
      (th.status.getLsbD 0 = false → th.sep.pend = [] → g.str.pend = [] → SegAligned off 8 → SegWithin th sg off n →
        SegAllowed th sg true → WritesAt y e (physical th sg off) n sp o →
        StoreStep (.csave b e t u ab sg) s b e t (inSequence th) sp o (if u then Byre.strImage g.str else Byre.sepImage th.sep))) ∧
    (Ready s b e t (.crst b e t u ab sg) →
      (th.status.getLsbD 0 = true → TrapStep (.crst b e t u ab sg) s b e t 6 0 w 0) ∧
      (th.status.getLsbD 0 = false → th.sep.pend = [] → g.str.pend = [] → SegAligned off 8 → SegWithin th sg off n →
        SegAllowed th sg false → ReadsAt y e (physical th sg off) n sp o → GoodParity y sp o n →
        let bs := Mem.read (if sp = 1 then y.scratch else y.mem) o n
        (u = false → ThreadStep (.crst b e t u ab sg) s b e t (inSequence (withSep th (Byre.sepOf th.sep bs)))) ∧
        (u = true → ByreStep (.crst b e t u ab sg) s b fun y' =>
          y'.thread e t = y.noted e t (inSequence th) ∧
          ∀ i < 16, Byre.strReg (y'.engine e).str i = BitVec.ofNat 32 (leNat ((bs.drop (4 * i)).take 4)))))

/-- What becomes of coprocessor results and images.
Conventions of the model used here: assumption log entry 55. -/
def Obligations.CommitsAndImages : Prop := Claims.ResultCommits ∧ Claims.CoprocessorImages

/-- R257: a management write of a coprocessor gate register is kept, and every unit whose bit it clears holds no state. -/
def Obligations.CoprocessorGates : Prop :=
  ∀ (s : State) (b : Fin 6) (m : Master) (v : Word),
    let y := s.byre b
    Taken s b m R.ROTA_CP_GATE_SEP → Taken s b m R.ROTA_CP_GATE_STR → y.idle = true →
    (ByreStep (.cpGateWrite b m false v) s b fun y' =>
      y'.rd R.ROTA_CP_GATE_SEP = v ∧ y.KeepsRegs y' [R.ROTA_CP_GATE_SEP] ∧
      (∀ (e : Fin 32) (t : Fin 8), (y.rd R.ROTA_CP_GATE_SEP).getLsbD e = true → v.getLsbD e = false →
        (y'.thread e t).sep = Sep.zero ∧ (y'.engine e).coef = []) ∧
      (∀ (e : Fin 32) (t : Fin 8), v.getLsbD e = true →
        y'.thread e t = y.thread e t ∧ y'.engine e = y.engine e) ∧
      { y' with regs := y.regs, thr := y.thr, eng := y.eng, badPar := y.badPar, softPar := y.softPar } = y) ∧
    (ByreStep (.cpGateWrite b m true v) s b fun y' =>
      y'.rd R.ROTA_CP_GATE_STR = BitVec.ofNat 32 (v.toNat % 16) ∧ y.KeepsRegs y' [R.ROTA_CP_GATE_STR] ∧
      (∀ e : Fin 32, (y.rd R.ROTA_CP_GATE_STR).getLsbD (e / 8) = true → v.getLsbD (e / 8) = false →
        (y'.engine e).str = Str.zero) ∧
      (∀ e : Fin 32, v.getLsbD (e / 8) = true → y'.engine e = y.engine e) ∧
      { y' with regs := y.regs, eng := y.eng, badPar := y.badPar, softPar := y.softPar } = y)

/-- R195, R196: START turns the engine on with thread 0 alone released at VECTOR and every other register 0; STOP stops
every thread, and no operation is left on the engine. -/
def Claims.EngineStartStop : Prop :=
  ∀ (s : State) (b : Fin 6) (m : Master) (e : Fin 32),
    let y := s.byre b
    Taken s b m (R.ROTA_ENG_CTRL e) → y.idle = true →
    (s.on b (domCL + e / 8) = true → ByreStep (.engineStart b m e) s b fun y' =>
      (y'.engine e) = { y.engine e with on := true } ∧
      y'.thread e 0 = { Thr.zero with released := true, pc := BitVec.ofNat 16 (y.get (F.ROTA_ENG_VECTOR_VECTOR e)) } ∧
      (∀ t : Fin 8, t ≠ 0 → y'.thread e t = Thr.zero) ∧
      (∀ (e' : Fin 32) (t : Fin 8), e' ≠ e → y'.thread e' t = y.thread e' t ∧ y'.engine e' = y.engine e') ∧
      { y' with thr := y.thr, eng := y.eng, engCyc := y.engCyc } = y) ∧
    (ByreStep (.engineStop b m e) s b fun y' =>
      (y'.engine e).on = false ∧
      (∀ t : Fin 8, (y'.thread e t).released = false ∧ (y'.thread e t).op = none ∧ (y'.thread e t).wait = none ∧
        (y'.thread e t).slot = none ∧ (y'.thread e t).halted = false ∧
        (y'.thread e t).d = (y.thread e t).d ∧ (y'.thread e t).a = (y.thread e t).a ∧ (y'.thread e t).pc = (y.thread e t).pc) ∧
      (∀ (e' : Fin 32) (t : Fin 8), e' ≠ e → (y'.thread e' t).op = (y.thread e' t).op ∧ (y'.thread e' t).d = (y.thread e' t).d) ∧
      y'.mem = y.mem ∧ y'.scratch = y.scratch)

/-- R192, R198, R202, R203, R212, R246: SIGNAL latches its event for the threads of the mask, a waiting thread wakes on a
masked event, the head of a post queue goes, a spent budget ends the operation and traps 0x07, and ENDOP ends the thread's
operation with its status and goes on at OPRET.  `waitD` is the model's own record of the register that a wait writes. -/
def Claims.ThreadEvents : Prop :=
  ∀ (s : State) (b : Fin 6) (e : Fin 32) (t : Fin 8) (mask : BitVec 8) (inv : Bool),
    let y := s.byre b
    let th := y.thread e t
    let only := fun (y' : Byre) => ∀ (e' : Fin 32) (t' : Fin 8), (e', t') ≠ (e, t) → y'.thread e' t' = y.thread e' t'
    s.engOn b e = true →
    (ByreStep (.signalWrite b e mask) s b fun y' =>
      (∀ (e' : Fin 32) (t' : Fin 8), y'.thread e' t' =
        if e' = e ∧ mask.getLsbD t' = true then { y.thread e' t' with ev := (y.thread e' t').ev ||| 2#5 } else y.thread e' t') ∧
      { y' with thr := y.thr } = y) ∧
    (∀ wm, th.wait = some wm → th.ev &&& wm ≠ 0#5 → ByreStep (.wfeWake b e t) s b fun y' =>
      y'.thread e t = { th with d := th.d.set th.waitD (BitVec.ofNat 32 (th.ev &&& wm).toNat), wait := none, ev := th.ev &&& ~~~ wm } ∧
      only y' ∧ { y' with thr := y.thr } = y) ∧
    (ByreStep (.postHeadRemove b e t) s b fun y' =>
      y'.thread e t = { th with post := th.post.tail } ∧ only y' ∧ { y' with thr := y.thr } = y) ∧
    (∀ r, th.op = some r → r.left = 0 → y.mayIssue e t = true → ByreStep (.budgetOverrun b e t) s b fun y' =>
      y'.thread e t = { trapped { y.withDbg th with op := none } 7 0 0 0 with
        after := max y.tu.clk (y.issueCycle e t + 1) + 3, load := false } ∧ only y' ∧
      y'.rd R.ROTA_CNT_BUDGET = y.rd R.ROTA_CNT_BUDGET + 1#32 ∧
      y'.rd (R.ROTA_ENG_CNT_TRAP e) = y.rd (R.ROTA_ENG_CNT_TRAP e) + 1#32 ∧
      y'.rd (R.ROTA_ENG_CNT_ISSUE e) = y.rd (R.ROTA_ENG_CNT_ISSUE e) ∧
      y'.mem = y.mem ∧ y'.scratch = y.scratch) ∧
    (∀ r, th.op = some r → th.status.getLsbD 1 = false → Ready s b e t (.endop b e t inv) →
      ByreStep (.endop b e t inv) s b fun y' =>
        y'.thread e t = { y.withDbg th with op := none, status := (y.withDbg th).status &&& 0b110010#6, pc := th.opret, slot := none, load := false } ∧
        only y' ∧
        (inv = false → y'.rd R.ROTA_CNT_DONE_OK = y.rd R.ROTA_CNT_DONE_OK + 1#32) ∧
        (inv = true → y'.rd R.ROTA_CNT_DONE_FAIL = y.rd R.ROTA_CNT_DONE_FAIL + 1#32) ∧
        y'.mem = y.mem ∧ y'.scratch = y.scratch)

/-- How engines start and stop, and what their threads wait for.
Conventions of the model used here: assumption log entries 9, 51. -/
def Obligations.EnginesAndThreads : Prop := Claims.EngineStartStop ∧ Claims.ThreadEvents

/-- R201, R206, R239: with one entry ready, its affinity engine good and a thread of it free, the operation starts on the lowest
free thread at ENTRY with D0 to D3 of R201, at the level OPTASK names, and every other
register as it was; with no entry ready nothing is placed. -/
def Obligations.OperationPlacement : Prop :=
  ∀ (s : State) (b : Fin 6),
    let y := s.byre b
    let cl := s.clusterOn b
    s.on b domFAB = true → (y.parCheck spReady 0).1 = false →
    (y.rota.ents.filter (·.ready.isSome) = [] → ByreStep (.operationPlace b) s b fun y' => y' = y) ∧
    (∀ o, y.rota.ents.filter (·.ready.isSome) = [o] → (y.parCheck spAff (o.id % 4096)).1 = false →
      ∀ (a : Fin 32) (t : Fin 8) (ts : List Nat), (y.affinity o).1 = a → y.freeThreads cl a = t.val :: ts →
        ByreStep (.operationPlace b) s b fun y' =>
          let th := y.thread a t
          let th' := y'.thread a t
          th'.d[0] = BitVec.ofNat 32 o.id ∧ th'.d[1] = BitVec.ofNat 32 o.d1 ∧
          (o.cls = 2 → th'.d[2] = BitVec.ofNat 32 o.info ∧ th'.d[3] = BitVec.ofNat 32 y.tu.cur.k) ∧
          (o.cls = 1 → th'.d[3] = BitVec.ofNat 32 o.tick.k ∧ ∀ n < 32, th'.d[2].getLsbD n = true ↔
            n < 4 ∧ ∃ p, o.preds[n]? = some p ∧ p ≠ 0xFFFF ∧ ∃ st, st ≠ 0 ∧ y.endedSt o.tick p = some st) ∧
          (∀ i : Fin 16, 4 ≤ i.val → th'.d[i] = th.d[i]) ∧ th'.a = th.a ∧ th'.ac = th.ac ∧
          th'.pc = BitVec.ofNat 16 o.entry ∧ th'.wait = none ∧ th'.op = some ⟨o, o.budget, 0, false⟩ ∧
          th'.status = (th.status &&& 0b110000#6 ||| if th.status.getLsbD 4 then 1#6 else 0#6) ∧
          { th' with d := th.d, pc := th.pc, status := th.status, slot := th.slot, wait := th.wait, ev := th.ev, op := th.op } = th ∧
          (∀ x ∈ y'.rota.ents, x.seq ≠ o.seq) ∧
          y'.rd R.ROTA_CNT_PLACE_AFFINE = y.rd R.ROTA_CNT_PLACE_AFFINE + 1#32 ∧
          (∀ (e' : Fin 32) (t' : Fin 8), (e', t') ≠ (a, t) → y'.thread e' t' = y.thread e' t'))

/-- R190, R209, R211, R213: the ingress table and the scratch window of management, and the frames that the rota takes: a
frame that names no valid entry is counted and its pail freed, and one for a bound thread enters that thread's post
queue with its event.
Conventions of the model used here: assumption log entry 10. -/
def Obligations.IngressTables : Prop :=
  ∀ (s : State) (b : Fin 6) (m : Master) (bank : Bool) (i : Fin 1024) (v : Word),
    let y := s.byre b
    let bk := if bank then 1 else 0
    let w := fun n : Nat => y.rd (R.ROTA_ING_DATA n)
    (Taken s b m R.ROTA_ING_CMD →
      (ByreStep (.ingEntryRead b m bank i) s b fun y' =>
        (∀ n < 4, (y'.rd (R.ROTA_ING_DATA n)).toNat = y.ingWord bk i n) ∧ y'.get F.ROTA_ING_STATUS_RESULT = 0 ∧
        { y' with regs := y.regs } = y) ∧
      (y.live = true → bk = y.bank → ∃ s', exec (.ingEntryWrite b m bank i) s = .next s' ∧
        (s'.byre b).rota = y.rota ∧ (s'.byre b).get F.ROTA_ING_STATUS_RESULT = 1) ∧
      (¬(y.live = true ∧ bk = y.bank) → ByreStep (.ingEntryWrite b m bank i) s b fun y' =>
        ((w 0).toNat / 2 ^ 24 % 128 = 0 → (w 0).toNat / 2 ^ 21 % 4 ≠ 3 → (w 2).toNat < 256 → w 3 = 0#32 →
          (∀ n < 4, y'.ingWord bk i n = (w n).toNat) ∧ y'.get F.ROTA_ING_STATUS_RESULT = 0 ∧ y'.verified bk = false ∧
          (∀ (bk' : Nat) (j : Fin 1024), (bk', j) ≠ (bk, i) → ∀ n < 4, y'.ingWord bk' j n = y.ingWord bk' j n)) ∧
        ((w 0).toNat / 2 ^ 21 % 4 = 3 → y'.rota = y.rota ∧ y'.get F.ROTA_ING_STATUS_RESULT = 5))) ∧
    (s.stop b m R.ROTA_IND_DATA false = none → (y.parCheck 1 y.indKey).1 = false →
      ∃ s', exec (.indDataRead b m) s = .next s' ∧ s'.busRd = Mem.ldw y.scratch y.indKey ∧
        (s'.byre b).get F.ROTA_IND_ADDR_OFFSET = (y.get F.ROTA_IND_ADDR_OFFSET + 1) % 2 ^ 15 ∧
        (s'.byre b).scratch = y.scratch) ∧
    (Taken s b m R.ROTA_IND_DATA → y.idle = true → ByreStep (.indDataWrite b m v) s b fun y' =>
      Mem.ldw y'.scratch y.indKey = v ∧
      (∀ a, a < y.indKey ∨ y.indKey + 4 ≤ a → Mem.ldb y'.scratch a = Mem.ldb y.scratch a) ∧
      y'.get F.ROTA_IND_ADDR_OFFSET = (y.get F.ROTA_IND_ADDR_OFFSET + 1) % 2 ^ 15 ∧ y'.mem = y.mem) ∧
    (s.on b domFAB = true →
      (y.ingq = [] → ByreStep (.ingressFrame b) s b fun y' => y' = y) ∧
      (∀ pail len op verdict index rest, y.ingq = (pail, len, op, verdict, index) :: rest → y.st ≠ Byre.stFAULTED →
        (y.flag F.ROTA_STATUS_ING_HELD = true → ByreStep (.ingressFrame b) s b fun y' => y' = y) ∧
        (y.flag F.ROTA_STATUS_ING_HELD = false →
          (0x3FF < op → ByreStep (.ingressFrame b) s b fun y' =>
            y'.ingq = rest ∧ y'.rd R.ROTA_CNT_ING_BADOP = y.rd R.ROTA_CNT_ING_BADOP + 1#32 ∧ y'.rota = y.rota) ∧
          (∀ (e : Fin 32) (t : Fin 8), op ≤ 0x3FF → (y.parCheck spIng op).1 = false →
            y.ingWord y.bank op 0 / 2 ^ 31 % 2 = 1 → y.ingWord y.bank op 0 / 2 ^ 23 % 2 = 1 →
            y.ingWord y.bank op 2 % 256 = e * 8 + t → (y.thread e t).post.length < 16 → (y.parCheck spQueue 26).1 = false →
            ByreStep (.ingressFrame b) s b fun y' =>
              y'.ingq = rest ∧ y'.rd R.ROTA_CNT_POST = y.rd R.ROTA_CNT_POST + 1#32 ∧
              y'.thread e t = { y.thread e t with
                post := (y.thread e t).post ++ [(pail, Byre.ingInfo len verdict index)], ev := (y.thread e t).ev ||| 8#5 } ∧
              (∀ (e' : Fin 32) (t' : Fin 8), (e', t') ≠ (e, t) → y'.thread e' t' = y.thread e' t')))))

namespace Sys2Proof.Machine

/-- The tanker channel that owns the bank has a live transfer or an armed shadow set (R282). -/
def OwnerMoves (y : Byre) (k : Fin 48) : Prop := ∃ n < 16, y.bankOwner k = 0x10 + n ∧ y.chanBusy n = true

/-- Everything of the byre but registers is as it was. -/
def Byre.OnlyRegs (y y' : Byre) : Prop := { y' with regs := y.regs } = y

end Sys2Proof.Machine

/-- R280 to R282, R285: a write of OWNER hands a bank over at once, or leaves it pending while the owner's tanker channel
moves data; the pending handover takes effect when that channel is idle; and RET retains and wakes a bank of the host
window.
Conventions of the model used here: assumption log entry 56. -/
def Obligations.VatBankOwners : Prop :=
  ∀ (s : State) (b : Fin 6) (m : Master) (k : Fin 48) (c : BitVec 8),
    let y := s.byre b
    let off := R.VAT_OWNER k
    let rest := fun y' : Byre => y.OnlyRegs y'
    (Taken s b m off → y.inPool k = false → ownerCode c.toNat = true → (y.flag (F.VAT_OWNER_RET k) = true → c = 0x20#8) →
      (y.flag (F.VAT_OWNER_PEND k) = false → ¬OwnerMoves y k → ByreStep (.vatOwnerWrite b m k c) s b fun y' =>
        y'.bankOwner k = c.toNat ∧ y'.rd R.VAT_CNT_HANDOVER = y.rd R.VAT_CNT_HANDOVER + 1#32 ∧
        y.KeepsRegs y' [off, R.VAT_CNT_HANDOVER] ∧ rest y') ∧
      (y.flag (F.VAT_OWNER_PEND k) = false → OwnerMoves y k → ByreStep (.vatOwnerWrite b m k c) s b fun y' =>
        y'.bankOwner k = y.bankOwner k ∧ y'.flag (F.VAT_OWNER_PEND k) = true ∧ y'.get (F.VAT_OWNER_PEND_OWNER k) = c.toNat ∧
        y.KeepsRegs y' [off, R.VAT_BOOK] ∧ rest y') ∧
      (y.flag (F.VAT_OWNER_PEND k) = true → ByreStep (.vatOwnerWrite b m k c) s b fun y' =>
        y'.bankOwner k = y.bankOwner k ∧ y'.get (F.VAT_OWNER_PEND_OWNER k) = c.toNat ∧
        y'.rd R.VAT_CNT_HANDOVER_REPLACE = y.rd R.VAT_CNT_HANDOVER_REPLACE + 1#32 ∧
        y.KeepsRegs y' [off, R.VAT_CNT_HANDOVER_REPLACE] ∧ rest y')) ∧
    (Taken s b m off → y.inPool k = true ∨ ownerCode c.toNat = false → ByreStep (.vatOwnerWrite b m k c) s b fun y' =>
      y'.rd off = y.rd off ∧ y'.rd R.VAT_RSV_FLAG = 1#32 ∧ y.KeepsRegs y' [R.VAT_RSV_FLAG, R.VAT_RSV_ADDR] ∧ rest y') ∧
    (s.on b domFAB = true → y.flag (F.VAT_OWNER_PEND k) = true → ByreStep (.handoverPendingApply b k) s b fun y' =>
      (¬OwnerMoves y k → y'.bankOwner k = y.get (F.VAT_OWNER_PEND_OWNER k) ∧ y'.flag (F.VAT_OWNER_PEND k) = false ∧
        y'.rd R.VAT_CNT_HANDOVER = y.rd R.VAT_CNT_HANDOVER + 1#32 ∧
        y.KeepsRegs y' [off, R.VAT_CNT_HANDOVER, R.VAT_BOOK] ∧ rest y') ∧
      (OwnerMoves y k → y' = y)) ∧
    (Taken s b m off →
      (y.bankOwner k = 0x20 → ByreStep (.bankRetain b m k) s b fun y' =>
        y'.flag (F.VAT_OWNER_RET k) = true ∧ y'.flag (F.VAT_OWNER_RETAINED k) = true ∧ (∀ x, y'.bankOpen k x = false) ∧
        y.KeepsRegs y' [off] ∧ rest y') ∧
      (y.bankOwner k ≠ 0x20 → ByreStep (.bankRetain b m k) s b fun y' =>
        y'.rd off = y.rd off ∧ y'.rd R.VAT_RSV_FLAG = 1#32 ∧ rest y') ∧
      (y.flag (F.VAT_OWNER_RET k) = true → ByreStep (.bankWake b m k) s b fun y' =>
        y'.flag (F.VAT_OWNER_RET k) = false ∧ y'.flag (F.VAT_OWNER_RETAINED k) = false ∧
        y'.flag (F.VAT_OWNER_WAKING k) = true ∧ SMap.get (fun _ => 0) y'.wakeAt k = y.tu.clk + 2001 ∧
        y.KeepsRegs y' [off] ∧ { y' with regs := y.regs, wakeAt := y.wakeAt } = y)) ∧
    (s.stop b m off true = some .locked → ∃ s', exec (.bankRetain b m k) s = .next s' ∧ s'.crm = s.crm.busErr .locked m true (State.byreAddr b off) ∧
      (s'.byre b).rd R.VAT_RSV_FLAG = 1#32 ∧ y.KeepsRegs (s'.byre b) [R.VAT_RSV_FLAG, R.VAT_RSV_ADDR] ∧ rest (s'.byre b)) ∧
    (s.on b domFAB = true → ∀ at_, SMap.get (fun _ => 0) y.wakeAt k = at_ + 1 → ByreStep (.bankWakeEnd b k) s b fun y' =>
      y'.flag (F.VAT_OWNER_WAKING k) = false ∧ SMap.get (fun _ => 0) y'.wakeAt k = 0 ∧ y'.bankOwner k = y.bankOwner k ∧
      y'.mem = y.mem)

/-- R287, R293: enabling a pool gives its banks to the pails with every free pail linked, disabling gives them back, and a
rebuild ends with the pool whole. -/
def Claims.PailPools : Prop :=
  ∀ (s : State) (b : Fin 6) (m : Master) (p : Fin 4) (base n : BitVec 6),
    let y := s.byre b
    (Taken s b m (R.PAIL_POOL_CFG p) →
      (y.idle = true → y.flag (F.PAIL_POOL_CFG_EN p) = false → 1 ≤ n.toNat → base.toNat + n.toNat ≤ 48 →
        (∀ i < n.toNat, y.bankOpen (base.toNat + i) 0x20 = true ∧ y.inPool (base.toNat + i) = false) →
        (∀ o, y.pailUsed o = false) → ByreStep (.poolEnable b m p base n) s b fun y' =>
          y'.flag (F.PAIL_POOL_CFG_EN p) = true ∧ y'.get (F.PAIL_POOL_CFG_BASE_BANK p) = base.toNat ∧
          y'.get (F.PAIL_POOL_CFG_NBANKS p) = n.toNat ∧ (∀ i < n.toNat, y'.bankOwner (base.toNat + i) = 0x30) ∧
          y'.get (F.PAIL_POOL_BOOK_TOTAL p) = n.toNat * 262144 / pailSize p ∧
          y'.get (F.PAIL_POOL_STAT_FREE p) = y'.get (F.PAIL_POOL_BOOK_TOTAL p) ∧
          y'.head p = some (base.toNat * 0x40000) ∧
          (∀ a, a < base.toNat * 0x40000 ∨ (base.toNat + n.toNat) * 0x40000 ≤ a → Mem.ldb y'.mem a = Mem.ldb y.mem a)) ∧
      (y.idle = true → y.flag (F.PAIL_POOL_CFG_EN p) = false → n.toNat = 0 ∨ 48 < base.toNat + n.toNat →
        ByreStep (.poolEnable b m p base n) s b fun y' =>
          y'.rd (R.PAIL_POOL_CFG p) = y.rd (R.PAIL_POOL_CFG p) ∧ y'.rd R.PAIL_RSV_FLAG = 1#32 ∧ y.OnlyRegs y') ∧
      (y.idle = false → ByreStep (.poolEnable b m p base n) s b fun y' =>
          y'.rd (R.PAIL_POOL_CFG p) = y.rd (R.PAIL_POOL_CFG p) ∧ y'.rd R.PAIL_RSV_FLAG = 1#32 ∧ y.OnlyRegs y') ∧
      (y.flag (F.PAIL_POOL_CFG_EN p) = true → (∀ o ∈ y.pailsOf p, y.pailUsed o = false) →
        y.flag (F.PAIL_POOL_STAT_REBUILDING p) = false →
        y.get (F.PAIL_POOL_CFG_BASE_BANK p) + y.get (F.PAIL_POOL_CFG_NBANKS p) ≤ 48 →
        ByreStep (.poolDisable b m p base n) s b fun y' =>
          y'.flag (F.PAIL_POOL_CFG_EN p) = false ∧ y'.head p = none ∧ y'.get (F.PAIL_POOL_STAT_FREE p) = 0 ∧
          (∀ i < y.get (F.PAIL_POOL_CFG_NBANKS p), y'.bankOwner (y.get (F.PAIL_POOL_CFG_BASE_BANK p) + i) = 0x20) ∧
          y'.mem = y.mem) ∧
      (y.flag (F.PAIL_POOL_CFG_EN p) = true → (∃ o ∈ y.pailsOf p, y.pailUsed o = true) →
        ByreStep (.poolDisable b m p base n) s b fun y' =>
          y'.rd (R.PAIL_POOL_CFG p) = y.rd (R.PAIL_POOL_CFG p) ∧ y'.rd R.PAIL_RSV_FLAG = 1#32 ∧ y.OnlyRegs y')) ∧
    (s.on b domFAB = true → y.flag (F.PAIL_POOL_STAT_REBUILDING p) = true → y.st ≠ Byre.stFAULTED →
      (∀ o ∈ y.pailsOf p, y.parBad 4 o = false) → ByreStep (.poolRebuild b p) s b fun y' =>
        y'.flag (F.PAIL_POOL_STAT_REBUILDING p) = false ∧ y'.flag (F.PAIL_POOL_STAT_BROKEN p) = false ∧
        y'.rd R.PAIL_CNT_REBUILD = y.rd R.PAIL_CNT_REBUILD + 1#32 ∧ y'.charge = y.charge)

/-- R288, R290 to R292, R295: an allocation takes the head pail of the smallest pool that can serve it and charges the
requester, a free puts the pail back on the head and credits the one it was charged to, a second free of it changes
nothing but its count, and COLL is cleared by its read. -/
def Claims.PailRequests : Prop :=
  ∀ (s : State) (b : Fin 6) (r : Fin 36) (p : Fin 4) (size o : Nat) (off : BitVec 24) (e : Fin 32) (t : Fin 8),
    let y := s.byre b
    let used := F.PAIL_USED_USED r
    let free := F.PAIL_POOL_STAT_FREE p
    let cost := pailSize p / 128
    s.on b domFAB = true →
    (size ≤ pailSize p → y.poolServes p = true → (∀ q : Fin 4, q < p → y.flag (F.PAIL_POOL_CFG_EN q) = true → pailSize q < size) →
      y.head p = some o → (y.parCheck 4 o).1 = false → (y.parCheck 0 o).1 = false → (y.parCheck 0 (o + 4)).1 = false →
      (y.get used + cost ≤ y.get (F.PAIL_QUOTA_LIMIT r) → ByreStep (.pailAlloc b r size) s b fun y' =>
        y'.pailUsed o = true ∧ SMap.get (fun _ => 0) y'.charge o = r + 1 ∧ y'.get used = y.get used + cost ∧
        y'.get free = y.get free - 1 ∧
        y'.head p = (if (y.vatRead o 8).getLast?.getD 0#8 ≥ 0x80#8 then none else some (leNat (y.vatRead o 3))) ∧
        y.KeepsRegs y' [used.off, free.off] ∧ y'.mem = y.mem) ∧
      (y.get (F.PAIL_QUOTA_LIMIT r) < y.get used + cost → ByreStep (.pailAlloc b r size) s b fun y' =>
        y'.rd R.PAIL_CNT_QUOTA = y.rd R.PAIL_CNT_QUOTA + 1#32 ∧ y.KeepsRegs y' [R.PAIL_CNT_QUOTA] ∧ y.OnlyRegs y')) ∧
    ((∀ q : Fin 4, size ≤ pailSize q → y.poolServes q = false) → ByreStep (.pailAlloc b r size) s b fun y' =>
      y'.rd R.PAIL_CNT_EMPTY = y.rd R.PAIL_CNT_EMPTY + 1#32 ∧ y.KeepsRegs y' [R.PAIL_CNT_EMPTY] ∧ y.OnlyRegs y') ∧
    (y.pailPool off.toNat = some p.val → (y.parCheck 4 off.toNat).1 = false → SMap.get (fun _ => 0) y.canPail off.toNat = 0 →
      y.flag (F.PAIL_POOL_STAT_REBUILDING p) = false → y.get free < 2 ^ 17 - 1 →
      ∀ q : Fin 36, SMap.get (fun _ => 0) y.charge off.toNat = q + 1 → ByreStep (.pailFree b r off) s b fun y' =>
        y'.pailUsed off.toNat = false ∧ y'.head p = some off.toNat ∧ y'.get free = y.get free + 1 ∧
        y'.get (F.PAIL_USED_USED q) = y.get (F.PAIL_USED_USED q) - cost ∧
        leNat (y'.vatRead off.toNat 8) = (y.head p).elim (2 ^ 63) id % 2 ^ 64 ∧
        (∀ a, a < off.toNat ∨ off.toNat + 8 ≤ a → Mem.ldb y'.mem a = Mem.ldb y.mem a)) ∧
    (y.pailPool off.toNat = some p.val → (y.parCheck 4 off.toNat).1 = false → y.pailUsed off.toNat = true →
      SMap.get (fun _ => 0) y.canPail off.toNat = 0 → y.flag (F.PAIL_POOL_STAT_REBUILDING p) = true → y.tu.clk < (y.scanOf p).1 →
      y.scanned p off.toNat = false → ByreStep (.pailFree b r off) s b fun y' =>
        y'.pailUsed off.toNat = false ∧ y'.head p = y.head p ∧ y'.get free = y.get free ∧ y'.mem = y.mem) ∧
    (y.pailPool off.toNat = some p.val → (y.parCheck 4 off.toNat).1 = false → y.pailUsed off.toNat = false →
      ByreStep (.pailFree b r off) s b fun y' =>
        y'.rd R.PAIL_CNT_DOUBLE_FREE = y.rd R.PAIL_CNT_DOUBLE_FREE + 1#32 ∧ y'.mem = y.mem ∧ y'.charge = y.charge ∧
        y'.poolHead = y.poolHead ∧
        (y.flag F.PAIL_FREE_CAP_VALID = false → y'.get F.PAIL_FREE_CAP_KIND = 0 ∧ y'.get F.PAIL_FREE_CAP_REQ = r ∧
          y'.flag F.PAIL_FREE_CAP_VALID = true ∧ (y'.rd R.PAIL_FREE_ADDR).toNat = off.toNat)) ∧
    (y.pailPool off.toNat = none → ByreStep (.pailFree b r off) s b fun y' =>
      y'.rd R.PAIL_CNT_BAD_FREE = y.rd R.PAIL_CNT_BAD_FREE + 1#32 ∧ y'.mem = y.mem ∧ y'.charge = y.charge) ∧
    (ByreStep (.collRead b e t) s b fun y' =>
      y'.thread e t = { y.thread e t with coll := false } ∧ { y' with thr := y.thr } = y)

/-- The pail pools: their setting up, and the requests to them.
Conventions of the model used here: assumption log entry 56. -/
def Obligations.Pails : Prop := Claims.PailPools ∧ Claims.PailRequests

/-- R306 to R309, R426: an acquire by a master with rights and its own identity takes a free lock, leaves a held one as it
is and registers a thread that failed; a release by the owner frees the lock and wakes its waiters; every other access
changes nothing but its count.  The creamery's locks the same, without counts and waiters. -/
def Obligations.Locks : Prop :=
  ∀ (s : State) (b : Fin 6) (e : Fin 32) (t : Fin 8) (l : Fin 256) (v : Word) (m : Master),
    let y := s.byre b
    let src := Src.thread e t
    let id := e * 8 + t.val
    let right := (y.rd (R.LOCK_GRP_RIGHTS (l / 16))).getLsbD (e / 8)
    let held := y.flag (F.LOCK_ACQ_HELD l)
    let acq := Instr.lockAcquire b false src l v
    let rel := Instr.lockRelease b false src l
    s.on b domFAB = true →
    (right = true → v.toNat % 512 = id →
      (held = false → ByreStep acq s b fun y' =>
        y'.flag (F.LOCK_ACQ_HELD l) = true ∧ y'.get (F.LOCK_ACQ_OWNER l) = id ∧
        y'.get (F.LOCK_ACQ_ORPHAN l) = y.get (F.LOCK_ACQ_ORPHAN l) ∧ y.KeepsRegs y' [R.LOCK_ACQ l] ∧ y.OnlyRegs y') ∧
      (held = true → ByreStep acq s b fun y' =>
        SMap.get (fun _ => 0) y'.waiters id = l + 1 ∧ { y' with waiters := y.waiters } = y)) ∧
    (right = true → v.toNat % 512 ≠ id → ByreStep acq s b fun y' =>
      y'.rd R.LOCK_CNT_SPOOF = y.rd R.LOCK_CNT_SPOOF + 1#32 ∧ y.KeepsRegs y' [R.LOCK_CNT_SPOOF] ∧ y.OnlyRegs y') ∧
    (right = false → ∀ c ∈ [acq, rel], ByreStep c s b fun y' =>
      y'.rd R.LOCK_CNT_DENIED = y.rd R.LOCK_CNT_DENIED + 1#32 ∧ y.KeepsRegs y' [R.LOCK_CNT_DENIED] ∧ y.OnlyRegs y') ∧
    (right = true → held = true → y.get (F.LOCK_ACQ_OWNER l) = id → ByreStep rel s b fun y' =>
      y'.flag (F.LOCK_ACQ_HELD l) = false ∧ y'.get (F.LOCK_ACQ_ORPHAN l) = 0 ∧ y.KeepsRegs y' [R.LOCK_ACQ l] ∧
      (∀ (e' : Fin 32) (t' : Fin 8), SMap.get (fun _ => 0) y.waiters (e' * 8 + t'.val) = l + 1 → SMap.wf (fun _ => 0) y.waiters = true →
        (y'.thread e' t').ev.getLsbD 2 = true ∧ SMap.get (fun _ => 0) y'.waiters (e' * 8 + t'.val) = 0)) ∧
    (right = true → ¬(held = true ∧ y.get (F.LOCK_ACQ_OWNER l) = id) → ByreStep rel s b fun y' =>
      y'.rd R.LOCK_CNT_BAD_RELEASE = y.rd R.LOCK_CNT_BAD_RELEASE + 1#32 ∧
      (y.flag F.LOCK_ERR_CAP_VALID = true → y'.rd R.LOCK_ERR_CAP = y.rd R.LOCK_ERR_CAP) ∧
      (y.flag F.LOCK_ERR_CAP_VALID = false → y'.flag F.LOCK_ERR_CAP_VALID = true ∧ y'.get F.LOCK_ERR_CAP_LOCK = l ∧
        y'.get F.LOCK_ERR_CAP_MASTER = id) ∧
      y.KeepsRegs y' [R.LOCK_CNT_BAD_RELEASE, R.LOCK_ERR_CAP] ∧ y.OnlyRegs y') ∧
    (∀ n ∈ [(Master.mp, 4, 0x100), (Master.jtag, 5, 0x101)], m = n.1 → (y.rd (R.LOCK_GRP_RIGHTS (l / 16))).getLsbD n.2.1 = true →
      (Taken s b m (R.LOCK_ACQ l) → v.toNat % 512 = n.2.2 →
        (held = false → ByreStep (.lockAcquire b false (.mgmt m) l v) s b fun y' =>
          y'.flag (F.LOCK_ACQ_HELD l) = true ∧ y'.get (F.LOCK_ACQ_OWNER l) = n.2.2 ∧ y.KeepsRegs y' [R.LOCK_ACQ l] ∧ y.OnlyRegs y') ∧
        (held = true → ByreStep (.lockAcquire b false (.mgmt m) l v) s b fun y' => y' = y)) ∧
      (Taken s b m (R.LOCK_REL l) → held = true → y.get (F.LOCK_ACQ_OWNER l) = n.2.2 →
        ByreStep (.lockRelease b false (.mgmt m) l) s b fun y' =>
          y'.flag (F.LOCK_ACQ_HELD l) = false ∧ y'.get (F.LOCK_ACQ_ORPHAN l) = 0 ∧ y.KeepsRegs y' [R.LOCK_ACQ l])) ∧
    (∀ n ∈ [(Master.mp, 0, 0x100), (Master.jtag, 1, 0x101), (Master.bar0, 2, 0x102)], m = n.1 → s.shut m = false →
      let k := l % 64
      let word := R.CRM_LOCK_ACQ k
      bit (s.crm.rdN (R.CRM_LOCK_GRP_RIGHTS (k / 16))) n.2.1 = true →
      (s.crm.flag (F.CRM_LOCK_ACQ_HELD k) = false → v.toNat % 512 = n.2.2 →
        CrmStep (.lockAcquire b true (.mgmt m) l v) s fun m' =>
          m'.flag (F.CRM_LOCK_ACQ_HELD k) = true ∧ m'.get (F.CRM_LOCK_ACQ_OWNER k) = n.2.2 ∧ s.crm.KeepsRegs m' [word] ∧
          { m' with regs := s.crm.regs } = s.crm) ∧
      (s.crm.flag (F.CRM_LOCK_ACQ_HELD k) = true → s.crm.get (F.CRM_LOCK_ACQ_OWNER k) = n.2.2 →
        CrmStep (.lockRelease b true (.mgmt m) l) s fun m' =>
          m'.flag (F.CRM_LOCK_ACQ_HELD k) = false ∧ s.crm.KeepsRegs m' [word] ∧ { m' with regs := s.crm.regs } = s.crm))

/-- R83, R265, R266: the key store's commands.  A header or material write keeps the words of KEY_HDR, KEY_ID and KEY_DATA
and clears the bank's VERIFIED; an invalidation clears VALID; the live bank of a RUNNING or DEGRADED byre is not
written; a read shows header and identifiers. -/
def Obligations.KeyStore : Prop :=
  ∀ (s : State) (b : Fin 6) (m : Master) (bank key : Bool) (slot : BitVec 8),
    let y := s.byre b
    let bk := if bank then 1 else 0
    let k := if key then 1 else 0
    let hdr := (y.rd R.ROTA_KEY_HDR).toNat
    let other := fun (y' : Byre) => ∀ (bk' : Nat) (sl : Fin 256), (bk', sl.val) ≠ (bk, slot.toNat) →
      ∀ w < 32, y'.keyWord bk' sl w = y.keyWord bk' sl w
    Taken s b m R.ROTA_KEY_CMD → slot.toNat < 255 →
    (¬(y.live = true ∧ bk = y.bank) →
      (hdr % 2 ^ 23 = 0 → (hdr < 2 ^ 31 ∨ hdr / 2 ^ 29 % 4 = 1 ∨ hdr / 2 ^ 29 % 4 = 2) →
        ByreStep (.keyHeaderWrite b m bank slot) s b fun y' =>
          y'.keyWord bk slot.toNat 0 = hdr ∧ y'.keyWord bk slot.toNat 1 = y.rdN R.ROTA_KEY_ID0 ∧
          y'.keyWord bk slot.toNat 2 = y.rdN R.ROTA_KEY_ID1 ∧
          (∀ w, 3 ≤ w → w < 32 → y'.keyWord bk slot.toNat w = y.keyWord bk slot.toNat w) ∧
          other y' ∧ y'.get F.ROTA_KEY_STATUS_RESULT = 0 ∧ y'.verified bk = false) ∧
      (hdr % 2 ^ 23 ≠ 0 → ByreStep (.keyHeaderWrite b m bank slot) s b fun y' =>
        y'.keys = y.keys ∧ y'.get F.ROTA_KEY_STATUS_RESULT = 5) ∧
      (ByreStep (.keyMaterialWrite b m bank key slot) s b fun y' =>
        (∀ i < 8, y'.keyWord bk slot.toNat (8 + 8 * k + i) = y.rdN (R.ROTA_KEY_DATA i)) ∧
        (∀ w < 32, w / 8 ≠ 1 + k → y'.keyWord bk slot.toNat w = y.keyWord bk slot.toNat w) ∧
        other y' ∧ y'.get F.ROTA_KEY_STATUS_RESULT = 0 ∧ y'.verified bk = false) ∧
      (ByreStep (.keySlotInvalidate b m bank slot) s b fun y' =>
        y'.keyWord bk slot.toNat 0 = y.keyWord bk slot.toNat 0 % 2 ^ 31 ∧
        (∀ w, 1 ≤ w → w < 32 → y'.keyWord bk slot.toNat w = y.keyWord bk slot.toNat w) ∧
        other y' ∧ y'.get F.ROTA_KEY_STATUS_RESULT = 0 ∧ y'.verified bk = false)) ∧
    (y.live = true → bk = y.bank →
      ∀ c ∈ [Instr.keyHeaderWrite b m bank slot, .keyMaterialWrite b m bank key slot, .keySlotInvalidate b m bank slot],
        ∃ s', exec c s = .next s' ∧ (s'.byre b).keys = y.keys ∧ (s'.byre b).get F.ROTA_KEY_STATUS_RESULT = 1) ∧
    (ByreStep (.keySlotRead b m bank slot) s b fun y' =>
      y'.rdN R.ROTA_KEY_HDR = y.keyWord bk slot.toNat 0 ∧ y'.rdN R.ROTA_KEY_ID0 = y.keyWord bk slot.toNat 1 ∧
      y'.rdN R.ROTA_KEY_ID1 = y.keyWord bk slot.toNat 2 ∧ y'.get F.ROTA_KEY_STATUS_RESULT = 0 ∧ y'.keys = y.keys ∧
      (y.keyWord bk slot.toNat 0 < 2 ^ 31 → y'.rdN R.ROTA_KEY_KCV0 = 0 ∧ y'.rdN R.ROTA_KEY_KCV1 = 0))

namespace Sys2Proof.Machine

/-- A write of the servo or step register `off` from `src` is taken (R58): management while the access is taken, or the
servo's owner thread, which does not run in a freeze (R56). -/
def Adjusts (s : State) (b : Fin 6) (off : Nat) : Src → Prop
  | .mgmt m => Taken s b m off
  | .thread e t => s.on b domFAB = true ∧ (s.byre b).servoOwner e t = true ∧ (s.byre b).tu.frozenAt = none

end Sys2Proof.Machine

/-- R36, R58: what each servo request makes of the time state, the bound and the watchdog, and what the watchdog's expiry
does; a thread that is not the owner changes nothing but CNT_REFUSED.
Conventions of the model used here: assumption log entry 28. -/
def Obligations.ServoRequests : Prop :=
  ∀ (s : State) (b : Fin 6) (src : Src) (bound : BitVec 24),
    let y := s.byre b
    let wd := some (y.tu.clk + 2000000000)
    let took := fun y' : Byre => y'.tu.boundBase = bound.toNat ∧ y'.tu.boundAt = y.tu.clk ∧ y'.get F.TIME_SERVO_BOUND_NS = bound.toNat
    (Adjusts s b R.TIME_SERVO src →
      (ByreStep (.servoReqNone b src bound) s b fun y' =>
        y'.tu.watchdog = wd ∧
        (y.tst = Byre.tLOCKED → y'.tst = Byre.tHOLD ∧ y'.rd R.TIME_CNT_LOCK_LOSS = y.rd R.TIME_CNT_LOCK_LOSS + 1#32) ∧
        (y.tst = Byre.tACQ → y'.tst = if y.tu.lockedSince then Byre.tHOLD else Byre.tFREE) ∧
        (y.tst = Byre.tFREE ∨ y.tst = Byre.tHOLD → y'.tst = y.tst ∧ took y') ∧
        y.KeepsRegs y' [R.TIME_SERVO, R.TIME_STATUS, R.TIME_CNT_LOCK_LOSS]) ∧
      (ByreStep (.servoReqAcquiring b src bound) s b fun y' =>
        y'.tu.watchdog = wd ∧ y'.tst = Byre.tACQ ∧ took y' ∧ y.KeepsRegs y' [R.TIME_SERVO, R.TIME_STATUS]) ∧
      (y.tst = Byre.tACQ ∨ y.tst = Byre.tLOCKED → ByreStep (.servoReqLocked b src bound) s b fun y' =>
        y'.tu.watchdog = wd ∧ y'.tst = Byre.tLOCKED ∧ y'.tu.lockedSince = true ∧ y'.flag F.TIME_STATUS_SRC_RTC = false ∧
        (y.tu.refFail = false → y'.flag F.TIME_STATUS_CLK_FAIL = false) ∧ took y' ∧
        y.KeepsRegs y' [R.TIME_SERVO, R.TIME_STATUS]) ∧
      (y.tst = Byre.tFREE ∨ y.tst = Byre.tHOLD → ByreStep (.servoReqLocked b src bound) s b fun y' =>
        y'.tu = { y.tu with watchdog := wd } ∧ y'.rd R.TIME_CNT_BAD_REQ = y.rd R.TIME_CNT_BAD_REQ + 1#32 ∧
        y.KeepsRegs y' [R.TIME_CNT_BAD_REQ]) ∧
      (ByreStep (.servoKeep b src) s b fun y' => y' = { y with tu := { y.tu with watchdog := wd } })) ∧
    (∀ (e : Fin 32) (t : Fin 8), src = .thread e t → s.on b domFAB = true → y.servoOwner e t = false →
      ∀ c ∈ [Instr.servoReqNone b src bound, .servoReqAcquiring b src bound, .servoReqLocked b src bound, .servoKeep b src,
          .timeStepRequest b src bound.toNat],
        ByreStep c s b fun y' => y'.rd R.TIME_CNT_REFUSED = y.rd R.TIME_CNT_REFUSED + 1#32 ∧
          y.KeepsRegs y' [R.TIME_CNT_REFUSED] ∧ y.OnlyRegs y') ∧
    (∀ c, s.on b domTIME = true → y.tu.stopped = false → y.tu.watchdog = some c →
      ByreStep (.servoWatchdogExpiry b) s b fun y' =>
        y'.tu.watchdog = none ∧ y'.rd R.TIME_CNT_WATCHDOG = y.rd R.TIME_CNT_WATCHDOG + 1#32 ∧
        y'.tst = (if y.tst = Byre.tLOCKED then Byre.tHOLD
          else if y.tst = Byre.tACQ then (if y.tu.lockedSince then Byre.tHOLD else Byre.tFREE) else y.tst))

/-- R33, R41 to R43: a step request waits; with no tick the counter alone moves by the step; with a tick running the
next boundary is the first at or after the new time that is later than every one issued; a leap second moves OFFSET. -/
def Claims.TimeSteps : Prop :=
  ∀ (s : State) (b : Fin 6) (src : Src) (v : Word),
    let y := s.byre b
    let rate := y.tu.rate
    (Adjusts s b R.TIME_STEP_NS src → ByreStep (.timeStepRequest b src v) s b fun y' =>
      y'.flag F.TIME_STATUS_STEP_PEND = true ∧ y'.tu = y.tu ∧
      (-999999999 ≤ v.toInt ∧ v.toInt ≤ 999999999 → y'.rd R.TIME_STEP_NS = v ∧
        y.KeepsRegs y' [R.TIME_STEP_NS, R.TIME_STATUS]) ∧
      (¬(-999999999 ≤ v.toInt ∧ v.toInt ≤ 999999999) → y'.rd R.TIME_STEP_NS = y.rd R.TIME_STEP_NS ∧
        y'.rd R.TIME_RSV_FLAG = 1#32 ∧
        y.KeepsRegs y' [R.TIME_STATUS, R.TIME_RSV_FLAG, R.TIME_RSV_ADDR])) ∧
    (s.on b domTIME = true → y.tu.stopped = false → y.flag F.TIME_STATUS_STEP_PEND = true →
      (rate = 0 → ByreStep (.timeStepApply b) s b fun y' =>
        y'.flag F.TIME_STATUS_STEP_PEND = false ∧ y'.rd R.TIME_CNT_STEP = y.rd R.TIME_CNT_STEP + 1#32 ∧
        (y'.now : Int) = (y.now + (y.rd R.TIME_STEP_SEC).toInt * 1000000000 + (y.rd R.TIME_STEP_NS).toInt) % (2 ^ 48 * 1000000000) ∧
        y'.tu.mono = y.tu.mono ∧ y'.tu.clk = y.tu.clk ∧ y'.tu.frac = y.tu.frac) ∧
      (0 < rate → y.tu.frozenAt = none → y.tu.genK < rate → ByreStep (.timeStepApply b) s b fun y' =>
        y'.flag F.TIME_STATUS_STEP_PEND = false ∧ y'.rd R.TIME_CNT_STEP = y.rd R.TIME_CNT_STEP + 1#32 ∧
        Byre.tickNo rate ⟨y.tu.genS, y.tu.genK⟩ ≤ Byre.tickNo rate ⟨y'.tu.genS, y'.tu.genK⟩ ∧
        y'.now ≤ y'.nextBoundary ∧ y'.tu.genK < rate ∧
        y'.nextBoundary = Byre.tickNs rate ⟨y'.tu.genS, y'.tu.genK⟩)) ∧
    (s.on b domTIME = true → y.tu.stopped = false →
      (y.flag F.TIME_UTC_LEAP61 = true → ByreStep (.leapSecondApply b) s b fun y' =>
        y'.get F.TIME_UTC_OFFSET = (y.get F.TIME_UTC_OFFSET + 1) % 2 ^ 16 ∧ y'.flag F.TIME_UTC_LEAP61 = false ∧
        y'.flag F.TIME_UTC_LEAP59 = false ∧ y.KeepsRegs y' [R.TIME_UTC]) ∧
      (y.flag F.TIME_UTC_LEAP61 = false → y.flag F.TIME_UTC_LEAP59 = true → ByreStep (.leapSecondApply b) s b fun y' =>
        y'.get F.TIME_UTC_OFFSET = (y.get F.TIME_UTC_OFFSET + 65535) % 2 ^ 16 ∧ y'.flag F.TIME_UTC_LEAP59 = false ∧
        y.KeepsRegs y' [R.TIME_UTC]))

/-- R32, R37 to R39, R44, R45, R55: the reads that latch the counters, the bound and quality between ticks, the loss and
return of the reference clock, and the PPS pins. -/
def Claims.TimeUnit : Prop :=
  ∀ (s : State) (b : Fin 6) (m : Master) (dt : Nat) (rise : Bool),
    let y := s.byre b
    (s.stop b m R.TIME_SEC_LO false = none → ∃ s', exec (.timeSecLoRead b m) s = .next s' ∧
      s'.busRd = BitVec.ofNat 32 y.tu.sec ∧
      (s'.byre b).tu = { y.tu with latSec := y.tu.sec, latNs := y.tu.ns, latFrac := y.tu.frac }) ∧
    (s.stop b m R.TIME_MONO_LO false = none → ∃ s', exec (.monoLoRead b m) s = .next s' ∧
      s'.busRd = BitVec.ofNat 32 y.tu.mono ∧ (s'.byre b).tu = { y.tu with monoLat := y.tu.mono / 2 ^ 32 % 2 ^ 31 }) ∧
    (s.on b domTIME = true →
      (y.tu.rate = 0 → ByreStep (.errBoundUpdate b dt) s b fun y' =>
        y'.tu.clk = y.tu.clk + min dt 1000000 ∧
        (y.tst = Byre.tFREE → y'.rd R.TIME_ERR_BOUND = 0xFFFFFFFF#32) ∧
        (y.tst ≠ Byre.tFREE → (y'.rd R.TIME_ERR_BOUND).toNat = min 0xFFFFFFFF
          (y.tu.boundBase + y.get F.TIME_HOLD_HOLD_DRIFT * (y'.tu.clk - y.tu.boundAt) / 1000000000)) ∧
        y'.get F.TIME_QUAL_SMPSYNCH = (if y.tst = Byre.tLOCKED then 2 else 1) ∧
        y.KeepsRegs y' [R.TIME_ERR_BOUND, R.TIME_QUAL]) ∧
      (y.tu.refFail = false → s.on b domFAB = true → ∃ s', exec (.refclkLoss b) s = .next s' ∧
        (s'.byre b).tu.stopped = true ∧ (s'.byre b).flag F.TIME_STATUS_CLK_FAIL = true ∧
        (s'.byre b).flag F.TIME_STATUS_REFCLK_OK = false ∧ (s'.byre b).st = Byre.stFAULTED ∧
        bit (s'.crm.rdN R.AON_CLK_STAT) b = false) ∧
      (y.tu.refFail = true → ∀ t, s.crm.rtcNow = some t → 31000 ≤ t → t + 31000 < 2 ^ 48 * 1000000000 →
        ∃ s', exec (.refclkReturn b) s = .next s' ∧
          (s'.byre b).tu.stopped = false ∧ (s'.byre b).tu.refFail = false ∧ (s'.byre b).tst = Byre.tFREE ∧
          (s'.byre b).flag F.TIME_STATUS_CLK_FAIL = false ∧ (s'.byre b).flag F.TIME_STATUS_SRC_RTC = true ∧
          (s'.byre b).flag F.TIME_MONO_HI_DISC = true ∧ t ≤ (s'.byre b).now + 31000 ∧ (s'.byre b).now ≤ t + 31000) ∧
      (y.flag F.TIME_PPS_OUT_EN = true → y.tu.stopped = false → ByreStep (.ppsOutEdge b) s b fun y' =>
        y'.tu.ppsOut = true ∧ (y'.ppsPin = !y.flag F.TIME_PPS_OUT_POL ↔ y.flag F.TIME_PPS_OUT_GATE = false ∨ y.tst = Byre.tLOCKED) ∧
        y'.tu.ppsEnd = y'.tu.clk + y.get F.TIME_PPS_OUT_WIDTH_US * 1000 ∧ y'.regs = y.regs) ∧
      (y.tu.ppsOut = true → ByreStep (.ppsPulseEnd b) s b fun y' => y'.tu.ppsOut = false ∧ y'.ppsPin = y.flag F.TIME_PPS_OUT_POL ∧ y'.regs = y.regs) ∧
      (y.flag F.TIME_PPS_IN_EN = true → y.flag F.TIME_PPS_IN_EDGE ≠ rise → ByreStep (.ppsInEdge b dt rise) s b fun y' =>
        let d := (y'.rd R.TIME_PPS_IN_DIFF).toInt;
        (-500000000 : Int) ≤ d ∧ d < 500000000 ∧ y'.flag F.TIME_STATUS_PPS_IN_MISSING = false ∧ y'.tu.ppsInAt = y'.tu.clk ∧
        (y.get F.TIME_PPS_IN_THRESH_NS < d.natAbs → y'.flag F.TIME_STATUS_PPS_IN_ALARM = true ∧
          y'.rd R.TIME_CNT_PPS_ALARM = y.rd R.TIME_CNT_PPS_ALARM + 1#32) ∧
        (d.natAbs ≤ y.get F.TIME_PPS_IN_THRESH_NS → y.KeepsRegs y' [R.TIME_PPS_IN_DIFF, R.TIME_STATUS])) ∧
      (y.flag F.TIME_PPS_IN_EN = false → y.flag F.TIME_PPS_IN_EDGE ≠ rise → ByreStep (.ppsInEdge b dt rise) s b fun y' =>
        y'.tu.ppsInAt = y'.tu.clk ∧ y'.flag F.TIME_STATUS_PPS_IN_MISSING = false ∧ y.KeepsRegs y' [R.TIME_STATUS]) ∧
      (y.flag F.TIME_PPS_IN_EN = true → y.flag F.TIME_STATUS_PPS_IN_MISSING = false →
        ByreStep (.ppsInMissing b) s b fun y' =>
          y'.flag F.TIME_STATUS_PPS_IN_MISSING = true ∧ y.KeepsRegs y' [R.TIME_STATUS]))

/-- Steps of the time, and the events of the time unit.
Conventions of the model used here: assumption log entries 27, 81. -/
def Obligations.StepsAndTimeUnit : Prop := Claims.TimeSteps ∧ Claims.TimeUnit

namespace Sys2Proof.Machine

/-- The plan in progress is `p`, not on the overrun path, and its next word, with opcode `opc` and lanes `l`, is fetched now
and found good (R64, R67, R90). -/
def AtWord (s : State) (b : Fin 6) (p : Plan) (l : Nat → Nat) (opc : Nat) : Prop :=
  let y := s.byre b
  s.on b domFAB = true ∧ y.ch.plan = some p ∧ p.wait = .none ∧ p.overran = false ∧
    y.rota.stalled = false ∧ y.rota.recq = [] ∧ (p.committed = true ∨ y.pastThreshold p = false) ∧
    y.fetchCheck (p.pc % 16384) = none ∧ (∀ i < 8, y.lane y.bank (p.pc % 16384) i = l i) ∧ l 0 % 256 = opc

/-- The plan after a word that has completed: the next word, or the next iteration of the loops that end there (R69). -/
def wentOn (p : Plan) : Plan :=
  { p with pc := (Byre.afterWord p.loops p.pc).1, loops := (Byre.afterWord p.loops p.pc).2, wait := .none }

/-- The word completes: the plan is now `q`, and its cost of `n` churn cycles of 2 ns has elapsed; `P` says the rest. -/
def PlanStep (c : Instr) (s : State) (b : Fin 6) (q : Plan) (n : Nat) (P : Byre → Prop) : Prop :=
  ByreStep c s b fun y' => y'.ch.plan = some q ∧ y'.tu.clk = (s.byre b).tu.clk + 2 * n ∧ P y'

end Sys2Proof.Machine

/-- R67, R69, R87, R169, R281, R285, R299, R322, R323: the words of a plan, each with its effect, its cost and the word
that follows.  An effect takes place at the word's fetch (the model's choice, log entry 41).
Conventions of the model used here: assumption log entries 31, 41. -/
def Obligations.PlanWords : Prop :=
  ∀ (s : State) (b : Fin 6) (p : Plan) (l : Nat → Nat),
    let y := s.byre b
    let at_ := AtWord s b p l
    let own := [R.CHURN_PC, R.CHURN_UPC]
    (at_ 0x00 → PlanStep (.nop b) s b (wentOn p) 1 fun y' =>
      y.KeepsRegs y' own ∧ { y' with regs := y.regs, ch := y.ch, tu := y.tu } = y) ∧
    (at_ 0x08 → PlanStep (.loop b) s b
      { p with pc := p.pc + 1, loops := ⟨p.pc + 1, l 2 % 2 ^ 14, l 1 - 1, 0⟩ :: p.loops } 2 fun y' =>
        y.KeepsRegs y' own ∧ { y' with regs := y.regs, ch := y.ch, tu := y.tu } = y) ∧
    (at_ 0x01 → ByreStep (.waitOfs b) s b fun y' =>
      y'.ch.plan = some (if p.bt + l 1 ≤ y'.now then wentOn p else { p with wait := .ofs (p.bt + l 1) })) ∧
    (at_ 0x0D → y.evq.length < 64 → PlanStep (.event b) s b (wentOn p) 4 fun y' =>
      y'.evq = y.evq ++ [⟨0x40, y.num, p.tick.s % 2 ^ 32, p.tick.k, leBytes 2 (l 1)⟩] ∧ y.KeepsRegs y' own ∧
      { y' with regs := y.regs, ch := y.ch, tu := y.tu, evq := y.evq } = y) ∧
    (at_ 0x02 → let g := l 1 % 8
      ((y.group g).on = false → PlanStep (.seal b) s b (wentOn p) 16 fun y' =>
        y'.rota.seals = y.rota.seals ++ [(p.tick, g)] ∧ y'.sealq = y.sealq) ∧
      ((y.group g).on = true → PlanStep (.seal b) s b (wentOn p) 16 fun y' =>
        y'.sealq = y.sealq ++ (y.dueTicks g).map fun n => ⟨g, Byre.tickOf y.tu.rate n, false, y.bank, y.tu.rate, p.tick, y.tu.clk + 24⟩)) ∧
    (at_ 0x03 → y.occPlain < 4080 → (l 3).testBit 11 = false → PlanStep (.dispatch b) s b (wentOn p) 4 fun y' =>
      y'.rd R.ROTA_CNT_DISPATCH = y.rd R.ROTA_CNT_DISPATCH + 1#32 ∧
      (y.rdN R.CHURN_BADENG = 0 → y'.rota.ents.length = y.rota.ents.length + 1 ∧ ∃ o ∈ y'.rota.ents, o.cls = 1 ∧ o.tick = p.tick ∧ o.id = l 1 % 65536 ∧ o.d1 = 0 ∧ o.entry = l 7 % 65536 ∧
        o.home = l 3 % 32 ∧ o.spill = l 3 / 256 % 4 ∧ o.budget = l 2 ∧ o.groups = l 4 % 256)) ∧
    (at_ 0x03 → 4080 ≤ y.occPlain → PlanStep (.dispatch b) s b { p with wait := .dispatch } 4 fun y' =>
      y'.rd R.ROTA_CNT_FULL_STALL = y.rd R.ROTA_CNT_FULL_STALL + 1#32 ∧ y'.rota = y.rota) ∧
    (at_ 0x04 → let n := l 1 % 16
      let a := l 2
      let c := y.chan n
      y.descOpen n a = true → (∀ i < 8, (y.parCheck 0 (a + 4 * i)).1 = false) → (y.ldw a).testBit 31 = true →
      c.disabled = false → c.armed = false → c.held < 3 → PlanStep (.tanker b) s b (wentOn p) 8 fun y' =>
        let c' := y'.chan n
        c'.held = c.held + 1 ∧ c'.rd 0x4C = (c.rd 0x4C + 1) % 2 ^ 32 ∧ (∀ i < 8, c'.sh i = y.ldw (a + 4 * i)) ∧
        (c.st = 1 → c'.st = 1 ∧ c'.armed = true ∧ ∀ i < 8, c'.live i = c.live i) ∧
        (c.st ≠ 1 → c'.st = 1 ∧ c'.armed = false ∧ (∀ i < 7, c'.live i = y.ldw (a + 4 * i)) ∧ c'.live 7 = insBits (y.ldw (a + 28)) 23 0 0)) ∧
    (at_ 0x04 → (y.chan (l 1 % 16)).armed = true → PlanStep (.tanker b) s b (wentOn p) 8 fun y' =>
      (y'.chan (l 1 % 16)).rd 0x94 = ((y.chan (l 1 % 16)).rd 0x94 + 1) % 2 ^ 32) ∧
    (at_ 0x05 → let g := l 1 % 64
      let r := y.result (l 3 % 65536)
      let rate := max 1 p.rate
      let at_ := Byre.tickNs rate (Byre.tickOf rate (Byre.tickNo rate p.tick + l 1 / 2 ^ 16 % 16)) + l 2
      (r.kind = 0 → PlanStep (.launch b) s b (wentOn p) 6 fun y' =>
        y'.rd R.CAL_CNT_CAL_EMPTY = y.rd R.CAL_CNT_CAL_EMPTY + 1#32 ∧ y'.cal = y.cal) ∧
      (r.kind = 2 → g < 24 → (y.calOf g).length < 256 → PlanStep (.launch b) s b (wentOn p) 6 fun y' =>
        (∃ c ∈ y'.calOf g, c.l = at_ ∧ c.pail = r.pail ∧ c.len = r.len) ∧ (y'.calOf g).length = (y.calOf g).length + 1 ∧
        (∀ g', g' ≠ g → y'.calOf g' = y.calOf g')) ∧
      (r.kind = 1 → 32 ≤ g → g < 48 → (y.calOf g).length < 256 → PlanStep (.launch b) s b (wentOn p) 6 fun y' =>
        (∃ c ∈ y'.calOf g, c.l = at_ ∧ c.level = r.level) ∧ (∀ g', g' ≠ g → y'.calOf g' = y.calOf g'))) ∧
    (at_ 0x07 → PlanStep (.swap b) s b (wentOn p) 8 fun y' =>
      (y.bindBad y.bank (y.get F.CHURN_STATUS_BINDING) = false → y.KeepsRegs y' own) ∧
      (∀ n, y.bindBad y.bank (y.get F.CHURN_STATUS_BINDING) = true → y.altFor y.bank = some n →
        y'.flag F.CHURN_STATUS_DEGRADE_PEND = true ∧ y'.ch.flipTo = n)) ∧
    (at_ 0x0A → let k := l 1 % 64
      (y.bankAsleep k = true ∨ y.inPool k = true → PlanStep (.handover b) s b (wentOn p) 4 fun y' =>
        y'.rd R.VAT_CNT_HANDOVER_REFUSED = y.rd R.VAT_CNT_HANDOVER_REFUSED + 1#32 ∧
        y.KeepsRegs y' (R.VAT_CNT_HANDOVER_REFUSED :: own)) ∧
      (∀ k' : Fin 48, k'.val = k → y.bankAsleep k = false → y.inPool k = false → y.flag (F.VAT_OWNER_PEND k) = false →
        ¬OwnerMoves y k' → PlanStep (.handover b) s b (wentOn p) 4 fun y' =>
          y'.bankOwner k = l 1 / 256 % 256 ∧ y.KeepsRegs y' ([R.VAT_OWNER k, R.VAT_CNT_HANDOVER] ++ own))) ∧
    (at_ 0x0C → let g := l 1 % 8
      (y.recording = false → PlanStep (.record b) s b (wentOn p) 8 fun y' =>
        y'.rd R.DRAM_CNT_REC_SKIP = y.rd R.DRAM_CNT_REC_SKIP + 1#32 ∧ y'.rcd = y.rcd) ∧
      (y.recording = true → (y.group g).on = true → (l 1).testBit 8 = false → PlanStep (.record b) s b (wentOn p) 8 fun y' =>
        ∃ j, y'.rcd.jobs = y.rcd.jobs ++ [j] ∧ j.typ = 1 ∧ j.src = g ∧ j.sec = p.tick.s % 2 ^ 32 ∧ j.k = p.tick.k)) ∧
    (at_ 0x06 →
      ((∀ i < 7, (l 1).testBit i = true → y.bookOk i = true) → PlanStep (.audit b) s b (wentOn p) 24 fun y' =>
        y.KeepsRegs y' own ∧ y'.rota = y.rota) ∧
      ((∃ i < 7, (l 1).testBit i = true ∧ y.bookOk i = false) → p.committed = true → PlanStep (.audit b) s b (wentOn p) 24 fun y' =>
        y'.rd R.CHURN_CNT_CONSERVE = y.rd R.CHURN_CNT_CONSERVE + 1#32)) ∧
    (at_ 0x0E → ByreStep (.planEnd b) s b fun y' =>
      y'.ch.plan = none ∧ y'.ch.pend = y.ch.pend ∧ y'.rota = y.rota ∧ y'.mem = y.mem) ∧
    (at_ 0x0B →
      (y.emu = [] → PlanStep (.sweep b) s b (wentOn p) (4 + 2 * l 2) fun y' => y'.emu = [] ∧ y.KeepsRegs y' own) ∧
      (∀ x e, y.emu = [(x, e)] → e.kt ≠ 0 → x < 65536 → x / 4 = l 1 → (y.parCheck spEmu x).1 = false →
        y.emuGone x = false → y.emuAged x = true → PlanStep (.sweep b) s b (wentOn p) (4 + 2 * l 2) fun y' =>
          (y'.emuAt x).kt = 0 ∧ y'.rd R.EMU_CNT_AGED = y.rd R.EMU_CNT_AGED + 1#32))

namespace Sys2Proof.Machine

/-- No stored word of the byre fails its parity. -/
def NoParity (y : Byre) : Prop := y.badPar = [] ∧ y.softPar = []

/-- The firmware has nothing to do for the byre's power policy (R499). -/
def PolicyAtRest (s : State) (b : Fin 6) : Prop := s.crm.up = true → SMap.get (fun _ => 0) s.crm.polAt b = s.fwSt b + 1

end Sys2Proof.Machine

/-- R74, R76, R78, R80, R205, R208, R320, R321: COMMIT waits for the plan's work, the commit instant makes the winners of
the staged results visible, an overrun ends all work of the plan, recompute requests and stalled words enter the ready
list, and a pending plan starts at its binding's first word. -/
def Claims.CommitAndOverrun : Prop :=
  ∀ (s : State) (b : Fin 6) (p : Plan) (l : Nat → Nat),
    let y := s.byre b
    (AtWord s b p l 0x09 → PlanStep (.commit b) s b { p with wait := .commit } 0 fun y' =>
      y'.get F.CHURN_STATUS_PHASE = (if p.nb.isSome then 5 else 3) ∧ y'.mem = y.mem) ∧
    (s.on b domFAB = true → y.ch.plan = some p → p.wait = .commit → p.overran = false → y.workDone p.tick = true →
      y.pastThreshold p = false → NoParity y → (∀ n < 16, (y.chan n).st ≠ 1) → (∀ r ∈ y.results, r.2.kind < 2) →
      (∀ g ∈ y.staged, g.res.kind < 2) → ∃ s', exec (.commitInstant b) s = .next s' ∧
        let y' := s'.byre b
        y'.ch.plan = some { wentOn p with committed := true } ∧ y'.get F.CHURN_STATUS_OVR_RUN = 0 ∧
        y'.ch.committedOnce = true ∧ (∀ g ∈ y'.staged, g.tick ≠ p.tick) ∧
        (∀ g, y.staged.filter (fun x => x.tick == p.tick) = [g] → g.st = some 0 →
          y'.result g.slot = g.res ∧ ∀ n, n ≠ g.slot → y'.result n = ⟨0, false, 0, 0, 0⟩) ∧
        (y.staged.filter (fun x => x.tick == p.tick) = [] → ∀ n, y'.result n = ⟨0, false, 0, 0, 0⟩)) ∧
    (∀ n, s.on b domFAB = true → y.tu.stopped = false → y.ch.plan = some p → p.committed = false → p.overran = false → p.nb = some n →
      n + 2000 < 2 ^ 48 * 1000000000 → NoParity y → ByreStep (.overrun b) s b fun y' =>
        (∃ q, y'.ch.plan = some q ∧ q.overran = true ∧ q.tick = p.tick ∧ q.wait = .none) ∧
        y'.rd R.CHURN_CNT_OVERRUN = y.rd R.CHURN_CNT_OVERRUN + 1#32 ∧ n + 2000 ≤ y'.now ∧
        (∀ o ∈ y'.rota.ents, Byre.ofPlan p.tick o = false) ∧ (∀ g ∈ y'.staged, g.tick ≠ p.tick) ∧
        (∀ (e : Fin 32) (t : Fin 8) r, (y'.thread e t).op = some r → Byre.ofPlan p.tick r.ent = false) ∧
        (∀ (e : Fin 32) (t : Fin 8) r, (y.thread e t).op = some r → Byre.ofPlan p.tick r.ent = true →
          (y.thread e t).halted = false → (y'.thread e t).pc = (y.thread e t).tvec ∧
          (y'.thread e t).tcause = 0x1007#16 + (if (y.thread e t).status.getLsbD 1 then 0x100#16 else 0#16)) ∧
        (∀ k, y'.result k = ⟨0, false, 0, 0, 0⟩)) ∧
    (∀ o os, s.on b domFAB = true → y.rota.recq = o :: os → y.rota.stalled = false → y.ch.halted = false →
      y.now < y.nextBoundary →
      (y.rerunsIn < 16 → ByreStep (.recomputeRequest b false) s b fun y' =>
        y'.rota.recq = os ∧
        (y.rdN R.CHURN_BADENG = 0 → y'.rota.ents.length = y.rota.ents.length + 1 ∧ ∃ x ∈ y'.rota.ents, x.id = o.id ∧ x.cls = o.cls) ∧
        y'.rd R.CHURN_CNT_RECOMPUTE = y.rd R.CHURN_CNT_RECOMPUTE + 1#32) ∧
      (16 ≤ y.rerunsIn → ByreStep (.recomputeRequest b false) s b fun y' =>
        y'.rota = { y.rota with stalled := true } ∧ y'.rd R.ROTA_CNT_FULL_STALL = y.rd R.ROTA_CNT_FULL_STALL + 1#32)) ∧
    (s.on b domFAB = true → y.ch.plan = some p → p.overran = false → y.rota.stalled = false →
      (p.wait = .dispatch → y.occPlain < 4080 → ByreStep (.dispatchStallEnd b) s b fun y' =>
        y'.ch.plan = some (wentOn p) ∧ (y.rdN R.CHURN_BADENG = 0 → y'.rota.ents.length = y.rota.ents.length + 1) ∧
        y'.rd R.ROTA_CNT_DISPATCH = y.rd R.ROTA_CNT_DISPATCH + 1#32) ∧
      (∀ t, p.wait = .ofs t → y.tu.stopped = false → t < 2 ^ 48 * 1000000000 → ByreStep (.waitOfsMet b) s b fun y' =>
        y'.ch.plan = some (wentOn p) ∧ y'.now = max t y.now ∧ y.KeepsRegs y' [])) ∧
    (∀ ps, s.on b domFAB = true → y.ch.plan = none → y.ch.pend = p :: ps → y.ch.halted = false → y.plansRun = true → y.tu.frozenAt = none →
      p.flip = 0 → p.nb = none → ByreStep (.pendingPlanStart b) s b fun y' =>
        y'.ch.plan = some { p with pc := y.bindStart y.bank (y.get F.CHURN_STATUS_BINDING), loops := [], wait := .none } ∧
        y'.ch.pend = ps ∧ y'.rd R.CHURN_CNT_PLAN = y.rd R.CHURN_CNT_PLAN + 1#32 ∧
        y'.get F.CHURN_STATUS_PHASE = 2 ∧ y'.rota.ents = y.rota.ents)

/-- R46, R56, R73, R82 to R85, R199, R468: a boundary makes its identity the current tick, releases every wait and starts
its plan; arms are taken or refused with the lowest code; a freeze is latched; and entry to FAULTED stops the churn, the
engines, the tankers and the ready list. -/
def Claims.Boundaries : Prop :=
  ∀ (s : State) (b : Fin 6) (m : Master) (mid : Bool),
    let y := s.byre b
    let rate := y.tu.rate
    let tick : Tick := ⟨y.tu.genS, y.tu.genK⟩
    let sb := y.lane y.stby 0 0 % 16384
    let arm : Tick := ⟨y.nearSec (y.rdN R.CHURN_ARM_SEC), y.get F.CHURN_ARM_K_K⟩
    (s.on b domTIME = true → PolicyAtRest s b → 0 < rate → y.tu.frozenAt = none → y.tu.stopped = false →
      y.flag F.TIME_STATUS_STEP_PEND = false → y.tu.freezePend = false → y.ch.faultPend = none → y.ch.halted = false →
      y.ch.arm = none → y.ch.stopPend = false → y.ch.startPend = false → y.flag F.CHURN_STATUS_DEGRADE_PEND = false →
      y.ch.plan = none → y.ch.pend = [] → (y.parCheck spTime 0).1 = false →
      (y.st = Byre.stRUNNING → ∃ s', exec (.tickBoundary b mid) s = .next s' ∧
        let y' := s'.byre b
        y'.tu.cur = tick ∧ y'.tu.issued = true ∧ y'.get F.TIME_TICK_K_K = y.tu.genK % 2 ^ 14 ∧
        (y.tu.genK + 1 ≠ rate → y'.tu.genS = y.tu.genS ∧ y'.tu.genK = y.tu.genK + 1) ∧
        (y.tu.genK + 1 = rate → y'.tu.genS = y.tu.genS + 1 ∧ y'.tu.genK = 0 ∧ y'.tu.genNs = 0) ∧
        (∀ (e : Fin 32) (t : Fin 8), (y'.thread e t).wait = none) ∧ y'.waiters = [] ∧
        y'.rd R.CHURN_CNT_PLAN = y.rd R.CHURN_CNT_PLAN + 1#32 ∧
        ∃ q, y'.ch.plan = some q ∧ q.tick = tick ∧ q.pc = y.bindStart y.bank (y.get F.CHURN_STATUS_BINDING) ∧ q.wait = .none) ∧
      (y.st = Byre.stREADY → ∃ s', exec (.tickBoundary b mid) s = .next s' ∧
        let y' := s'.byre b
        y'.tu.cur = tick ∧ y'.ch.plan = none ∧ y'.get F.CHURN_STATUS_PHASE = 1 ∧ y'.st = Byre.stREADY)) ∧
    (Taken s b m R.CHURN_ARM → s.crm.up = true → y.ch.plan = none → y.now < y.nextBoundary →
      (y.verified y.stby = true → (sb = y.lane y.bank 0 0 % 16384 ∨ arm.k = 0) →
        (y.live = true ∨ y.st = Byre.stREADY) → arm.k < sb → y.now < Byre.tickNs sb arm →
        ¬(y.tu.issued = true ∧ Tick.le arm y.tu.cur = true) → ∀ c : Bool, (if c then y.ch.pend = [] else y.ch.arm = none) →
        ByreStep (.epochArm b m c mid) s b fun y' =>
          y'.ch.arm = some arm ∧ y'.flag F.CHURN_STATUS_ARMED = true ∧ y'.rd R.CHURN_CNT_REFUSED_ARM = y.rd R.CHURN_CNT_REFUSED_ARM ∧
          y'.mem = y.mem) ∧
      (y.verified y.stby = false → ByreStep (.epochArm b m false mid) s b fun y' =>
        y'.ch = y.ch ∧ y'.flag F.CHURN_ARM_STATUS_REFUSED = true ∧ y'.get F.CHURN_ARM_STATUS_REFUSE_CODE = 1 ∧
        y'.rd R.CHURN_CNT_REFUSED_ARM = y.rd R.CHURN_CNT_REFUSED_ARM + 1#32) ∧
      (y.verified y.stby = true → (sb = y.lane y.bank 0 0 % 16384 ∨ arm.k = 0) → y.ch.arm.isSome = true →
        ByreStep (.epochArm b m false mid) s b fun y' =>
          y'.ch = y.ch ∧ y'.get F.CHURN_ARM_STATUS_REFUSE_CODE = 3) ∧
      (ByreStep (.epochCancel b m) s b fun y' =>
        y'.ch = { y.ch with arm := none } ∧ y'.flag F.CHURN_STATUS_ARMED = false ∧ y.KeepsRegs y' [R.CHURN_STATUS])) ∧
    (Taken s b m R.CHURN_ARM → s.crm.up = false → ∀ c : Bool, ByreStep (.epochArm b m c mid) s b fun y' => y' = y) ∧
    (Taken s b m R.CHURN_VERIFY → ByreStep (.verifiedStbySet b m) s b fun y' =>
      y'.verified y.stby = true ∧ y'.flag F.CHURN_VERIFY_VERIFIED_STBY = true ∧ y'.bank = y.bank ∧
      y.KeepsRegs y' [R.CHURN_STATUS, R.CHURN_VERIFY] ∧ y.OnlyRegs y') ∧
    (s.on b domFAB = true →
      (s.crm.dbg = true → y.st = Byre.stTEST → Taken s b m R.CHURN_CTRL → y.ch.plan = none → y.now < y.nextBoundary → y.tu.frozenAt = none →
        (ByreStep (.freeze b m true mid) s b fun y' =>
          y'.tu = { y.tu with freezePend := true } ∧ y'.flag F.CHURN_CTRL_FREEZE = true ∧ y.KeepsRegs y' [R.CHURN_CTRL]) ∧
        (ByreStep (.freeze b m false mid) s b fun y' =>
          y'.tu = { y.tu with freezePend := false } ∧ y'.flag F.CHURN_CTRL_FREEZE = false ∧ y.KeepsRegs y' [R.CHURN_CTRL])) ∧
      (s.crm.dbg = false ∨ y.st ≠ Byre.stTEST → Taken s b m R.CHURN_CTRL → ∀ v, CrmStep (.freeze b m v mid) s fun m' =>
        m'.flag F.CRM_BUS_ERR_LOCKED = true)) ∧
    (s.on b domFAB = true → PolicyAtRest s b → y.ch.entryDue = true → y.st = Byre.stFAULTED → (∀ q ∈ y.charge, q.2 ≤ 36) →
      ∃ s', exec (.byreFaultEntry b) s = .next s' ∧
      let y' := s'.byre b
      y'.ch.plan = none ∧ y'.ch.pend = [] ∧ y'.ch.halted = true ∧ y'.ch.entryDue = false ∧ y'.rota.ents = [] ∧
      (∀ (e : Fin 32) (t : Fin 8), (y'.thread e t).released = false ∧ (y'.thread e t).op = none) ∧
      (∀ e : Fin 32, (y'.engine e).on = false) ∧ (∀ n < 16, (y'.chan n).st = 4) ∧ (∀ g < 24, y'.calOf g = []) ∧
      y'.flag F.CHURN_BYRE_OK = false)

/-- How a plan starts and ends.
Conventions of the model used here: assumption log entries 32, 34, 37. -/
def Obligations.PlanLife : Prop := Claims.CommitAndOverrun ∧ Claims.Boundaries

namespace Sys2Proof.Machine

/-- A tanker channel's registers: of the byre for 0 to 15, of the creamery for 16 to 23. -/
def State.tanker (s : State) (b : Fin 6) (n : Fin 24) : Chan := if n.val < 16 then (s.byre b).chan n else s.crm.chan (n - 16)

/-- A write of a tanker register is taken: the byre is neither RUNNING nor DEGRADED, or the creamery's registers are
written by the management processor or JTAG. -/
def TankerTaken (s : State) (b : Fin 6) (m : Master) (n : Fin 24) (off : Nat) : Prop :=
  if n.val < 16 then Taken s b m off ∧ (s.byre b).live = false else (m = .mp ∨ m = .jtag) ∧ s.shut m = false

/-- The command completes, and the channel becomes one of which `P` holds; of the machine only the channel's byre, or the
creamery, changes. -/
def TankerStep (c : Instr) (s : State) (b : Fin 6) (n : Fin 24) (P : Chan → Prop) : Prop :=
  ∃ s', exec c s = .next s' ∧ P (s'.tanker b n) ∧ (∀ b', b' ≠ b → s'.byre b' = s.byre b') ∧
    (16 ≤ n.val → s'.byres = s.byres) ∧ s'.pending = s.pending

/-- The command completes, and the channel becomes one of which `P` holds. -/
def TankerEnd (c : Instr) (s : State) (b : Fin 6) (n : Fin 24) (P : Chan → Prop) : Prop :=
  ∃ s', exec c s = .next s' ∧ P (s'.tanker b n) ∧ s'.pending = s.pending

/-- The live descriptor of a byre channel copies bytes of the vat that the channel owns, with good parity (R297, R298). -/
def VatCopy (y : Byre) (n : Fin 16) : Prop :=
  let d := (y.chan n).desc
  d.sp = 0 ∧ d.dp = 0 ∧ d.sm = 0 ∧ d.dm = 0 ∧ d.rsv = false ∧ d.len ≠ 0 ∧ d.len % 8 = 0 ∧ d.src % 8 = 0 ∧ d.dst % 8 = 0 ∧
    d.src + d.len ≤ 0xC00000 ∧ d.dst + d.len ≤ 0xC00000 ∧
    (∀ a, (d.src ≤ a ∧ a < d.src + d.len ∨ d.dst ≤ a ∧ a < d.dst + d.len) → y.bankOpen (a / 0x40000) (0x10 + n) = true) ∧
    (∀ a, d.src ≤ a → a < d.src + d.len → (y.parCheck 0 a).1 = false) ∧
    ¬(y.flag F.SW_TALLY_CTRL_EN = true ∧ y.get F.SW_TALLY_CTRL_TANKER = n)

end Sys2Proof.Machine

/-- R299, R304: the registers of a tanker channel.  A shadow that is armed takes no load; an arm makes the shadow live at
once where nothing is live and marks it armed otherwise; DISABLE stops the channel and returns what it holds. -/
def Claims.TankerChannels : Prop :=
  ∀ (s : State) (b : Fin 6) (m : Master) (n : Fin 24) (w : Fin 8) (v : Word),
    let c := s.tanker b n
    let k := n.val % 16
    (TankerTaken s b m n (R.TNK_SH k w) → TankerStep (.tnkShadowWrite b m n w v) s b n fun c' =>
      (c.armed = false → c'.sh w = v.toNat ∧ (∀ i < 8, i ≠ w.val → c'.sh i = c.sh i) ∧ c'.st = c.st ∧ c'.armed = false) ∧
      (c.armed = true → (∀ i < 8, c'.sh i = c.sh i) ∧ (c'.rd 0x44).testBit 10 = true ∧ c'.rd 0x94 = (c.rd 0x94 + 1) % 2 ^ 32)) ∧
    (TankerTaken s b m n (R.TNK_CTRL k) →
      (TankerStep (.tnkArm b m n) s b n fun c' =>
        (c.disabled = false → c.armed = false → (c.sh 0).testBit 31 = true → c.held < 3 →
          c'.held = c.held + 1 ∧ c'.rd 0x4C = (c.rd 0x4C + 1) % 2 ^ 32 ∧ c'.st = 1 ∧ (∀ i < 8, c'.sh i = c.sh i) ∧
          (c.st = 1 → c'.armed = true ∧ ∀ i < 8, c'.live i = c.live i) ∧
          (c.st ≠ 1 → c'.armed = false ∧ (∀ i < 7, c'.live i = c.sh i) ∧ c'.live 7 = insBits (c.sh 7) 23 0 0)) ∧
        (c.disabled = true ∨ c.armed = true ∨ (c.sh 0).testBit 31 = false →
          c'.rd 0x94 = (c.rd 0x94 + 1) % 2 ^ 32 ∧ c'.st = c.st ∧ c'.armed = c.armed ∧ (∀ i < 8, c'.live i = c.live i))) ∧
      (c.disabled = false → TankerEnd (.tnkDisable b m n) s b n fun c' =>
        c'.disabled = true ∧ c'.st = 4 ∧ c'.armed = false ∧ c'.held = 0 ∧
        c'.rd 0x50 = (c.rd 0x50 + c.held) % 2 ^ 32 ∧ c'.rd 0x90 = (c.rd 0x90 + c.held) % 2 ^ 32) ∧
      (c.disabled = true → n.val < 16 → TankerStep (.tnkDisable b m n) s b n fun c' => ∀ o, c'.rd o = c.rd o) ∧
      (TankerStep (.tnkDisableClear b m n) s b n fun c' =>
        c'.disabled = false ∧ c'.st = (if c.disabled = true ∧ c.st = 4 ∨ 16 ≤ n.val ∧ c.st = 4 then 0 else c.st))) ∧
    (n.val < 16 → Taken s b m (R.TNK_CTRL k) → (s.byre b).live = true →
      ∀ i ∈ [Instr.tnkArm b m n, .tnkDisable b m n, .tnkDisableClear b m n], ∃ s', exec i s = .next s' ∧
        (∀ o, (s'.tanker b n).rd o = c.rd o) ∧ (i = .tnkArm b m n → s'.crm.flag F.CRM_BUS_ERR_LOCKED = true)) ∧
    ((n.val < 16 → Taken s b m (R.TNK_CTRL k)) → (16 ≤ n.val → (m = .mp ∨ m = .jtag) ∧ s.shut m = false) →
      (c.st ≠ 2 → TankerStep (.tnkDoorbell b m n) s b n fun c' => ∀ o, c'.rd o = c.rd o) ∧
      (c.st ≠ 1 → ∀ cells host, TankerStep (.tnkAbort b m n cells host) s b n fun c' =>
        (c'.rd 0x44).testBit 8 = true ∧ c'.st = c.st ∧ ∀ o, o ≠ 0x44 → c'.rd o = c.rd o))

/-- R297, R298, R300, R301, R303, R425: a descriptor between memories that is carried out moves its bytes, writes DONE, CODE
and COUNT, and the channel stops at END; an abort stops it with the bytes moved so far; a doorbell goes on with the
descriptor that has been appended.  How many cells an abort finds moved is the command's operand (the model's choice, log
entry 40). -/
def Claims.TankerTransfers : Prop :=
  ∀ (s : State) (b : Fin 6) (m : Master) (n : Fin 16) (dt cells : Nat) (host : List Byte),
    let y := s.byre b
    let ch : Fin 24 := ⟨n.val, by omega⟩
    let c := y.chan n
    let d := c.desc
    let copied := fun (y' : Byre) (len : Nat) => ∀ a, Mem.ldb y'.mem a =
      if d.dst ≤ a ∧ a < d.dst + len then Mem.ldb y.mem (d.src + (a - d.dst)) else Mem.ldb y.mem a
    (s.on b domFAB = true → c.st = 1 → VatCopy y n → c.liveAt = 0 → c.armed = false → (c.live 6).testBit 0 = true →
      1 ≤ c.held → ByreStep (.descriptorComplete b ch dt host) s b fun y' =>
        let c' := y'.chan n
        copied y' d.len ∧ c'.live 7 = 2 ^ 31 + d.len ∧ c'.st = 2 ∧ c'.held = c.held - 1 ∧
        c'.rd 0x80 = (c.rd 0x80 + 1) % 2 ^ 32 ∧ (c'.rd 0x44).testBit 9 = true ∧ y'.scratch = y.scratch) ∧
    (Taken s b m (R.TNK_CTRL n) → c.st = 1 → VatCopy y n → c.liveAt = 0 → c.armed = false →
      1 ≤ c.held → ByreStep (.tnkAbort b m ch cells host) s b fun y' =>
        let c' := y'.chan n
        let len := min (64 * cells) d.len
        copied y' len ∧ c'.live 7 = 2 ^ 31 + 4 * 2 ^ 24 + len ∧ c'.st = 3 ∧ c'.held = c.held - 1 ∧
        c'.rd 0x88 = (c.rd 0x88 + 1) % 2 ^ 32) ∧
    (∀ (l a : Nat), Taken s b m (R.TNK_CTRL n) → c.st = 2 → c.rd 0x48 = l → y.descOpen n l = true →
      y.ldw (l + 24) % 2 = 0 → a = y.ldw (l + 24) / 8 % 2 ^ 21 * 8 → y.descOpen n a = true →
      (∀ i < 8, (y.parCheck 0 (a + 4 * i)).1 = false) → (y.ldw a).testBit 31 = true → c.held < 3 →
      ByreStep (.tnkDoorbell b m ch) s b fun y' =>
        let c' := y'.chan n
        c'.st = 1 ∧ c'.held = c.held + 1 ∧ c'.liveAt = a + 1 ∧ (∀ i < 7, c'.live i = y.ldw (a + 4 * i)) ∧ c'.live 7 = insBits (y.ldw (a + 28)) 23 0 0 ∧ y'.mem = y.mem) ∧
    (∀ k : Fin 8, let q := s.crm.chan k
      let e := q.desc
      s.crm.tnkBad k false = false → q.st = 1 → q.liveAt = 0 → q.armed = false → (q.live 6).testBit 0 = true → 1 ≤ q.held → e.evt = false → e.rsv = false →
      e.sp = 1 → e.dp = 1 → e.sm = 0 → e.dm = 0 → e.len ≠ 0 → e.len % 8 = 0 → e.src % 8 = 0 → e.dst % 8 = 0 →
      e.src + e.len ≤ 0x400000 → e.dst + e.len ≤ 0x400000 →
      CrmStep (.descriptorComplete b ⟨16 + k.val, by omega⟩ dt host) s fun m' =>
        (∀ a, Mem.ldb m'.mem a = if 0x400000 + e.dst ≤ a ∧ a < 0x400000 + e.dst + e.len
          then Mem.ldb s.crm.mem (e.src + (a - e.dst)) else Mem.ldb s.crm.mem a) ∧
        (m'.chan k).live 7 = 2 ^ 31 + e.len ∧ (m'.chan k).st = 2)

/-- The tanker channels and their transfers.
Conventions of the model used here: assumption log entries 40, 58. -/
def Obligations.Tankers : Prop := Claims.TankerChannels ∧ Claims.TankerTransfers

namespace Sys2Proof.Machine

/-- No port has a frame on its line, so the passing of time ends no transmission. -/
def LinesQuiet (y : Byre) : Prop := ∀ p < 24, (y.lineAt p).tx = none

end Sys2Proof.Machine

/-- R318, R319, R331, R341: a write of RES_W1 stages the thread's result, or answers why not and changes nothing else; a
write of SUB_SEL latches the state of a subscription; a write of CAP_HEAD removes the head capture.
Conventions of the model used here: assumption log entry 62. -/
def Obligations.ResultStaging : Prop :=
  ∀ (s : State) (b : Fin 6) (e : Fin 32) (t : Fin 8) (w1 n : Word),
    let y := s.byre b
    let th := y.thread e t
    let w0 := th.resW0.toNat
    let slot := th.resSlot.toNat
    let kind := w0 % 4
    let len := w0 / 2 ^ 16 % 2 ^ 12
    let pail := w1.toNat % 2 ^ 24
    let legal := w0 / 2 ^ 3 % 2 ^ 5 = 0 ∧ w0 / 2 ^ 28 = 0 ∧ w1.toNat / 2 ^ 24 = 0 ∧
      (kind < 2 → pail = 0) ∧ (kind = 2 → 14 ≤ len ∧ len ≤ 2044) ∧ (kind = 3 → 1 ≤ len ∧ len ≤ 1724)
    let held := (y.pailPool pail).isSome = true ∧ y.pailUsed pail = true
    let only := fun y' : Byre => ∀ (e' : Fin 32) (t' : Fin 8), (e', t') ≠ (e, t) → y'.thread e' t' = y.thread e' t'
    let answers := fun (c : Word) => ByreStep (.resultStage b e t w1) s b fun y' =>
      y'.thread e t = { th with resStat := c } ∧ only y' ∧ { y' with thr := y.thr } = y
    s.engOn b e = true →
    (th.op = none → answers 1#32) ∧
    (∀ o, th.op = some o →
      (o.ent.cls = 2 → answers 1#32) ∧
      (o.ent.cls ≠ 2 →
        (1023 < slot → answers 2#32) ∧ (slot ≤ 1023 → ¬legal → answers 3#32) ∧
        (slot ≤ 1023 → legal → 2 ≤ kind → ¬held → answers 4#32) ∧
        (slot ≤ 1023 → legal → (2 ≤ kind → held) → ByreStep (.resultStage b e t w1) s b fun y' =>
          y'.thread e t = { th with resStat := 0#32 } ∧ only y' ∧
          y'.staged = y.staged ++
            [⟨slot, ⟨kind, w0.testBit 2, w0 / 2 ^ 8 % 2 ^ 8, len, pail⟩, o.ent.seq, o.ent.id, o.ent.tick, none⟩] ∧
          { y' with thr := y.thr, staged := y.staged } = y))) ∧
    (n.toNat ≤ 2047 → (y.parCheck spSub n.toNat).1 = false → ByreStep (.subSelLatch b e t n) s b fun y' =>
      let u := y.subState n.toNat
      y'.thread e t = { th with subState := BitVec.ofNat 32 (u.st + 16 * u.verdict), subSt := BitVec.ofNat 32 u.stNum,
                                subSq := BitVec.ofNat 32 u.sqNum } ∧ only y' ∧ { y' with thr := y.thr } = y) ∧
    (2047 < n.toNat → ByreStep (.subSelLatch b e t n) s b fun y' =>
      y'.thread e t = { th with subState := 0#32, subSt := 0#32, subSq := 0#32 } ∧ only y' ∧ { y' with thr := y.thr } = y) ∧
    (ByreStep (.captureHeadRemove b e) s b fun y' => y'.caps = y.caps.tail ∧ { y' with caps := y.caps } = y)

/-- R110, R326, R327, R329, R330: a port launches the head of its calendar so that the timestamp point passes at the
entry's instant, and counts an entry of a port that is down; an output pin takes the level of its head entry, which starts
or stops the pulse timer; the timer's end returns the pin to SAFE; and an accepted change of an input pin shows in LEVEL and
is captured within 10 ns where its edge is enabled.
Conventions of the model used here: assumption log entry 63. -/
def Obligations.LaunchesAndPins : Prop :=
  ∀ (s : State) (b : Fin 6) (p : Fin 24) (m : Fin 16) (dt : Nat) (rise : Bool),
    let y := s.byre b
    let level := F.CAL_PIN_STATUS_LEVEL m
    let safe := y.flag (F.CAL_PIN_CFG_SAFE m)
    s.on b domFAB = true → y.tu.stopped = false →
    (∀ c rest, y.calOf p = c :: rest → ByreStep (.portCalendarLaunch b p) s b fun y' => y'.calOf p = rest) ∧
    (∀ c rest, y.calOf p = c :: rest → (y.parCheck spCal p).1 = false →
      (y.portUp p = false → ByreStep (.portCalendarLaunch b p) s b fun y' =>
        y'.calOf p = rest ∧ y'.line = y.line ∧ y'.sent = y.sent) ∧
      (let lead := y.lineNs p 8
       let bs := y.vatRead (c.pail + c.off) c.len
       y.portUp p = true → y.pairOf p = none → LinesQuiet y → c.late = false → lead ≤ c.l → c.l < 2 ^ 48 * 1000000000 →
       y.now + lead ≤ c.l → c.ready + lead ≤ c.l → (y.lineAt p).free + lead ≤ c.l →
       (y.anyParity (Byre.pailWords c.pail c.off c.len)).1 = false →
       ByreStep (.portCalendarLaunch b p) s b fun y' =>
         y'.calOf p = rest ∧ ((y'.lineAt p).tx.map fun x => (x.pail, x.off, x.len)) = some (c.pail, c.off, c.len) ∧
         (y'.lineAt p).bytes = bs ++ List.replicate (60 - bs.length) 0#8 ∧
         c.l ≤ (y'.lineAt p).start + 4 ∧ (y'.lineAt p).start ≤ c.l + 4 ∧
         y'.now = c.l - lead ∧ y'.mem = y.mem)) ∧
    (∀ c rest, y.calOf (32 + m) = c :: rest → (y.parCheck spCal (32 + m)).1 = false →
      ByreStep (.pinCalendarLaunch b m) s b fun y' =>
        y'.calOf (32 + m) = rest ∧
        (y.get (F.CAL_PIN_CFG_MODE m) ≠ 2 → y'.flag level = y.flag level) ∧
        (y.get (F.CAL_PIN_CFG_MODE m) = 2 → y'.flag level = c.level ∧ y'.flag (F.CAL_PIN_STATUS_DRIVEN m) = true ∧
          (y'.flag (F.CAL_PIN_STATUS_PULSE m) = true ↔ c.level ≠ safe ∧ y.get (F.CAL_PIN_CFG_PULSE_US m) ≠ 0) ∧
          (c.level = safe → SMap.get (fun _ => 0) y'.pinEnd m = 0))) ∧
    (∀ at_, SMap.get (fun _ => 0) y.pinEnd m = at_ + 1 → ByreStep (.pinPulseExpiry b m) s b fun y' =>
      y'.flag level = safe ∧ y'.flag (F.CAL_PIN_STATUS_PULSE m) = false ∧ SMap.get (fun _ => 0) y'.pinEnd m = 0 ∧
      y.KeepsRegs y' [level.off]) ∧
    (let z := y.advance dt
     let edge := y.flag (if rise then F.CAL_PIN_CFG_RISE m else F.CAL_PIN_CFG_FALL m)
     let first := 8 * y.get (F.CAL_PIN_FILT_FILT m)
     (y.get (F.CAL_PIN_CFG_MODE m) ≠ 1 ∨ y.flag level = rise → ByreStep (.pinEdgeCapture b m dt rise) s b fun y' => y' = z) ∧
     (y.get (F.CAL_PIN_CFG_MODE m) = 1 → y.flag level ≠ rise →
       (edge = false → ByreStep (.pinEdgeCapture b m dt rise) s b fun y' =>
         y'.flag level = rise ∧ y'.caps = y.caps ∧ y.KeepsRegs y' [level.off]) ∧
       (edge = true → y.caps.length < 64 → (y.parCheck spQueue 25).1 = false → first ≤ z.now →
         (10 : Int) ≤ ((z.now - first : Nat) : Int) - y.pinDly m → ByreStep (.pinEdgeCapture b m dt rise) s b fun y' =>
           y'.flag level = rise ∧ y'.caps.length = y.caps.length + 1 ∧
           ∃ at_ : Nat, (m.val, rise, at_) ∈ y'.caps ∧
             ((z.now - first : Nat) : Int) - y.pinDly m - 10 ≤ at_ ∧ (at_ : Int) ≤ ((z.now - first : Nat) : Int) - y.pinDly m + 10) ∧
       (edge = true → 64 ≤ y.caps.length → (y.parCheck spQueue 25).1 = false → ByreStep (.pinEdgeCapture b m dt rise) s b fun y' =>
         y'.flag level = rise ∧ y'.caps = y.caps ∧ y'.rd R.CAL_CNT_CAP_DROP = y.rd R.CAL_CNT_CAP_DROP + 1#32)))

/-- R337: at each retransmission sqNum and the interval go on as R336 and R337 say, whether or not the frame can be
sent; the timers of a publication without a state and of a subscription that is not LIVE do nothing. -/
def Claims.GooseTimers : Prop :=
  ∀ (s : State) (b : Fin 6) (n : BitVec 8) (k : BitVec 11),
    let y := s.byre b
    let w := fun i => y.pubWord y.bank n.toNat i
    s.on b domFAB = true → y.tu.stopped = false →
    (y.pubState n.toNat = none ∨ Byre.runs y.st = false ∨ (∃ u, y.pubState n.toNat = some u ∧ u.stopped = true) → ByreStep (.gooseRetransmit b n) s b fun y' => y' = y) ∧
    (∀ u, y.pubState n.toNat = some u → u.stopped = false → Byre.runs y.st = true → LinesQuiet y → y.retxq = [] → ByreStep (.gooseRetransmit b n) s b fun y' =>
      let ival := min (w 8 / 2 ^ 16 % 16 * u.ival) (w 9 % 65536 * 1000000)
      y'.pubState n.toNat = some { u with sqNum := if u.sqNum = 2 ^ 32 - 1 then 1 else u.sqNum + 1, ival := ival, next := u.next + ival } ∧
      (∀ i, i ≠ n.toNat → y'.pubState i = y.pubState i) ∧
      (y.pubSending u.pail = true →
        y'.rd R.CAL_CNT_PUB_RETX_SKIP = y.rd R.CAL_CNT_PUB_RETX_SKIP + 1#32 ∧ y'.inq = y.inq ∧ y'.mem = y.mem ∧
        y.KeepsRegs y' [R.CAL_CNT_PUB_RETX_SKIP]) ∧
      (y.pubSending u.pail = false → y.inLen 24 < 64 → y'.rd R.CAL_CNT_PUB_RETX = y.rd R.CAL_CNT_PUB_RETX + 1#32 ∧
        y'.rd R.CAL_CNT_PUB_RETX_SKIP = y.rd R.CAL_CNT_PUB_RETX_SKIP ∧ y'.retxq = []) ∧
      (y.pubSending u.pail = false → 64 ≤ y.inLen 24 → y'.regs = y.regs ∧ ∃ f, y'.retxq = [(n.toNat, f)] ∧ f.pail = u.pail)) ∧
    (∀ u f, y.pubState n.toNat = some u → u.stopped = false → Byre.runs y.st = true → LinesQuiet y → y.retxq = [(n.toNat, f)] →
      64 ≤ y.inLen 24 → y.pubSending u.pail = false → ByreStep (.gooseRetransmit b n) s b fun y' =>
        y'.rd R.CAL_CNT_PUB_RETX_SKIP = y.rd R.CAL_CNT_PUB_RETX_SKIP + 1#32 ∧ y'.inq = y.inq ∧ y'.retxq.length = 1) ∧
    ((y.subState k.toNat).st ≠ 1 → ByreStep (.subExpiry b k) s b fun y' => y' = y)

/-- R340: a LIVE subscription becomes EXPIRED, and CNT_SUB_EXPIRED counts it, when the byre's time passes the deadline. -/
def Claims.SubscriptionExpiry : Prop :=
  ∀ (s : State) (b : Fin 6) (k : BitVec 11),
    let y := s.byre b
    let u := y.subState k.toNat
    s.on b domFAB = true → y.tu.stopped = false → u.st = 1 → u.deadline < 2 ^ 48 * 1000000000 - 1 → ByreStep (.subExpiry b k) s b fun y' =>
      u.deadline < y'.now ∧ y'.subState k.toNat = { u with st := 2 } ∧ (∀ i, i ≠ k.toNat → y'.subState i = y.subState i) ∧
      y'.rd R.CAL_CNT_SUB_EXPIRED = y.rd R.CAL_CNT_SUB_EXPIRED + 1#32 ∧ y.KeepsRegs y' [R.CAL_CNT_SUB_EXPIRED] ∧
      ((y.subWord y.bank k.toNat 0).testBit 29 = true → y.evq.length < 64 → y'.evq.length = y.evq.length + 1)

/-- R83, R333, R339: the commands of the publication and subscription tables.  An entry without a reserved bit or encoding
enters the standby bank and clears its VERIFIED; one with them answers 0x5; the live bank of a RUNNING or DEGRADED byre
answers 0x1; reads show entry and state in the data registers. -/
def Claims.GooseTables : Prop :=
  ∀ (s : State) (b : Fin 6) (m : Master) (bank : Bool) (n : BitVec 8) (k : BitVec 11),
    let y := s.byre b
    let bk := if bank then 1 else 0
    let pw := fun i => y.rdN (R.CAL_PUB_DATA i)
    let sw := fun i => y.rdN (R.CAL_SUB_DATA i)
    (Taken s b m R.CAL_PUB_CMD →
      (ByreStep (.pubEntryRead b m bank n) s b fun y' =>
        (∀ i < 64, y'.rdN (R.CAL_PUB_DATA i) = y.pubWord bk n.toNat i) ∧ y'.get F.CAL_PUB_STATUS_RESULT = 0 ∧ y.OnlyRegs y') ∧
      (∀ u, y.pubState n.toNat = some u → u.stNum < 2 ^ 32 → u.sqNum < 2 ^ 32 → u.pail < 2 ^ 24 →
        ByreStep (.pubStateRead b m bank n) s b fun y' =>
          y'.rdN (R.CAL_PUB_DATA 0) = u.stNum ∧ y'.rdN (R.CAL_PUB_DATA 1) = u.sqNum ∧ y'.rdN (R.CAL_PUB_DATA 2) = u.pail ∧
          y'.rdN (R.CAL_PUB_DATA 3) = u.next / 1000000000 % 2 ^ 32 ∧ y'.rdN (R.CAL_PUB_DATA 4) = u.next % 1000000000 ∧
          y'.get F.CAL_PUB_STATUS_RESULT = 0 ∧ y.OnlyRegs y') ∧
      (¬(y.live = true ∧ bk = y.bank) → ByreStep (.pubEntryWrite b m bank n) s b fun y' =>
        (Byre.pubOk ((pw 0).testBit 31) pw = true →
          (∀ i < 64, y'.pubWord bk n.toNat i = pw i) ∧ y'.get F.CAL_PUB_STATUS_RESULT = 0 ∧ y'.verified bk = false) ∧
        (Byre.pubOk ((pw 0).testBit 31) pw = false → y'.pubTab = y.pubTab ∧ y'.get F.CAL_PUB_STATUS_RESULT = 5)) ∧
      (y.live = true → bk = y.bank → ∃ s', exec (.pubEntryWrite b m bank n) s = .next s' ∧
        (s'.byre b).pubTab = y.pubTab ∧ (s'.byre b).get F.CAL_PUB_STATUS_RESULT = 1)) ∧
    (Taken s b m R.CAL_SUB_CMD →
      (ByreStep (.subEntryRead b m bank k) s b fun y' =>
        y'.rdN (R.CAL_SUB_DATA 0) = y.subWord bk k.toNat 0 ∧ y'.rdN (R.CAL_SUB_DATA 1) = y.subWord bk k.toNat 1 ∧
        y'.get F.CAL_SUB_STATUS_RESULT = 0 ∧ y.OnlyRegs y') ∧
      (let u := y.subState k.toNat
       u.st < 4 → u.verdict < 16 → u.stNum < 2 ^ 32 → u.sqNum < 2 ^ 32 → ByreStep (.subStateRead b m bank k) s b fun y' =>
        y'.rdN (R.CAL_SUB_DATA 0) = u.st + 16 * u.verdict ∧ y'.rdN (R.CAL_SUB_DATA 1) = u.stNum ∧
        y'.rdN (R.CAL_SUB_DATA 2) = u.sqNum ∧ y'.get F.CAL_SUB_STATUS_RESULT = 0 ∧ y.OnlyRegs y') ∧
      (¬(y.live = true ∧ bk = y.bank) → ByreStep (.subEntryWrite b m bank k) s b fun y' =>
        (sw 0 % 2 ^ 29 = 0 → sw 2 = 0 → sw 3 = 0 →
          y'.subWord bk k.toNat 0 = sw 0 ∧ y'.subWord bk k.toNat 1 = sw 1 ∧ y'.get F.CAL_SUB_STATUS_RESULT = 0 ∧
          y'.verified bk = false ∧ (∀ i, i ≠ k.toNat ∨ bk ≠ y.bank → y'.subState i = y.subState i) ∧
          (bk = y.bank → y.subKeeps (y.subWord bk k.toNat) bk k.toNat = false → (y'.subState k.toNat).st = 0)) ∧
        (sw 0 % 2 ^ 29 ≠ 0 ∨ sw 2 ≠ 0 ∨ sw 3 ≠ 0 → y'.subTab = y.subTab ∧ y'.get F.CAL_SUB_STATUS_RESULT = 5)) ∧
      (y.live = true → bk = y.bank → ∃ s', exec (.subEntryWrite b m bank k) s = .next s' ∧
        (s'.byre b).subTab = y.subTab ∧ (s'.byre b).get F.CAL_SUB_STATUS_RESULT = 1))

/-- GOOSE: the timers, the expiry of subscriptions, and the tables.
Conventions of the model used here: assumption log entry 64. -/
def Obligations.GooseState : Prop := Claims.GooseTimers ∧ Claims.SubscriptionExpiry ∧ Claims.GooseTables

namespace Sys2Proof.Machine

/-- No cell is on its way through the switch core: every copy in it has left its resequencer whole (R104). -/
def CoreIdle (y : Byre) : Prop := ∀ c ∈ y.copies, c.got = c.cells

end Sys2Proof.Machine

/-- R34, R95, R96: a frame that fails a check of R95 counts in the counter of the first check it fails and goes nowhere; one
that passes them lies in the pail that the allocation gives and joins the input queue with its ingress stamp; and a full
queue drops and counts it. -/
def Claims.FrameReception : Prop :=
  ∀ (s : State) (b : Fin 6) (p : Fin 22) (dt : Nat) (bytes : List Byte) (good : Bool),
    let y := (s.byre b).advance dt
    let n := bytes.length + 4
    let big := y.get (F.SW_PORT_CTRL_MAX_FRAME p)
    let c := Instr.frameReceive b p dt bytes good
    let counts := fun (r : Nat) => ByreStep c s b fun y' =>
      y'.rd r = y.rd r + 1#32 ∧ y.KeepsRegs y' [r, R.SW_CNT_TALLY_DROP] ∧ y'.inq = y.inq ∧ y'.mem = y.mem ∧ y'.charge = y.charge
    s.on b (portDom p) = true → s.on b domFAB = true →
    (y.portUp p = false → ByreStep c s b fun y' => y' = y) ∧
    (y.portUp p = true → CoreIdle y → (y.parCheck spQueue p).1 = false →
      (n < 64 → counts (R.SW_PORT_CNT_RX_RUNT p)) ∧
      (64 ≤ n → big < n → counts (R.SW_PORT_CNT_RX_OVERSIZE p)) ∧
      (64 ≤ n → n ≤ big → good = false → counts (R.SW_PORT_CNT_RX_FCS p)) ∧
      (64 ≤ n → n ≤ big → good = true → (l2 bytes).et = 0x8808 → counts (R.SW_PORT_CNT_RX_PAUSE p)) ∧
      (64 ≤ n → n ≤ big → good = true → (l2 bytes).et ≠ 0x8808 → ∀ off, (y.alloc p bytes.length).1 = some off →
        (y.inLen p < y.inDepth p → ByreStep c s b fun y' =>
          y'.rd (R.SW_PORT_CNT_RX_FRAMES p) = y.rd (R.SW_PORT_CNT_RX_FRAMES p) + 1#32 ∧
          y'.vatRead off bytes.length = bytes ∧
          ∃ f : Frame, y'.inq = y.inq ++ [f] ∧ f.pail = off ∧ f.len = bytes.length ∧ f.input = p ∧ f.stage = 0 ∧ f.dead = false ∧
            (let ago := n * y.byteTime p / 10
             let first : Int := ((y.now - ago : Nat) : Int) - y.boardDelay (R.TIME_ING_DLY p) (y.tu.clk - ago)
             4 ≤ first → first - 4 ≤ f.stamp ∧ (f.stamp : Int) ≤ first + 4)) ∧
        (y.inDepth p ≤ y.inLen p → ByreStep c s b fun y' =>
          y'.rd (R.SW_PORT_CNT_RX_INQ p) = y.rd (R.SW_PORT_CNT_RX_INQ p) + 1#32 ∧ y'.inq = y.inq)))

/-- R94, R98, R99: a port comes up when lock, negotiation and line have held for UP_MS while ADMIN_UP and LINE allow it; it goes down
where a condition has been lost for DOWN_US, and then DOWN_EVT is set, its queues are empty, its line is silent and the transmission
cut short has counted; anything else changes its status alone. -/
def Claims.PortLinks : Prop :=
  ∀ (s : State) (b : Fin 6) (p : Fin 24) (dt held : Nat) (speed : BitVec 2) (why : BitVec 3) (part : Bool),
    let y := (s.byre b).advance dt
    let admin := y.flag (F.SW_PORT_CTRL_ADMIN_UP p)
    let line := y.get (F.SW_PORT_CTRL_LINE p)
    let aneg := y.flag (F.SW_PORT_CTRL_ANEG_EN p)
    let up := Instr.portUp b p ⟨dt, held⟩ speed
    let down := Instr.portDown b p ⟨dt, held⟩ why part
    let long := y.get F.SW_LINK_TIMING_DOWN_US * 1000 ≤ held
    let negotiates := aneg = true ∧ (line = 1 ∨ line = 2)
    let ends := (why = 0#3 ∧ admin = false) ∨ (long ∧ (why = 1#3 ∨ ((why = 2#3 ∨ why = 5#3) ∧ negotiates) ∨
      ((why = 3#3 ∨ why = 4#3) ∧ line = 4)))
    s.on b (portDom p) = true → s.on b domFAB = true →
    (admin = false ∨ line = 0 ∨ y.portUp p = true → ByreStep up s b fun y' => y' = y) ∧
    (admin = true → line ≠ 0 → y.portUp p = false →
      (held < y.get F.SW_LINK_TIMING_UP_MS * 1000000 → ByreStep up s b fun y' =>
        y'.portUp p = false ∧ y'.flag (F.SW_PORT_STATUS_PCS_LOCK p) = true ∧ y.KeepsRegs y' [R.SW_PORT_STATUS p]) ∧
      (y.get F.SW_LINK_TIMING_UP_MS * 1000000 ≤ held → ByreStep up s b fun y' =>
        y'.portUp p = true ∧ y'.flag (F.SW_PORT_STATUS_PCS_LOCK p) = true ∧
        (y'.flag (F.SW_PORT_STATUS_ANEG_DONE p) = true ↔ negotiates) ∧
        (line = 1 → y'.byteTime p = 80) ∧ (line = 3 → y'.byteTime p = 800) ∧ (4 ≤ line → y'.byteTime p = 8) ∧
        (line = 2 → y'.get (F.SW_PORT_STATUS_SPEED p) =
          if aneg = true then min speed.toNat 2 else y.get (F.SW_PORT_CTRL_FORCE_SPEED p)) ∧
        (p.val < 22 → y.KeepsRegs y' [R.SW_PORT_STATUS p]) ∧
        (∀ l : Fin 2, p.val = 22 + l → y'.get (F.TUG_LINK_STATUS_STATE l) = 1))) ∧
    (why.toNat < 7 → ¬ends → ByreStep down s b fun y' =>
      y'.portUp p = y.portUp p ∧ (why = 4#3 → y'.flag (F.SW_PORT_STATUS_REMOTE_FAULT p) = true) ∧
      (why = 6#3 → y'.flag (F.SW_PORT_STATUS_REMOTE_FAULT p) = false) ∧ y.KeepsRegs y' [R.SW_PORT_STATUS p] ∧
      { y' with regs := y.regs } = y) ∧
    (ends → y.portUp p = true → ByreStep down s b fun y' =>
      y'.portUp p = false ∧ y'.flag (F.SW_PORT_STATUS_DOWN_EVT p) = true ∧
      y'.rd (R.SW_PORT_CNT_LINK_DOWN p) = y.rd (R.SW_PORT_CNT_LINK_DOWN p) + 1#32 ∧
      (why = 5#3 → y'.flag (F.SW_PORT_STATUS_ANEG_FAIL p) = true) ∧
      (∀ q < 8, y'.outQ p q = []) ∧ (y'.lineAt p).tx = none ∧
      (∀ p' : Fin 24, p' ≠ p → ∀ q < 8, y'.outQ p' q = y.outQ p' q) ∧
      (∀ tx, (y.lineAt p).tx = some tx → y.now < (y.lineAt p).fin →
        y'.rd (R.SW_PORT_CNT_TX_ABORT p) = y.rd (R.SW_PORT_CNT_TX_ABORT p) + 1#32) ∧
      (part = true → y'.rd (R.SW_PORT_CNT_RX_FCS p) = y.rd (R.SW_PORT_CNT_RX_FCS p) + 1#32))

/-- Frames received, and the links of the ports. -/
def Obligations.Reception : Prop := Claims.FrameReception ∧ Claims.PortLinks

/-- R105, R109, R110, R433: a port with a free line and no calendar entry near sends the head of its highest queue; a copy
whose cells have all left the core joins its priority queue, is flushed where the port is down, and leaves through output 27
to the host's queue of 64; and a write of TOTAL moves FREE by the difference. -/
def Claims.SwitchOutputs : Prop :=
  ∀ (s : State) (b : Fin 6) (m : Master) (p : Fin 22) (i o : Fin 28) (k : Fin 32) (dt : Nat) (v : BitVec 11),
    let y := s.byre b
    let z := y.advance dt
    s.on b domFAB = true →
    (s.on b (portDom p) = true → LinesQuiet y →
      (z.portUp p = false ∨ z.now < (z.lineAt p).free ∨ z.guarded p = true ∨ (∀ q < 8, z.outQ p q = []) →
        ByreStep (.priorityFrameTransmit b p dt) s b fun y' => y' = z) ∧
      (z.portUp p = true → (z.lineAt p).free ≤ z.now → z.guarded p = false → ∀ (q : Fin 8) tx rest, z.outQ p q = tx :: rest →
        (∀ q' : Fin 8, q < q' → z.outQ p q' = []) → (z.anyParity (Byre.pailWords tx.pail tx.off tx.len)).1 = false →
        let bs := z.vatRead (tx.pail + tx.off) tx.len
        ByreStep (.priorityFrameTransmit b p dt) s b fun y' =>
          y'.outQ p q = rest ∧ (∀ q' : Fin 8, q' ≠ q → y'.outQ p q' = y.outQ p q') ∧ (y'.lineAt p).tx = some tx ∧
          (y'.lineAt p).bytes = bs ++ List.replicate (60 - bs.length) 0#8 ∧
          z.now + z.lineNs p 8 ≤ (y'.lineAt p).start + 4 ∧ (y'.lineAt p).start ≤ z.now + z.lineNs p 8 + 4 ∧
          y'.mem = y.mem)) ∧
    (CoreIdle y → y.retxq = [] →
      ((y.copies.find? fun c => c.out == o.val && c.fr.input == i.val) = none →
        ByreStep (.switchFrameDelivery b i o) s b fun y' => y'.copies = y.copies ∧ y'.regs = y.regs ∧ y'.mem = y.mem) ∧
      (∀ c, (y.copies.find? fun c => c.out == o.val && c.fr.input == i.val) = some c → (∀ d ∈ y.copies, d.id = c.id → d = c) →
        c.mode = 0 →
        (o.val < 24 → c.lost = 1 → ByreStep (.switchFrameDelivery b i o) s b fun y' =>
          y'.copies = y.copies.filter (fun d => d.id != c.id) ∧ y'.outq = y.outq ∧ y.KeepsRegs y' [R.SW_CNT_TALLY_DROP]) ∧
        (o.val < 24 → c.lost = 0 → y.portUp o = false → ByreStep (.switchFrameDelivery b i o) s b fun y' =>
          y'.rd (R.SW_PORT_CNT_TX_FLUSH o) = y.rd (R.SW_PORT_CNT_TX_FLUSH o) + 1#32 ∧ y'.outq = y.outq) ∧
        (let q := c.fr.act0 / 2 ^ 8 % 8
         o.val < 22 → c.lost = 0 → y.portUp o = true →
          ((y.outQ o q).length < y.qDepth o q → ∀ off, (y.alloc o c.data.length).1 = some off →
            ByreStep (.switchFrameDelivery b i o) s b fun y' =>
              ∃ tx, y'.outQ o q = y.outQ o q ++ [tx] ∧ tx.pail = off ∧ tx.off = 0 ∧ tx.len = c.data.length ∧ tx.input = i.val) ∧
          (y.qDepth o q ≤ (y.outQ o q).length → ByreStep (.switchFrameDelivery b i o) s b fun y' =>
            y'.rd (R.SW_PORT_CNT_TX_QDROP o q) = y.rd (R.SW_PORT_CNT_TX_QDROP o q) + 1#32 ∧ y'.outq = y.outq)) ∧
        (o.val = 27 → c.lost = 0 → (SMap.get (fun _ => []) s.crm.hostRx b).length < 64 →
          ∃ s', exec (.switchFrameDelivery b i o) s = .next s' ∧
            SMap.get (fun _ => []) s'.crm.hostRx b = SMap.get (fun _ => []) s.crm.hostRx b ++ [(c.fr.stamp, c.data)]))) ∧
    (Taken s b m (R.SW_CREDIT k) →
      let total := F.SW_CREDIT_TOTAL k
      let free := F.SW_CREDIT_FREE k
      let legal := ((List.range 32).map fun j => if j = k.val then v.toNat else y.get (F.SW_CREDIT_TOTAL j)).sum ≤ 8192 ∧
        (if k.val < 28 then 32 ≤ v.toNat ∧ v.toNat ≤ 1024 else v = 0#11)
      let owes := SMap.get (fun _ => 0) y.deficit k
      (legal → y.get free + v.toNat < 2 ^ 11 → ByreStep (.creditTotalWrite b m k v) s b fun y' =>
        y'.get total = v.toNat ∧
        y'.get free = y.get free + v.toNat - (y.get total + owes) ∧
        SMap.get (fun _ => 0) y'.deficit k = y.get total + owes - (y.get free + v.toNat)) ∧
      (¬legal → ByreStep (.creditTotalWrite b m k v) s b fun y' =>
        y'.rd (R.SW_CREDIT k) = y.rd (R.SW_CREDIT k) ∧ y'.rd R.SW_RSV_FLAG = 1#32 ∧ y.OnlyRegs y'))

/-- R123: a waiting record goes into the slot at WR and WR moves on; a full ring drops the record, or in overwrite mode loses
its oldest; and a thread's advance moves RD. -/
def Claims.TallyRing : Prop :=
  ∀ (s : State) (b : Fin 6) (e : Fin 32) (v : Word),
    let y := s.byre b
    let size := 2 ^ y.get F.SW_TALLY_CTRL_SIZE_LOG2
    let w := y.get F.SW_TALLY_WR_WR
    let r := y.get F.SW_TALLY_RD_RD
    let c := Instr.tallyRecordWrite b
    let over_ := y.flag F.SW_TALLY_CTRL_MODE
    y.get F.SW_TALLY_CTRL_SIZE_LOG2 ≤ 24 →
    (s.on b domFAB = true →
      (y.tallyQ = [] ∨ y.flag F.SW_TALLY_CTRL_EN = false ∨ y.tallyTarget (y.tallySlot w) = false →
        ByreStep c s b fun y' => y' = y) ∧
      (∀ rec_ rest, y.tallyQ = rec_ :: rest → y.flag F.SW_TALLY_CTRL_EN = true → y.tallyTarget (y.tallySlot w) = true →
        (y.parCheck spQueue 24).1 = false →
        ((w + 1) % size = r → over_ = false → ByreStep c s b fun y' =>
          y'.tallyQ = rest ∧ y'.rd R.SW_CNT_TALLY_DROP = y.rd R.SW_CNT_TALLY_DROP + 1#32 ∧
          y.KeepsRegs y' [R.SW_CNT_TALLY_DROP] ∧ y'.mem = y.mem) ∧
        ((w + 1) % size ≠ r ∨ over_ = true → ByreStep c s b fun y' =>
          y'.tallyQ = rest ∧ y'.get F.SW_TALLY_WR_WR = (w + 1) % size ∧
          (y.flag F.SW_TALLY_CTRL_TARGET = false →
            y'.vatRead (y.rdN R.SW_TALLY_BASE * 128 + w * 128) rec_.length = rec_ ∧ y'.dram = y.dram) ∧
          (y.flag F.SW_TALLY_CTRL_TARGET = true → y'.mem = y.mem) ∧
          ((w + 1) % size ≠ r → y'.get F.SW_TALLY_RD_RD = r ∧ y'.rd R.SW_CNT_TALLY_OVR = y.rd R.SW_CNT_TALLY_OVR) ∧
          ((w + 1) % size = r → y'.get F.SW_TALLY_RD_RD = (r + 1) % size ∧
            y'.rd R.SW_CNT_TALLY_OVR = y.rd R.SW_CNT_TALLY_OVR + 1#32)))) ∧
    (s.engOn b e = true → ByreStep (.tallyRdAdvance b e v) s b fun y' =>
      y'.get F.SW_TALLY_RD_RD = (r + v.toNat) % size ∧ y.KeepsRegs y' [R.SW_TALLY_RD] ∧ y.OnlyRegs y')

/-- What leaves the switch, and the tally ring.
Conventions of the model used here: assumption log entries 42, 45. -/
def Obligations.OutputsAndTally : Prop := Claims.SwitchOutputs ∧ Claims.TallyRing

/-- R83, R134: the skimmer's entry commands.  A read shows the entry; a write of a legal entry, or an invalidation, changes
that entry of a bank that is not live alone; a write with a reserved bit is flagged; the live bank of a RUNNING or
DEGRADED byre keeps its entries. -/
def Claims.SkimmerTable : Prop :=
  ∀ (s : State) (b : Fin 6) (m : Master) (bank : Bool) (i : Fin 4096),
    let y := s.byre b
    let bk := if bank then 1 else 0
    let wide := fun (r : Nat → Nat) => ((List.range 10).map fun n => y.rdN (r n) * 2 ^ (32 * n)).sum
    let new : SkimEnt := ⟨wide R.SKIM_ENT_KEY, wide R.SKIM_ENT_MASK, y.rdN (R.SKIM_ENT_ACT 0), y.rdN (R.SKIM_ENT_ACT 1),
      y.rdN (R.SKIM_ENT_ACT 2)⟩
    let legal := new.value &&& new.mask = new.value ∧ new.mask < 2 ^ 277 ∧ new.act0 / 2 ^ 25 = 0 ∧ new.act0 / 2 ^ 12 % 4 ≠ 3 ∧
      new.act0 / 2 ^ 14 % 4 ≠ 2 ∧ new.act0 / 2 ^ 16 % 4 ≠ 3 ∧ new.act1 < 2 ^ 28 ∧ new.act2 / 2 ^ 16 % 2 ^ 15 = 0
    let others := fun y' : Byre => ∀ (bk' : Nat) (j : Fin 4096), (bk', j) ≠ (bk, i) → y'.skimAt bk' j = y.skimAt bk' j
    Taken s b m R.SKIM_ENT_CMD →
    (ByreStep (.skimEntRead b m bank i) s b fun y' =>
      let e := y.skimAt bk i
      (∀ n < 10, y'.rdN (R.SKIM_ENT_KEY n) = e.value / 2 ^ (32 * n) % 2 ^ 32 ∧
        y'.rdN (R.SKIM_ENT_MASK n) = e.mask / 2 ^ (32 * n) % 2 ^ 32) ∧
      y'.rdN (R.SKIM_ENT_ACT 0) = e.act0 % 2 ^ 32 ∧ y'.rdN (R.SKIM_ENT_ACT 1) = e.act1 % 2 ^ 32 ∧
      y'.rdN (R.SKIM_ENT_ACT 2) = e.act2 % 2 ^ 32 ∧ y.OnlyRegs y') ∧
    (y.live = true ∧ bk = y.bank →
      ∀ c ∈ [Instr.skimEntWrite b m bank i, .skimEntInvalidate b m bank i], ∃ s', exec c s = .next s' ∧ (s'.byre b).skim = y.skim) ∧
    (¬(y.live = true ∧ bk = y.bank) →
      (ByreStep (.skimEntInvalidate b m bank i) s b fun y' =>
        y'.skimAt bk i = ⟨0, 0, 0, 0, 0⟩ ∧ others y' ∧ y'.verified bk = false) ∧
      (legal → ByreStep (.skimEntWrite b m bank i) s b fun y' =>
        y'.skimAt bk i = new ∧ others y' ∧ y'.verified bk = false ∧ y'.emu = y.emu) ∧
      (¬legal → ByreStep (.skimEntWrite b m bank i) s b fun y' => y'.skim = y.skim ∧ y'.rd R.SKIM_RSV_FLAG = 1#32))

/-- R127, R130, R131, R136: the oldest frame of an input takes the action of the entry it matches.  Without lookup,
learning and fragments it goes to the outputs of DEST once nothing of its input is ahead of it; an action with no output
drops and counts it; and a fragment's timer frees its entry. -/
def Claims.FrameClassification : Prop :=
  ∀ (s : State) (b : Fin 6) (i : Fin 28) (k : Fin 256),
    let y := s.byre b
    let c := Instr.frameClassify b i
    s.on b domFAB = true →
    ((y.inq.find? fun f => f.input == i.val && f.stage == 0) = none → y.retxq = [] → ByreStep c s b fun y' => y' = y) ∧
    (∀ f, (y.inq.find? fun f => f.input == i.val && f.stage == 0) = some f → CoreIdle y → y.skimParity.1 = none →
      let bs := y.frameBytes f
      let p := parse bs f.len
      let a := (y.skimAction (skimKey bs f.len i (f.rct.isSome || (l2 (bs.take 128)).hsr.isSome) (decide (i.val < 24) && y.lanB i))).1
      let dest := a.2.1 % 2 ^ 28
      y.pairOf i = none → f.hsr = false → f.dead = false → Byre.ptpDrop bs p = false → p.frag = 0 →
      a.1 / 2 ^ 11 % 2 = 0 → a.1 / 2 ^ 14 % 4 = 0 → a.1 / 2 ^ 16 % 4 = 0 → a.1 / 2 ^ 24 % 2 = 0 →
      (dest = 0 → ByreStep c s b fun y' =>
        y'.rd R.SKIM_CNT_LOOKUP = y.rd R.SKIM_CNT_LOOKUP + 1#32 ∧ y'.rd R.SKIM_CNT_ACT_DROP = y.rd R.SKIM_CNT_ACT_DROP + 1#32) ∧
      (dest ≠ 0 → (y.inq.find? fun g => g.input == i.val && g.stage != 3) = some f → ByreStep c s b fun y' =>
        y'.rd R.SKIM_CNT_LOOKUP = y.rd R.SKIM_CNT_LOOKUP + 1#32 ∧ y'.rd R.SKIM_CNT_ACT_DROP = y.rd R.SKIM_CNT_ACT_DROP ∧
        ∀ o : Fin 28, o ≠ 25 → dest.testBit o = true → ∃ x ∈ y'.copies, x.out = o ∧ x.fr.pail = f.pail ∧ x.fr.input = i ∧
          x.cells = max 1 ((f.len + 63) / 64))) ∧
    (SMap.get (fun _ => none) y.frag k = none → ByreStep (.fragmentTimeout b k) s b fun y' => y' = y) ∧
    (∀ e, SMap.get (fun _ => none) y.frag k = some e → ByreStep (.fragmentTimeout b k) s b fun y' =>
      SMap.get (fun _ => none) y'.frag k = none ∧
      (∀ k' : Fin 256, k' ≠ k → SMap.get (fun _ => none) y'.frag k' = SMap.get (fun _ => none) y.frag k') ∧
      y'.rd R.SKIM_CNT_FRAG_TIMEOUT = y.rd R.SKIM_CNT_FRAG_TIMEOUT + 1#32 ∧ y.KeepsRegs y' [R.SKIM_CNT_FRAG_TIMEOUT])

/-- R268: the checks 1 and 3 to 8 of the in-line authentication on the head of its queue, each failure in its own counter and, where
no capture is held, with its reason; a frame whose tag is right counts in CNT_AUTH_PASS. -/
def Claims.InlineAuthentication : Prop :=
  ∀ (s : State) (b : Fin 6),
    let y := s.byre b
    let c := Instr.inlineAuth b
    s.on b domFAB = true →
    (y.authHead = none → y.retxq = [] → ByreStep c s b fun y' => y' = y) ∧
    (∀ f, y.authHead = some f →
      let hdr := y.keyHdr y.bank f.slot
      let fails := fun (reason cnt : Nat) => ByreStep c s b fun y' =>
        y'.rd cnt = y.rd cnt + 1#32 ∧ y'.rd R.ROTA_CNT_AUTH_PASS = y.rd R.ROTA_CNT_AUTH_PASS ∧
        (y.flag F.ROTA_AUTH_FAIL_CAP_VALID = false →
          y'.flag F.ROTA_AUTH_FAIL_CAP_VALID = true ∧ y'.get F.ROTA_AUTH_FAIL_CAP_REASON = reason) ∧
        (y.flag F.ROTA_AUTH_FAIL_CAP_VALID = true → y'.rd R.ROTA_AUTH_FAIL_CAP = y.rd R.ROTA_AUTH_FAIL_CAP)
      (s.strOpen b = false → fails 7 R.ROTA_CNT_AUTH_UNAVAIL) ∧
      (s.strOpen b = true → (y.keyParity y.bank f.slot [0]).1 = none → (y.keyParity y.bank f.slot [1, 2]).1 = none →
      (hdr.testBit 31 = false → fails 5 R.ROTA_CNT_AUTH_SLOT) ∧
      (hdr.testBit 31 = true → f.alg ≠ hdr / 2 ^ 29 % 4 → fails 3 R.ROTA_CNT_AUTH_ALG) ∧
      (hdr.testBit 31 = true → f.alg = hdr / 2 ^ 29 % 4 →
        (Config.authExt (y.frameBytes f) = none → fails 1 R.ROTA_CNT_AUTH_NOEXT) ∧
        (∀ mlen id iv covered mac, Config.authExt (y.frameBytes f) = some (mlen, id, iv, covered, mac) →
          (mlen ≠ tagLen hdr → fails 1 R.ROTA_CNT_AUTH_NOEXT) ∧
          (mlen = tagLen hdr →
            (y.authKey y.bank f.slot id = none → fails 2 R.ROTA_CNT_AUTH_KEYID) ∧
            (∀ k key, y.authKey y.bank f.slot id = some k → (y.keyRead y.bank f.slot k).1 = (key, none) →
              (beNat (macMsg hdr key iv covered) ≠ mac → fails 4 R.ROTA_CNT_AUTH_TAG) ∧
              (beNat (macMsg hdr key iv covered) = mac → ByreStep c s b fun y' =>
                y'.rd R.ROTA_CNT_AUTH_PASS = y.rd R.ROTA_CNT_AUTH_PASS + 1#32 ∧
                y'.rd R.ROTA_AUTH_FAIL_CAP = y.rd R.ROTA_AUTH_FAIL_CAP ∧ y'.rd R.ROTA_CNT_AUTH_TAG = y.rd R.ROTA_CNT_AUTH_TAG)))))))

/-- The classification of frames, and in-line authentication.
Conventions of the model used here: assumption log entries 42, 47. -/
def Obligations.Skimming : Prop := Claims.FrameClassification ∧ Claims.InlineAuthentication

/-- R141, R142, R149: the commands of the exact-match unit, with RESULT and LOC, and the removal of the oldest note. -/
def Claims.ExactMatchCommands : Prop :=
  ∀ (s : State) (b : Fin 6) (m : Master) (loc : BitVec 17),
    let y := s.byre b
    let e := y.emuEnt
    let probed := (List.range 4).map (y.emuBucket e * 4 + ·) ++ y.emuOvf
    let mine := (y.emuCands e).filter fun l => !y.emuOwn (y.emuAt l)
    let answers := fun (c : Instr) (r : Nat) (P : Byre → Prop) => ByreStep c s b fun y' => y'.get F.EMU_CMD_STATUS_RESULT = r ∧ P y'
    let refused := fun (c : Instr) => ∃ s', exec c s = .next s' ∧ (s'.byre b).get F.EMU_CMD_STATUS_RESULT = 4 ∧ (s'.byre b).emu = y.emu ∧
      s'.crm.flag F.CRM_BUS_ERR_LOCKED = true
    let same := fun y' : Byre => y'.emu = y.emu
    let writes := fun (y' : Byre) (l : Nat) (x : EmuEnt) => y'.emuAt l = x ∧ y'.get F.EMU_CMD_STATUS_LOC = l
    let shows := fun (y' : Byre) (l : Nat) => ∀ n < 8, y'.rdN (R.EMU_ENT n) = (y.emuAt l).word n % 2 ^ 32
    (Taken s b m R.EMU_CMD →
      (e.ok = false → answers (.emuInsert b m) 5 fun y' => same y' ∧ y'.rd R.EMU_RSV_FLAG = 1#32) ∧
      ((y.emuParity probed).1 = [] →
        (e.ok = true →
          (y.live = true → y.emuFuture e = false → refused (.emuInsert b m)) ∧
          (y.live = false ∨ y.emuFuture e = true → mine = [] →
            (y.emuFree e = none → answers (.emuInsert b m) 2 fun y' =>
              same y' ∧ y'.rd R.EMU_CNT_INSERT_FULL = y.rd R.EMU_CNT_INSERT_FULL + 1#32) ∧
            (∀ l, y.emuFree e = some l → l < 2 ^ 17 → answers (.emuInsert b m) 0 fun y' =>
              writes y' l e ∧ ∀ j, j ≠ l → y'.emuAt j = y.emuAt j)) ∧
          (y.live = false → ∀ l rest, mine = l :: rest → l < 2 ^ 17 → answers (.emuInsert b m) 0 fun y' =>
            writes y' l e ∧ (∀ j, j ∉ mine → y'.emuAt j = y.emuAt j))) ∧
        (y.live = false →
          (mine = [] → answers (.emuDeleteByKey b m) 1 same) ∧
          (mine ≠ [] → answers (.emuDeleteByKey b m) 0 fun y' =>
            (∀ l ∈ mine, y'.emuAt l = ⟨0, 0, 0, 0, 0, 0, 0, 0⟩) ∧ ∀ j, j ∉ mine → y'.emuAt j = y.emuAt j)) ∧
        (y.live = true → (∀ l ∈ mine, y.emuFuture (y.emuAt l) = false) → refused (.emuDeleteByKey b m)) ∧
        (y.emuCands e = [] → answers (.emuReadByKey b m) 1 same) ∧
        (∀ l, y.emuLatest (y.emuCands e) = some l → answers (.emuReadByKey b m) 0 fun y' => same y' ∧ shows y' l)) ∧
      (66559 < loc.toNat → let old := y.get F.EMU_CMD_LOC
        old ≤ 66559 → (y.parCheck spEmu old).1 = false → answers (.emuReadByLocation b m loc) 0 fun y' =>
          same y' ∧ shows y' old ∧ y'.rd R.EMU_RSV_FLAG = 1#32) ∧
      (loc.toNat ≤ 66559 → (y.parCheck spEmu loc.toNat).1 = false → answers (.emuReadByLocation b m loc) 0 fun y' =>
        same y' ∧ shows y' loc.toNat ∧ y'.get F.EMU_CMD_STATUS_LOC = loc.toNat) ∧
      (y.live = true → refused (.emuDeleteAllKt b m)) ∧
      (y.live = false → (y.emuParity (y.emu.map (·.1))).1 = [] → answers (.emuDeleteAllKt b m) 0 fun y' =>
        ∀ l, y'.emuAt l = if (y.emuAt l).kt = e.kt ∧ y.emuOwn (y.emuAt l) = false then ⟨0, 0, 0, 0, 0, 0, 0, 0⟩ else y.emuAt l)) ∧
    (Taken s b m R.EMU_NOTE2 → ByreStep (.noteRemove b m) s b fun y' =>
      y'.notes = y.notes.tail ∧
      (y.notes.tail = [] → y'.rd R.EMU_NOTE2 = 0#32) ∧
      (∀ a vid p ev rest, y.notes.tail = (a, vid, p, ev) :: rest → p < 32 → ev < 4 →
        y'.rdN R.EMU_NOTE0 = a % 2 ^ 32 ∧ y'.rdN R.EMU_NOTE2 = 2 ^ 31 + ev * 32 + p) ∧
      y.KeepsRegs y' [R.EMU_NOTE0, R.EMU_NOTE1, R.EMU_NOTE2] ∧ { y' with regs := y.regs, notes := y.notes } = y)

/-- The tables of the skimmer and of the exact-match unit.
Conventions of the model used here: assumption log entries 15, 46. -/
def Obligations.SwitchTables : Prop := Claims.SkimmerTable ∧ Claims.ExactMatchCommands

/-- R153 to R156, R186: the press table commands.  A read fills the data registers with the entry; a write of a legal entry
goes into a bank that is not live and clears its VERIFIED; one with a reserved bit or encoding answers 0x5, and one to the
live bank of a RUNNING or DEGRADED byre 0x1; a table and index that name no entry are flagged. -/
def Claims.PressTables : Prop :=
  ∀ (s : State) (b : Fin 6) (m : Master) (bank : Bool) (table : BitVec 2) (i : Fin 4096),
    let y := s.byre b
    let bk := if bank then 1 else 0
    let w := fun n => y.rdN (R.PRESS_CFG_DATA n)
    let real := table = 0#2 ∨ (table = 1#2 ∧ i.val < 8) ∨ (table = 2#2 ∧ 1 ≤ i.val ∧ i.val < 64)
    let entry := fun (y : Byre) (n : Nat) =>
      if table = 0#2 then y.pStream bk i n else if table = 1#2 then y.pGroup bk i n else y.pTemplate bk i
    let words := if table = 2#2 then 1 else 8
    let legal := if table = 0#2 then Byre.streamOk w else if table = 1#2 then Byre.groupOk w else Byre.templateOk (w 0)
    Taken s b m R.PRESS_CFG_CMD →
    (real →
      (ByreStep (.pressCfgRead b m bank table i) s b fun y' =>
        (∀ n < words, y'.rdN (R.PRESS_CFG_DATA n) = entry y n) ∧ y'.get F.PRESS_CFG_STATUS_RESULT = 0 ∧ y.OnlyRegs y') ∧
      (¬(y.live = true ∧ bk = y.bank) →
        (legal = true → ByreStep (.pressCfgWrite b m bank table i) s b fun y' =>
          (∀ n < words, entry y' n = w n) ∧ y'.get F.PRESS_CFG_STATUS_RESULT = 0 ∧ y'.verified bk = false ∧ y'.mem = y.mem) ∧
        (legal = false → ByreStep (.pressCfgWrite b m bank table i) s b fun y' =>
          y'.ptab = y.ptab ∧ y'.get F.PRESS_CFG_STATUS_RESULT = 5)) ∧
      (y.live = true → bk = y.bank → ∃ s', exec (.pressCfgWrite b m bank table i) s = .next s' ∧
        (s'.byre b).ptab = y.ptab ∧ (s'.byre b).get F.PRESS_CFG_STATUS_RESULT = 1)) ∧
    (¬real →
      (ByreStep (.pressCfgRead b m bank table i) s b fun y' => y'.ptab = y.ptab ∧ y'.rd R.PRESS_RSV_FLAG = 1#32) ∧
      (y.live = false → ByreStep (.pressCfgWrite b m bank table i) s b fun y' =>
        y'.rd R.PRESS_RSV_FLAG = 1#32 ∧ y'.mem = y.mem ∧ y'.recs = y.recs))

namespace Sys2Proof.Machine

/-- The sample is the first of its tick in the one group of its stream, neither early nor late: record offset `off` of
group `g` takes it (R161 to R163). -/
def Placed (y : Byre) (p : Sample) (g off : Nat) : Prop :=
  let t := y.identity p
  y.members y.bank p.i = [(g, off)] ∧ y.tu.issued = true ∧ Byre.tickNo y.tu.rate t ≤ Byre.tickNo y.tu.rate y.tu.cur ∧
    y.lateIn g t = false ∧ y.recAt g t p.i = none

/-- The sample's values and qualities stand in its slot, and a record of it waits for the seal. -/
def SampleStored (y y' : Byre) (p : Sample) (g off : Nat) : Prop :=
  let t := y.identity p
  let unsynced := p.synch = 0 ∨ p.synch = 3 ∨ p.synch = 4 ∨ p.synch = 255
  let stored := fun (q : Nat) =>
    let q := q % 2 ^ 14
    if unsynced then (if q % 4 = 0 then q + 3 else q) + 2 ^ 16 else q
  y'.vatRead (y.slotAddr y.bank y.tu.rate g t + off + 16) (8 * p.vals.length) =
      p.vals.flatMap (fun v => leBytes 4 v.1 ++ leBytes 4 (stored v.2)) ∧
    y'.rd R.PRESS_CNT_SAMPLE = y.rd R.PRESS_CNT_SAMPLE + 1#32 ∧
    ∃ r, y'.recs = y.recs ++ [r] ∧ r.g = g ∧ r.t = t ∧ r.i = p.i ∧ r.smpCnt = p.smpCnt ∧ r.arrival = p.stamp

end Sys2Proof.Machine

/-- R156, R159, R161 to R164, R167, R168: a frame that is no sampled-value frame of its template counts in CNT_LAYOUT and
returns its pail; a sample in time, from a frame or from a thread's request, is written into the slot of its tick; and a
request with a fault gets its answer in STATUS. -/
def Claims.PressSamples : Prop :=
  ∀ (s : State) (b : Fin 6) (e : Fin 32) (t : Fin 8),
    let y := s.byre b
    (s.on b domFAB = true →
      (y.pressq = [] → ByreStep (.pressFrame b) s b fun y' => y' = y) ∧
      (∀ f rest, y.pressq = f :: rest → y.st ≠ Byre.stFAULTED → y.tableParity 5 [(spTemplate, actTemplate f), (spStream, f.index)] = none →
        (y.badWords (Byre.pailWords f.pail f.off f.len)).1 = [] →
        let bs := y.frameBytes f
        let tw := y.pTemplate y.bank (actTemplate f)
        let nv := tw / 2 ^ 8 % 32
        let fits := (tw % 4 = 1 ∨ tw % 4 = 2) ∧ (l2 bs).et = 0x88BA ∧ (y.pStream y.bank f.index 0).testBit 0 = true
        (¬fits ∨ parseSav bs = none → ByreStep (.pressFrame b) s b fun y' =>
          y'.pressq = rest ∧ y'.rd R.PRESS_CNT_LAYOUT = y.rd R.PRESS_CNT_LAYOUT + 1#32 ∧ y'.recs = y.recs) ∧
        (∀ cnt rev synch off data, fits → parseSav bs = some [(cnt, rev, synch, off, data)] →
          (nv ≠ y.nVal y.bank f.index ∨ data.length ≠ 8 * nv → ByreStep (.pressFrame b) s b fun y' =>
            y'.pressq = rest ∧ y'.rd R.PRESS_CNT_LAYOUT = y.rd R.PRESS_CNT_LAYOUT + 1#32 ∧ y'.recs = y.recs) ∧
          (nv = y.nVal y.bank f.index → data.length = 8 * nv →
            let want := y.pStream y.bank f.index 4
            (want ≠ 0 → rev ≠ want → ByreStep (.pressFrame b) s b fun y' =>
              y'.rd R.PRESS_CNT_CONFREV = y.rd R.PRESS_CNT_CONFREV + 1#32 ∧ y'.recs = y.recs) ∧
            (want = 0 ∨ rev = want → y.tu.rate ≤ cnt → ByreStep (.pressFrame b) s b fun y' =>
              y'.rd R.PRESS_CNT_BAD_CNT = y.rd R.PRESS_CNT_BAD_CNT + 1#32 ∧ y'.recs = y.recs) ∧
            (want = 0 ∨ rev = want → cnt < y.tu.rate → ∀ g o,
              let p : Sample := ⟨f.index, cnt, synch % 256, f.stamp, f.rct.map (·.1), f.input, pairsBE nv data, some (f.pail, off)⟩
              Placed y p g o → ByreStep (.pressFrame b) s b fun y' =>
                y'.pressq = rest ∧ SampleStored y y' p g o ∧ y'.charge = y.charge))))) ∧
    (s.engOn b e = true → (y.thread e t).ppStat = 0xFFFFFFFF#32 →
      let w := fun n => y.ppWord e t n
      let i := w 0 % 65536
      let nv := w 0 / 2 ^ 16 % 256
      let answers := fun (y' : Byre) (c : Word) => (y'.thread e t).ppStat = c ∧ (y'.thread e t).ev.getLsbD 4 = true
      let faulty := 4095 < i ∨ (y.pStream y.bank i 0).testBit 0 = false ∨ nv ≠ y.nVal y.bank i ∨ w 4 / 2 ^ 16 ≠ 0 ∨ w 5 ≠ 0 ∨
        21 < w 1 / 2 ^ 24 ∨ 1000000000 ≤ w 2
      y.tableParity 5 [(spStream, w 0 % 4096)] = none →
      (y.st = Byre.stFAULTED ∨ w 0 / 2 ^ 27 ≠ 0 ∨ w 0 / 2 ^ 26 = 0 ∧ faulty → ByreStep (.pressPortGo b e t) s b fun y' =>
        answers y' 6#32 ∧ y'.rd R.PRESS_CNT_PORT_REFUSED = y.rd R.PRESS_CNT_PORT_REFUSED + 1#32 ∧ y'.recs = y.recs ∧ y'.mem = y.mem) ∧
      (y.st ≠ Byre.stFAULTED → w 0 / 2 ^ 26 = 0 → ¬faulty →
        (y.tu.rate ≤ w 1 % 65536 → ByreStep (.pressPortGo b e t) s b fun y' =>
          answers y' 5#32 ∧ y'.rd R.PRESS_CNT_BAD_CNT = y.rd R.PRESS_CNT_BAD_CNT + 1#32 ∧ y'.recs = y.recs ∧ y'.mem = y.mem) ∧
        (w 1 % 65536 < y.tu.rate → ∀ g o,
          let p : Sample := ⟨i, w 1 % 65536, w 1 / 2 ^ 16 % 256, y.nearSec (w 3) * 1000000000 + w 2,
            if (w 0).testBit 24 then some (w 4 % 65536) else none, w 1 / 2 ^ 24, (List.range nv).map fun v => (w (6 + 2 * v), w (7 + 2 * v)), none⟩
          Placed y p g o → ByreStep (.pressPortGo b e t) s b fun y' =>
            answers y' 0#32 ∧ SampleStored y y' p g o)) ∧
      (y.st ≠ Byre.stFAULTED → (w 0).testBit 26 = true → w 0 / 2 ^ 27 = 0 →
        let off := w 1
        (w 4 / 2 ^ 16 ≠ 0 ∨ w 5 ≠ 0 → ByreStep (.pressPortGo b e t) s b fun y' =>
          answers y' 6#32 ∧ y'.mem = y.mem ∧ y'.rd R.PRESS_CNT_PORT_REFUSED = y.rd R.PRESS_CNT_PORT_REFUSED + 1#32) ∧
        (w 4 / 2 ^ 16 = 0 → w 5 = 0 →
          (y.openSnap i = none ∨ nv = 0 ∨ 16 < nv ∨ off % 8 ≠ 0 ∨ y.gPhLen y.bank i < off + 8 * nv →
            ByreStep (.pressPortGo b e t) s b fun y' =>
              answers y' 7#32 ∧ y'.mem = y.mem ∧ y'.rd R.PRESS_CNT_PORT_REFUSED = y.rd R.PRESS_CNT_PORT_REFUSED + 1#32) ∧
          (∀ q, y.openSnap i = some q → q.area = false → 1 ≤ nv → nv ≤ 16 → off % 8 = 0 → off + 8 * nv ≤ y.gPhLen y.bank i →
            ByreStep (.pressPortGo b e t) s b fun y' => answers y' 0#32 ∧
              y'.vatRead (q.slot + 64 + y.gRecLen y.bank i + off) (8 * nv) = (List.range (2 * nv)).flatMap fun k => leBytes 4 (w (6 + k))))))

/-- The press: its tables, and where samples go.
Conventions of the model used here: assumption log entries 48, 49. -/
def Obligations.Press : Prop := Claims.PressTables ∧ Claims.PressSamples

/-- R169, R177, R178: a seal pass writes the header of its group and tick with the CRC over bytes 0 to 51 and the records,
shows the slot in the read window, counts, and names the snapshot in the group's registers.  Stated for a group whose seal
area is not in use and without held copies.
Conventions of the model used here: assumption log entry 48. -/
def Obligations.SealPasses : Prop :=
  ∀ (s : State) (b : Fin 6),
    let y := s.byre b
    s.on b domFAB = true →
    (y.sealq = [] ∨ y.st = Byre.stFAULTED → ByreStep (.sealPass b) s b fun y' => y' = y) ∧
    (∀ q rest, y.sealq = q :: rest → y.st ≠ Byre.stFAULTED → q.g < 8 → q.t.s < 2 ^ 32 → q.t.k < 2 ^ 14 →
      y.tableParity 5 ((spGroup, q.g) :: (y.groupMembers q.bank q.g).map fun m => (spStream, m.1)) = none →
      y.gExpEn q.bank q.g = false → (∀ r ∈ y.recs, r.copy1 = none ∧ r.copy2 = none) →
      ByreStep (.sealPass b) s b fun y' =>
        let base := y.slotAddr q.bank q.rate q.g q.t
        let len := y.gRecLen q.bank q.g
        y'.sealq = rest ∧ SMap.get (fun _ => 0) y'.shown q.g = base + 1 ∧
        y'.vatRead base 7 = leBytes 4 q.t.s ++ leBytes 2 q.t.k ++ leBytes 1 q.g ∧
        y'.vatRead (base + 32) 4 = leBytes 4 len ∧
        y'.vatRead (base + 60) 4 = leBytes 4 (crc32c (y'.vatRead base 52 ++ y'.vatRead (base + 64) len)) ∧
        y'.rd R.PRESS_CNT_SEAL = y.rd R.PRESS_CNT_SEAL + 1#32 ∧
        y'.rdN (R.PRESS_GRP_SEC q.g) = q.t.s ∧ y'.flag (F.PRESS_GRP_K_VALID q.g) = true ∧ y'.get (F.PRESS_GRP_K_K q.g) = q.t.k ∧
        (∀ r ∈ y'.recs, ¬(r.g = q.g ∧ r.t = q.t)))

/-- R350, R351, R358: INIT words bring a link from INIT to ACTIVE once one has come and eight have gone, with AVAIL_TX at
TOTAL_TX; and on an ACTIVE link an echo request is queued every ECHO_US, and the answer to each request received carries
its two stamps. -/
def Claims.LinkInitAndEcho : Prop :=
  ∀ (s : State) (b : Fin 6) (l : Fin 2) (dt : Nat) (node : BitVec 17) (herd : BitVec 6) (tot : BitVec 28),
    let y := s.byre b
    let z := y.advance dt
    let k := y.tugAt l
    let active := fun y' : Byre => y'.linkSt l = 2 ∧ (y'.tugAt l).txSeq = 0 ∧ (y'.tugAt l).rxSeq = 0 ∧
      ∀ v < 4, y'.get (F.TUG_LINK_TX_CRED_AVAIL l v) = y'.get (F.TUG_LINK_TX_CRED_TOTAL l v)
    s.on b (portDom (22 + l)) = true → s.on b domFAB = true →
    (y.linkSt l ≠ 1 →
      (ByreStep (.initWordSend b l dt) s b fun y' => y' = z) ∧
      (ByreStep (.initWordReceive b l dt node herd tot) s b fun y' => y' = z)) ∧
    (y.linkSt l = 1 →
      (ByreStep (.initWordSend b l dt) s b fun y' =>
        (y'.tugAt l).initSent = k.initSent + 1 ∧ (y'.tugAt l).wordTyp = 0x3C ∧
        (∀ t0 t1 t2 t3, k.tot = [t0, t1, t2, t3] →
          (y'.tugAt l).word = y.ownNode * 2 ^ 39 + y.ownHerd * 2 ^ 33 + t3 * 2 ^ 26 + t2 * 2 ^ 19 + t1 * 2 ^ 12 + t0 * 2 ^ 5) ∧
        (k.initGot = true → 7 ≤ k.initSent → active y') ∧ (k.initGot = false ∨ k.initSent < 7 → y'.linkSt l = 1)) ∧
      (ByreStep (.initWordReceive b l dt node herd tot) s b fun y' =>
        y'.get (F.TUG_LINK_FAR_NODE l) = node.toNat ∧ y'.get (F.TUG_LINK_FAR_HERD l) = herd.toNat ∧
        (∀ v < 4, y'.get (F.TUG_LINK_TX_CRED_TOTAL l v) = tot.toNat / 2 ^ (7 * v) % 128) ∧
        (8 ≤ k.initSent → active y') ∧ (k.initSent < 8 → y'.linkSt l = 1))) ∧
    (y.linkSt l ≠ 2 → ByreStep (.echoRequest b l) s b fun y' => y' = y) ∧
    (y.linkSt l = 2 → ByreStep (.echoRequest b l) s b fun y' =>
      y'.tu.clk = max y.tu.clk (k.echoAt + y.get F.TUG_TIME_CFG_ECHO_US * 1000) ∧ (y'.tugAt l).echoAt = y'.tu.clk ∧
      ∃ c, y'.canQ l 0 = y.canQ l 0 ++ [⟨c, none, 0⟩] ∧ c.typ = 1 ∧ c.vc = 0 ∧ c.dst = y.get (F.TUG_LINK_FAR_NODE l)) ∧
    (k.echoDue = [] ∨ y.linkSt l ≠ 2 → ByreStep (.echoResponse b l dt) s b fun y' => y' = z) ∧
    (∀ t1 t2 rest, k.echoDue = (t1, t2) :: rest → y.linkSt l = 2 → ByreStep (.echoResponse b l dt) s b fun y' =>
      (y'.tugAt l).echoDue = rest ∧
      ∃ c, y'.canQ l 0 = y.canQ l 0 ++ [⟨c, none, 0⟩] ∧ c.typ = 2 ∧ c.payload.take 16 = leBytes 8 t1 ++ leBytes 8 t2)

/-- R352 to R354, R357: what a can slot sends on an ACTIVE link, with its credit and its place in the retry buffer; what
acknowledgements and returned credits do; and that the oldest can's first failure resends and its second abandons it. -/
def Claims.LinkTransmission : Prop :=
  ∀ (s : State) (b : Fin 6) (l : Fin 2) (dt : Nat) (valid nak late : Bool) (ack : BitVec 8) (ret : BitVec 16),
    let y := s.byre b
    let z := y.advance dt
    let k := y.tugAt l
    let avail := fun (y : Byre) (v : Nat) => y.get (F.TUG_LINK_TX_CRED_AVAIL l v)
    let out := fun (y : Byre) (v : Nat) => y.get (F.TUG_LINK_TX_CRED_OUT l v)
    let send := Instr.canTransmit b l dt
    let word := Instr.linkWordReceive b l dt valid ack ⟨nak, late⟩ ret
    let n := (k.retry.findIdx? fun r => r.can.lseq == ack.toNat).elim 0 (· + 1)
    let failed := fun (retry : List Retry) (sent : Nat) (y' : Byre) =>
      (∀ r rest, retry = r :: rest → 0 < sent →
        (r.fails = 0 → (y'.tugAt l).retry = { r with fails := 1 } :: rest ∧ (y'.tugAt l).sent = 0 ∧
          y'.rd (R.TUG_LINK_CNT_RETRY l) = y.rd (R.TUG_LINK_CNT_RETRY l) + 1#32) ∧
        (r.fails ≠ 0 → (y'.tugAt l).retry = rest ∧ (y'.tugAt l).sent = 0 ∧ (y'.tugAt l).give = true ∧
          y'.rd (R.TUG_LINK_CNT_CAN_LOST l) = y.rd (R.TUG_LINK_CNT_CAN_LOST l) + 1#32))
    s.on b (portDom (22 + l)) = true → s.on b domFAB = true →
    (y.linkSt l ≠ 2 → (ByreStep send s b fun y' => y' = z) ∧ (ByreStep word s b fun y' => y' = z)) ∧
    (y.linkSt l = 2 →
      (y.flag (F.TUG_LINK_STATUS_PEER l) = false →
        (∀ r, k.retry[k.sent]? = some r → ByreStep send s b fun y' =>
          (y'.tugAt l).sent = k.sent + 1 ∧ (y'.tugAt l).retry.length = k.retry.length ∧ y'.canq = y.canq ∧
          (∀ v < 4, avail y' v = avail y v) ∧ y'.rd (R.TUG_LINK_CNT_TX_CANS l) = y.rd (R.TUG_LINK_CNT_TX_CANS l) + 1#32 ∧
          ∃ r', (y'.tugAt l).retry[k.sent]? = some r' ∧ (y'.tugAt l).out = canBytes r'.can ∧ r'.can.lseq = r.can.lseq ∧
            r'.can.payload = r.can.payload ∧ r'.fails = r.fails) ∧
        (∀ (v : Fin 4) q rest, k.retry[k.sent]? = none → k.retry.length < 64 → y.canQ l v = q :: rest → avail y v ≠ 0 →
          out y v < 127 → q.ready ≤ z.tu.clk →
          (∀ v' : Fin 4, v' < v → avail y v' = 0 ∨ ∀ q' ∈ (y.canQ l v').head?, z.tu.clk < q'.ready) → q.pail = none → ByreStep send s b fun y' =>
            y'.canQ l v = rest ∧ avail y' v = avail y v - 1 ∧ out y' v = out y v + 1 ∧
            (y'.tugAt l).txSeq = (k.txSeq + 1) % 256 ∧ (y'.tugAt l).sent = k.sent + 1 ∧
            ∃ r, (y'.tugAt l).retry = k.retry ++ [r] ∧ r.can.lseq = k.txSeq ∧ r.can.hops = q.can.hops + 1 ∧ r.fails = 0 ∧
              r.can.giveup = k.give ∧ r.can.dst = q.can.dst ∧ r.can.payload = q.can.payload ∧ (y'.tugAt l).out = canBytes r.can) ∧
        (k.retry[k.sent]? = none → (∀ v < 4, y.canQ l v = [] ∨ avail y v = 0) → ByreStep send s b fun y' =>
          (y'.tugAt l).retry = k.retry ∧ (y'.tugAt l).out = k.out ∧ y'.canq = y.canq)) ∧
      (∀ v : Fin 4, avail y v + out y v < 128 → valid = false ∨ nak = false ∨ late = true → ByreStep word s b fun y' =>
        let n := min (ret.toNat / 2 ^ (4 * v.val) % 16) (out y v)
        avail y' v = avail y v + n ∧ out y' v = out y v - n) ∧
      (valid = false → ByreStep word s b fun y' => (y'.tugAt l).retry = k.retry ∧ (y'.tugAt l).sent = k.sent) ∧
      (valid = true → nak = false ∨ late = true → ByreStep word s b fun y' =>
        (y'.tugAt l).retry = k.retry.drop n ∧ (y'.tugAt l).sent = k.sent - n) ∧
      (valid = true → nak = true → late = false → ByreStep word s b (failed (k.retry.drop n) (k.sent - n))) ∧
      (0 < k.sent → k.retry ≠ [] → ByreStep (.retryTimeout b l) s b fun y' =>
        failed k.retry k.sent y' ∧ ∀ r, k.retry.head? = some r → y'.tu.clk = max y.tu.clk (r.at_ + y.get F.TUG_LINK_CFG_RETRY_NS))) ∧
    (k.retry = [] ∨ y.linkSt l ≠ 2 ∨ k.sent = 0 → ByreStep (.retryTimeout b l) s b fun y' => y' = y)

/-- The Tugus links: start, echo and transmission.
Conventions of the model used here: assumption log entry 65. -/
def Obligations.Links : Prop := Claims.LinkInitAndEcho ∧ Claims.LinkTransmission

/-- R348, R352, R353, R363: a can with a wrong CRC or out of sequence is refused and counted; one in sequence moves the
expected LSEQ on; a can past the credits, or of a wrong kind, is dropped and counted; and a control can for the own node
joins the receive queue and holds its credit. -/
def Claims.CanReception : Prop :=
  ∀ (s : State) (b : Fin 6) (l : Fin 2) (dt : Nat) (bytes : List Byte),
    let y := s.byre b
    let z := y.advance dt
    let k := y.tugAt l
    let c := canOf bytes
    let cmd := Instr.canReceive b l dt bytes
    let next := c.lseq = k.rxSeq ∨ (c.giveup = true ∧ c.lseq = (k.rxSeq + 1) % 256)
    let held := fun (y : Byre) (v : Nat) => y.get (F.TUG_LINK_RX_CRED_HELD l v)
    let pend := fun (y : Byre) (v : Nat) => y.get (F.TUG_LINK_RX_CRED_RET_PEND l v)
    let crcGood := leNat ((bytes.drop 240).take 4) = crc32c (bytes.take 240)
    s.on b (portDom (22 + l)) = true → s.on b domFAB = true →
    (y.linkSt l ≠ 2 → ByreStep cmd s b fun y' => y' = z) ∧
    (y.linkSt l = 2 →
      (¬crcGood → ByreStep cmd s b fun y' =>
        y'.rd (R.TUG_LINK_CNT_CRC_ERR l) = y.rd (R.TUG_LINK_CNT_CRC_ERR l) + 1#32 ∧ (y'.tugAt l).refusing = true ∧
        (y'.tugAt l).rxSeq = k.rxSeq ∧ y.KeepsRegs y' [R.TUG_LINK_CNT_CRC_ERR l] ∧ y'.ctlRx = y.ctlRx) ∧
      (crcGood → ¬next → ByreStep cmd s b fun y' =>
        y'.rd (R.TUG_LINK_CNT_SEQ_DISCARD l) = y.rd (R.TUG_LINK_CNT_SEQ_DISCARD l) + 1#32 ∧ y'.tug = y.tug ∧
        y.KeepsRegs y' [R.TUG_LINK_CNT_SEQ_DISCARD l]) ∧
      (crcGood → next →
        (ByreStep cmd s b fun y' =>
          (y'.tugAt l).rxSeq = (c.lseq + 1) % 256 ∧ (y'.tugAt l).refusing = false ∧ (y'.tugAt l).acked = true ∧
          y'.rd (R.TUG_LINK_CNT_RX_CANS l) = y.rd (R.TUG_LINK_CNT_RX_CANS l) + 1#32) ∧
        (k.tot.getD c.vc 0 ≤ held y c.vc + pend y c.vc → ByreStep cmd s b fun y' =>
          y'.rd (R.TUG_LINK_CNT_CREDIT_VIOL l) = y.rd (R.TUG_LINK_CNT_CREDIT_VIOL l) + 1#32 ∧
          pend y' c.vc = pend y c.vc ∧ held y' c.vc = held y c.vc ∧ y'.ctlRx = y.ctlRx) ∧
        (held y c.vc + pend y c.vc < k.tot.getD c.vc 0 → pend y c.vc < 127 → held y c.vc < 127 →
          (canOk bytes = false → ByreStep cmd s b fun y' =>
            y'.rd R.TUG_CNT_BAD_CAN = y.rd R.TUG_CNT_BAD_CAN + 1#32 ∧ pend y' c.vc = pend y c.vc + 1 ∧ y'.ctlRx = y.ctlRx) ∧
          (canOk bytes = true → c.vc = 1 → c.dst = y.ownNode → y.ctlRx.length < 64 → ByreStep cmd s b fun y' =>
            y'.ctlRx = y.ctlRx ++ [(canBytes c, some l.val)] ∧ held y' 1 = held y 1 + 1 ∧ pend y' 1 = pend y 1) ∧
          (canOk bytes = true → c.vc = 0 → c.typ = 1 → ByreStep cmd s b fun y' =>
            pend y' 0 = pend y 0 + 1 ∧ ∃ t2, (y'.tugAt l).echoDue = k.echoDue ++ [(c.launch, t2)]))))

/-- R295, R356, R364, R371, R373, R374: what firmware and the tunnel runtime do with cans and pails.  A control can of legal
kind goes by its route with the byre's own node as SRC, and RESULT says how; the head of the receive queue and of the tunnel
queue go; an injected image is judged and a dropped one counted; share entries are written as R153 says; and a SEND puts
the pail into switch input 24. -/
def Claims.CansAndShares : Prop :=
  ∀ (s : State) (b : Fin 6) (m : Master) (e : Fin 32) (t : Fin 8) (off : Word) (bank : Bool) (n : BitVec 8),
    let y := s.byre b
    let bk := if bank then 1 else 0
    let d := fun i => y.rdN (R.TUG_CTL_TX_DATA i)
    let typ := d 0 / 2 ^ 24
    let dst := d 0 % 2 ^ 17
    let legal := d 0 / 2 ^ 17 % 4 = 1 ∧ d 0 / 2 ^ 23 % 2 = 0 ∧ d 1 / 2 ^ 31 = 0 ∧ typ ∈ [0x10, 0x11, 0x12, 0x13, 0x20, 0x21]
    let answers := fun (r : Nat) (P : Byre → Prop) => ByreStep (.ctlTxSend b m) s b fun y' => y'.get F.TUG_CTL_TX_STATUS_RESULT = r ∧ P y'
    let sw := fun i => y.rdN (R.TUG_SHR_DATA i)
    (Taken s b m R.TUG_CTL_TX_CMD →
      (¬legal → answers 3 fun y' => y'.canq = y.canq ∧ y'.tunq = y.tunq ∧ y'.ctlRx = y.ctlRx) ∧
      (legal → dst = y.ownNode → y.ctlRx.length < 64 → answers 0 fun y' =>
        ∃ c, y'.ctlRx = y.ctlRx ++ [(canBytes c, none)] ∧ c.typ = typ ∧ c.src = y.ownNode ∧ c.dst = dst) ∧
      (legal → dst ≠ y.ownNode →
        (y.routeOf dst = 0 → answers 1 fun y' => y'.rd R.TUG_CNT_ROUTE_DROP = y.rd R.TUG_CNT_ROUTE_DROP + 1#32 ∧ y'.canq = y.canq) ∧
        (∀ l : Fin 2, y.routeOf dst = l + 1 →
          ((y.canQ l 1).length < Byre.ctlDepth → answers 0 fun y' => ∃ c, y'.canQ l 1 = y.canQ l 1 ++ [⟨c, none, 0⟩] ∧
            c.vc = 1 ∧ c.typ = typ ∧ c.dst = dst ∧ c.src = y.ownNode ∧ c.herd = y.get F.TUG_NODE_HERD ∧ c.hops = 0) ∧
          (Byre.ctlDepth ≤ (y.canQ l 1).length → answers 2 fun y' => y'.canq = y.canq)))) ∧
    (Taken s b m R.TUG_CTL_RX_STATUS →
      (y.ctlRx = [] → ByreStep (.ctlRxRemove b m) s b fun y' => y' = y) ∧
      (∀ bs l rest, y.ctlRx = (bs, l) :: rest → (∀ i, l = some i → i < 2) → ByreStep (.ctlRxRemove b m) s b fun y' =>
        y'.ctlRx = rest ∧ y'.get F.TUG_CTL_RX_STATUS_OCC = rest.length % 2 ^ 7 ∧
        (y'.flag F.TUG_CTL_RX_STATUS_VALID = true ↔ rest ≠ []) ∧
        (∀ i : Fin 2, l = some i.val → y.get (F.TUG_LINK_RX_CRED_RET_PEND i 1) < 127 →
          y'.get (F.TUG_LINK_RX_CRED_RET_PEND i 1) = y.get (F.TUG_LINK_RX_CRED_RET_PEND i 1) + 1 ∧
          y'.get (F.TUG_LINK_RX_CRED_HELD i 1) = y.get (F.TUG_LINK_RX_CRED_HELD i 1) - 1))) ∧
    (s.engOn b e = true → y.isTunEp e t = true →
      (ByreStep (.tunHeadRemove b e t) s b fun y' => y'.tunq = y.tunq.tail ∧ { y' with tunq := y.tunq } = y) ∧
      (y.flag F.TUG_TUN_CFG_TUN_EN = false → ByreStep (.tunInject b e t off) s b fun y' =>
        y'.tunInj = 2 ∧ { y' with tunInj := y.tunInj } = y) ∧
      (y.flag F.TUG_TUN_CFG_TUN_EN = true →
        (Config.injFull y.free = true → ByreStep (.tunInject b e t off) s b fun y' => y'.tunInj = 3 ∧ y'.charge = y.charge) ∧
        (Config.injFull y.free = false →
          let image := y.vatRead off.toNat 256
          let good := (y.useFree.anyParity (Byre.pailWords off.toNat 0 256)).1 = false ∧ canCrcOk image = true ∧ canOk image = true ∧ (canOf image).vc ≠ 0
          (¬good → ByreStep (.tunInject b e t off) s b fun y' => y'.tunInj = 1 ∧ y'.canq = y.canq ∧ y'.ctlRx = y.ctlRx) ∧
          (good → ByreStep (.tunInject b e t off) s b fun y' => y'.tunInj = 0))) ∧
      (∀ v : Word, ByreStep (.tunDrop b e t v) s b fun y' =>
        (∀ r ∈ [(1#32, R.TUG_CNT_TUN_TAG), (2#32, R.TUG_CNT_TUN_REPLAY), (3#32, R.TUG_CNT_TUN_FORMAT)],
          y'.rd r.2 = if v = r.1 then y.rd r.2 + 1#32 else y.rd r.2) ∧
        y.KeepsRegs y' [R.TUG_CNT_TUN_TAG, R.TUG_CNT_TUN_REPLAY, R.TUG_CNT_TUN_FORMAT] ∧ y.OnlyRegs y')) ∧
    (Taken s b m R.TUG_SHR_CMD →
      (ByreStep (.shareEntryRead b m bank n) s b fun y' =>
        (∀ i < 3, y'.rdN (R.TUG_SHR_DATA i) = y.shrWord bk n.toNat i) ∧ y'.get F.TUG_SHR_STATUS_RESULT = 0 ∧ y.OnlyRegs y') ∧
      (¬(y.live = true ∧ bk = y.bank) →
        let fit := sw 0 / 2 ^ 17 % 2 ^ 11 = 0 ∧ sw 1 / 2 ^ 27 = 0 ∧ sw 1 / 2 ^ 17 % 2 ^ 7 = 0 ∧ sw 2 / 2 ^ 24 = 0 ∧ sw 2 % 8 = 0 ∧
          (2 ^ 31 ≤ sw 0 → 64 ≤ sw 2)
        (fit → ByreStep (.shareEntryWrite b m bank n) s b fun y' =>
          (∀ i < 3, y'.shrWord bk n.toNat i = sw i) ∧ y'.get F.TUG_SHR_STATUS_RESULT = 0 ∧ y'.verified bk = false) ∧
        (¬fit → ByreStep (.shareEntryWrite b m bank n) s b fun y' =>
          y'.shrTab = y.shrTab ∧ y'.get F.TUG_SHR_STATUS_RESULT = 5)) ∧
      (y.live = true → bk = y.bank → ∃ s', exec (.shareEntryWrite b m bank n) s = .next s' ∧
        (s'.byre b).shrTab = y.shrTab ∧ (s'.byre b).get F.TUG_SHR_STATUS_RESULT = 1)) ∧
    (s.on b domFAB = true →
      (y.sendRoom = false → ByreStep (.pailSend b e t off) s b fun y' => y' = y) ∧
      (y.sendRoom = true → (y.sendCheck e t off.toNat).1 = true → ByreStep (.pailSend b e t off) s b fun y' =>
        ∃ f : Frame, y'.inq = y.inq ++ [f] ∧ f.pail = off.toNat ∧ f.len = (y.thread e t).sendLen ∧ f.input = 24 ∧ f.stage = 0))

/-- Cans received and forwarded, and the share table.
Conventions of the model used here: assumption log entries 65, 66. -/
def Obligations.Cans : Prop := Claims.CanReception ∧ Claims.CansAndShares

namespace Sys2Proof.Machine

/-- The head of the byre's control receive queue is a can `c`; its link, if any, is one of the two. -/
def CtlHead (y : Byre) (c : Can) : Prop :=
  ∃ bs l rest, y.ctlRx = (bs, l) :: rest ∧ canOf bs = c ∧ ∀ i, l = some i → i < 2

end Sys2Proof.Machine

/-- R368 to R370: what the management firmware does with a control can at the head of the receive queue: a JOIN enters the
sender of the manager's own herd and area, LEAVE removes it, an accepting JOIN_ACK and a HEARTBEAT from the manager make
the byre a MEMBER, an announcement arms the standby bank that holds its epoch, and a report whose CODE is not 0 raises an
event at the root; a can of another TYPE is left to its own command. -/
def Claims.HerdCans : Prop :=
  ∀ (s : State) (b : Fin 6),
    let y := s.byre b
    s.crm.up = true → s.on b domFAB = true →
    (∀ q ∈ [(Instr.join b, 0x10), (.joinAck b, 0x11), (.leave b, 0x12), (.heartbeat b, 0x13), (.epochAnnounce b, 0x20),
            (.epochReport b, 0x21)],
      (y.ctlRx = [] ∨ ∃ c, CtlHead y c ∧ c.typ ≠ q.2) → ByreStep q.1 s b fun y' => y' = y) ∧
    (∀ c, CtlHead y c → let from_ := c.src = y.mgr
      (c.typ = 0x10 → ByreStep (.join b) s b fun y' =>
        (c.herd = y.ownHerd → (y.role = 3 ∨ y.role = 2 ∧ c.src / 1024 = y.ownArea) →
          (y.herd.members.contains c.src = true → y'.herd = y.herd) ∧
          (y.herd.members.contains c.src = false → y.herd.members.length < max 1 Config.memberMax →
            y'.herd.members = y.herd.members ++ [c.src])) ∧
        (c.herd ≠ y.ownHerd ∨ ¬(y.role = 3 ∨ y.role = 2 ∧ c.src / 1024 = y.ownArea) → y'.herd = y.herd)) ∧
      (c.typ = 0x11 →
        (from_ → y.herd.st = Byre.hJOINING → leNat (c.payload.take 1) = 0 → ByreStep (.joinAck b) s b fun y' =>
          y'.herd = { y.herd with st := Byre.hMEMBER, answered := true, beatAt := y.tu.clk } ∧
          (y.evq.length < 64 → y'.evq.length = y.evq.length + 1)) ∧
        (from_ → y.herd.st = Byre.hJOINING → leNat (c.payload.take 1) ≠ 0 → ByreStep (.joinAck b) s b fun y' =>
          y'.herd = { y.herd with answered := true }) ∧
        (¬from_ ∨ y.herd.st ≠ Byre.hJOINING → ByreStep (.joinAck b) s b fun y' => y'.herd = y.herd)) ∧
      (c.typ = 0x12 → ByreStep (.leave b) s b fun y' => y'.herd = { y.herd with members := y.herd.members.filter (· != c.src) }) ∧
      (c.typ = 0x13 →
        (from_ → y.herd.st = Byre.hMEMBER ∨ y.herd.st = Byre.hISOLATED → ByreStep (.heartbeat b) s b fun y' =>
          y'.herd = { y.herd with st := Byre.hMEMBER, beatAt := y.tu.clk }) ∧
        (¬from_ → ByreStep (.heartbeat b) s b fun y' => y'.herd = y.herd)) ∧
      (c.typ = 0x20 →
        let epoch := leNat (c.payload.take 2)
        let tick : Tick := ⟨leNat ((c.payload.drop 2).take 6), leNat ((c.payload.drop 8).take 2)⟩
        (y.liveEpoch = epoch → ByreStep (.epochAnnounce b) s b fun y' => y'.ch.arm = y.ch.arm) ∧
        (y.role ≠ 2 → y.liveEpoch ≠ epoch → y.lane y.stby 0 2 % 65536 = epoch → y.verified y.stby = true → y.ch.arm = none →
          y.live = true → y.lane y.stby 0 0 % 16384 = y.lane y.bank 0 0 % 16384 → tick.k < y.lane y.stby 0 0 % 16384 →
          y.nearSec (tick.s % 2 ^ 32) = tick.s → y.now < Byre.tickNs (y.lane y.stby 0 0 % 16384) tick →
          y.now < y.nextBoundary → y.ch.plan = none →
          ¬(y.tu.issued = true ∧ Tick.le tick y.tu.cur = true) → ByreStep (.epochAnnounce b) s b fun y' => y'.ch.arm = some tick)) ∧
      (c.typ = 0x21 → y.role = 3 → y.evq.length < 64 → ByreStep (.epochReport b) s b fun y' =>
        (leNat ((c.payload.drop 2).take 1) = 0 → y'.evq = y.evq) ∧
        (leNat ((c.payload.drop 2).take 1) ≠ 0 → ∃ ev, y'.evq = y.evq ++ [ev] ∧ ev.code = 0x22 ∧ ev.data = c.payload.take 8)))

/-- R368, R369: the timers of the membership: a JOIN goes out first at once and is repeated after 1 s without an answer, a
manager beats every second, and 3 s without a HEARTBEAT isolate a member. -/
def Claims.HerdTimers : Prop :=
  ∀ (s : State) (b : Fin 6),
    let y := s.byre b
    let member := y.role = 1 ∨ y.role = 2
    let manager := y.role = 2 ∨ y.role = 3
    s.crm.up = true → s.on b domFAB = true →
    (¬member ∨ y.herd.st = Byre.hMEMBER ∨ y.herd.st = Byre.hISOLATED ∨ (y.herd.st = Byre.hJOINING ∧ y.herd.answered = true) →
      ByreStep (.joinResend b) s b fun y' => y' = y) ∧
    (member → y.herd.st = Byre.hNONE → ByreStep (.joinResend b) s b fun y' =>
      y'.herd = { y.herd with st := Byre.hJOINING, joinAt := y.tu.clk, answered := false } ∧
      (y.evq.length < 64 → y.evq.length < y'.evq.length)) ∧
    (member → y.herd.st = Byre.hJOINING → y.herd.answered = false → ByreStep (.joinResend b) s b fun y' =>
      y'.tu.clk = max y.tu.clk (y.herd.joinAt + 1000000000) ∧
      y'.herd = { y.herd with joinAt := y'.tu.clk }) ∧
    (¬manager → ByreStep (.heartbeatSend b) s b fun y' => y' = y) ∧
    (manager → ByreStep (.heartbeatSend b) s b fun y' =>
      y'.tu.clk = max y.tu.clk (y.herd.sentAt + 1000000000) ∧ y'.herd = { y.herd with sentAt := y'.tu.clk }) ∧
    (y.herd.st ≠ Byre.hMEMBER → ByreStep (.heartbeatTimeout b) s b fun y' => y' = y) ∧
    (y.herd.st = Byre.hMEMBER → ByreStep (.heartbeatTimeout b) s b fun y' =>
      y'.herd = { y.herd with st := Byre.hISOLATED } ∧ y'.tu.clk = max y.tu.clk (y.herd.beatAt + 3000000000) ∧
      (y.evq.length < 64 → ∃ ev, y'.evq = y.evq ++ [ev] ∧ ev.code = 0x46))

/-- The herd: the control cans and the timers of the membership.
Conventions of the model used here: assumption log entry 67. -/
def Obligations.Herd : Prop := Claims.HerdCans ∧ Claims.HerdTimers

namespace Sys2Proof.Machine

/-- The command completes, no byre but `b` changes, and `P` holds of byre `b` afterwards. -/
def EndsIn (c : Instr) (s : State) (b : Fin 6) (P : Byre → Prop) : Prop :=
  ∃ s', exec c s = .next s' ∧ (∀ b', b' ≠ b → s'.byre b' = s.byre b') ∧ P (s'.byre b)

end Sys2Proof.Machine

/-- R384 to R387: TRAIN, LOAD and SPEED_GO in HELD, READY and TEST; a run is atomic and holds a speed change that meets it; the
end of a run; the training words; and a neighbour refresh counts its pair. -/
def Claims.DramController : Prop :=
  ∀ (s : State) (b : Fin 6) (m : Master) (speed fail : BitVec 2) (mib : BitVec 16) (dt : Nat) (v : Word),
    let y := s.byre b
    let stored := fun (y : Byre) (p : Nat) => (y.get F.DRAM_STATUS_TVALID).testBit p
    let state := fun (y : Byre) => y.get F.DRAM_STATUS_STATE
    let running := state y = drTRAINING ∨ state y = drLOADING
    let cur := y.get F.DRAM_STATUS_CUR_SPEED
    let loads := fun (y' : Byre) (p : Nat) => state y' = (if stored y p then drLOADING else drTRAINING) ∧ y'.get F.DRAM_SIZE_MIB = 0
    (Taken s b m R.DRAM_CMD → y.idle = true → s.on b domDRM = true → speed ≠ 3#2 →
      (running ∨ state y = drRETAINED → ∀ c ∈ [Instr.dramTrain b m speed, .dramLoad b m speed], EndsIn c s b fun y' =>
        y'.rd R.DRAM_STATUS = y.rd R.DRAM_STATUS ∧ y'.get F.DRAM_CMD_SPEED = speed.toNat) ∧
      (¬running → state y ≠ drRETAINED →
        (EndsIn (.dramTrain b m speed) s b fun y' => state y' = drTRAINING ∧ y'.get F.DRAM_SIZE_MIB = 0 ∧ y'.dram = y.dram) ∧
        (EndsIn (.dramLoad b m speed) s b fun y' => loads y' cur ∧ y'.dram = y.dram)) ∧
      (running → y.flag F.DRAM_STATUS_PEND = false → EndsIn (.speedGo b m speed) s b fun y' =>
        state y' = state y ∧ y'.flag F.DRAM_STATUS_PEND = true ∧ y'.get F.DRAM_STATUS_PEND_SPEED = speed.toNat) ∧
      (running → y.flag F.DRAM_STATUS_PEND = true → EndsIn (.speedGo b m speed) s b fun y' =>
        state y' = state y ∧ y'.flag F.DRAM_STATUS_REFUSED = true ∧ y'.get F.DRAM_STATUS_PEND_SPEED = y.get F.DRAM_STATUS_PEND_SPEED) ∧
      (state y = drREADY → EndsIn (.speedGo b m speed) s b fun y' =>
        y'.get F.DRAM_STATUS_CUR_SPEED = speed.toNat ∧ loads y' speed.toNat)) ∧
    (s.on b domFAB = true → y.idle = false → s.shut m = false → State.reaches m (State.byreAddr b R.DRAM_CMD) = true → ∀ c ∈ [Instr.dramTrain b m speed, .dramLoad b m speed, .speedGo b m speed],
      CrmStep c s fun m' => m'.flag F.CRM_BUS_ERR_LOCKED = true) ∧
    (s.on b domFAB = true → s.on b domDRM = true →
      (∀ q ∈ [(Instr.trainingEnd b dt fail mib, drTRAINING), (.loadEnd b dt fail mib, drLOADING)],
        (state y ≠ q.2 → ∃ s', exec q.1 s = .next s' ∧ s' = s) ∧
        (state y = q.2 → y.flag F.DRAM_STATUS_PEND = false → ∃ s', exec q.1 s = .next s' ∧
          let y' := s'.byre b
          y'.get F.DRAM_STATUS_FAIL_CH = fail.toNat ∧
          (fail = 0#2 → state y' = drREADY ∧ y'.get F.DRAM_SIZE_MIB = min mib.toNat 7936 ∧
            y'.rd R.DRAM_CNT_TRAIN = y.rd R.DRAM_CNT_TRAIN + 1#32 ∧ (q.2 = drTRAINING → cur < 3 → stored y' cur = true)) ∧
          (fail ≠ 0#2 → state y' = drFAILED ∧ y'.get F.DRAM_SIZE_MIB = 0 ∧ y'.rd R.DRAM_CNT_TRAIN = y.rd R.DRAM_CNT_TRAIN))) ∧
      (state y = drREADY → ByreStep (.neighbourRefresh b) s b fun y' =>
        y'.rd R.DRAM_CNT_NBR = y.rd R.DRAM_CNT_NBR + 1#32 ∧ y.KeepsRegs y' [R.DRAM_CNT_NBR] ∧ y'.dram = y.dram) ∧
      (state y ≠ drREADY → ByreStep (.neighbourRefresh b) s b fun y' => y' = y)) ∧
    (let key := y.get F.DRAM_TRAIN_IDX_POINT * 128 + y.get F.DRAM_TRAIN_IDX_CH * 64 + y.get F.DRAM_TRAIN_IDX_WORD
     let steps := fun y' : Byre => y'.get F.DRAM_TRAIN_IDX_WORD = (y.get F.DRAM_TRAIN_IDX_WORD + 1) % 64 ∧
       y'.get F.DRAM_TRAIN_IDX_POINT = y.get F.DRAM_TRAIN_IDX_POINT
     (s.stop b m R.DRAM_TRAIN_DATA false = none → ∃ s', exec (.trainDataAccess b m false v) s = .next s' ∧
       s'.busRd = SMap.get (fun _ => 0#32) y.train key ∧ steps (s'.byre b) ∧ (s'.byre b).train = y.train) ∧
     (Taken s b m R.DRAM_TRAIN_DATA → ByreStep (.trainDataAccess b m true v) s b fun y' =>
       SMap.get (fun _ => 0#32) y'.train key = v ∧ steps y' ∧
       (∀ k, k ≠ key → SMap.get (fun _ => 0#32) y'.train k = SMap.get (fun _ => 0#32) y.train k)))

/-- R392 to R397: a late sample becomes an entry while the recorder records; a trigger opens the window in ARMED, extends it
in POST and is lost otherwise; REARM returns a frozen recorder to ARMED; and the port drains the staging buffer in order. -/
def Claims.RecorderCommands : Prop :=
  ∀ (s : State) (b : Fin 6) (m : Master) (e : Fin 32) (code : BitVec 16),
    let y := s.byre b
    let st := fun (y : Byre) => y.get F.DRAM_REC_STATE_STATE
    let rate := max 1 y.tu.rate
    let until_ := Byre.tickOf rate (Byre.tickNo rate y.tu.cur + y.get F.DRAM_REC_WIN_POST)
    (∀ q ∈ [(Instr.recTrigWrite b e code, 0), (.recCmdTrigger b m code, 2)],
      (q.2 = 0 → s.engOn b e = true) → (q.2 = 2 → Taken s b m R.DRAM_REC_CMD) →
      (st y = rcARMED → ByreStep q.1 s b fun y' =>
        st y' = rcPOST ∧ y'.rcd.tEnd = until_ ∧ y'.rdN R.DRAM_REC_TRIG_SEC = y.tu.cur.s % 2 ^ 32 ∧
        ∃ j, y'.rcd.jobs = y.rcd.jobs ++ [j] ∧ j.typ = 4 ∧ j.src = q.2 ∧ j.code = code.toNat ∧ j.first = true) ∧
      (st y = rcPOST → ByreStep q.1 s b fun y' =>
        st y' = rcPOST ∧ y'.rcd.tEnd = (if y.rcd.tEnd.le until_ then until_ else y.rcd.tEnd) ∧
        y'.rd R.DRAM_CNT_TRIG_EXTEND = y.rd R.DRAM_CNT_TRIG_EXTEND + 1#32 ∧
        ∃ j, y'.rcd.jobs = y.rcd.jobs ++ [j] ∧ j.typ = 4 ∧ j.first = false) ∧
      (st y = rcIDLE ∨ st y = rcFROZEN → ByreStep q.1 s b fun y' =>
        y'.rcd = y.rcd ∧ y'.rd R.DRAM_CNT_TRIG_LOST = y.rd R.DRAM_CNT_TRIG_LOST + 1#32 ∧ st y' = st y)) ∧
    (Taken s b m R.DRAM_REC_CMD →
      (st y = rcFROZEN → ByreStep (.recCmdRearm b m code) s b fun y' =>
        st y' = rcARMED ∧ y'.flag F.DRAM_REC_STATE_PRE_SHORT = false ∧ y'.flag F.DRAM_REC_STATE_PRE_LOST = false ∧
        y'.flag F.DRAM_REC_STATE_FROZEN_EARLY = false ∧ y'.rd R.DRAM_REC_OLD = y.rd R.DRAM_REC_OLD ∧ y'.rcd.ring = y.rcd.ring) ∧
      (st y ≠ rcFROZEN → ByreStep (.recCmdRearm b m code) s b fun y' =>
        y'.rcd = y.rcd ∧ y'.get F.DRAM_REC_CMD_CODE = code.toNat ∧ y.KeepsRegs y' [R.DRAM_REC_CMD])) ∧
    (s.on b domFAB = true →
      (y.lateq = [] → ByreStep (.lateEntryAppend b) s b fun y' => y' = y) ∧
      (∀ g t at_ d rest, y.lateq = (g, t, at_, d) :: rest →
        (st y = rcARMED ∨ st y = rcPOST → ByreStep (.lateEntryAppend b) s b fun y' =>
          y'.lateq = rest ∧ ∃ j, y'.rcd.jobs = y.rcd.jobs ++ [j] ∧ j.typ = 3 ∧ j.src = g ∧ j.data = some d ∧ j.k = t.k) ∧
        (st y = rcIDLE ∨ st y = rcFROZEN → ByreStep (.lateEntryAppend b) s b fun y' => y'.lateq = rest ∧ y'.rcd = y.rcd)) ∧
      (∀ n, s.on b domDRM = true → y.dst = drREADY → n ≤ y.rcd.stage.length → ByreStep (.recorderDrain b n 0) s b fun y' =>
        y'.rcd.stage = y.rcd.stage.drop n ∧ y'.rcd.jobs = y.rcd.jobs ∧ y'.mem = y.mem))

/-- The DRAM controller and the recorder.
Conventions of the model used here: assumption log entries 60, 61. -/
def Obligations.MemoryAndRecorder : Prop := Claims.DramController ∧ Claims.RecorderCommands

/-- R5, R7, R8, R25 to R29: words at management addresses of a byre view, by the management processor or JTAG.  While the FAB
domain is on, a bank that the host window owns is written and read as words; a register reads as it was written, an RC register
clears as it is read; a misaligned register access and an access to a bank of another owner are recorded and read 0.  While
the domain is off, every access is recorded with DOMAIN_OFF and reads 0.  The management SRAM is the management processor's own. -/
def Claims.ByreViewAccess : Prop :=
  ∀ (s : State) (b : Fin 6) (m : Master) (off : Nat) (v : Word),
    m = .mp ∨ m = .jtag → s.shut m = false → off < 0xF10000 →
    let y := s.byre b
    let a : Word := BitVec.ofNat 32 (State.byreAddr b off)
    let recorded := fun (c : Instr) (f : Fld) => ∃ s', exec c s = .next s' ∧ s'.byres = s.byres ∧ s'.crm.flag f = true ∧
      s'.crm.rdN R.CRM_BUS_ERR_CNT = min (s.crm.rdN R.CRM_BUS_ERR_CNT + 1) 0xFFFFFFFF
    let read0 := fun (f : Fld) => recorded (.rcRead m a) f ∧ ∀ s', exec (.rcRead m a) s = .next s' → s'.busRd = 0#32
    (s.on b domFAB = false → read0 F.CRM_BUS_ERR_DOMAIN_OFF ∧
      (off < 0xC00000 ∨ 0xD00000 ≤ off ∨ (∃ i < 8, off = R.EMU_ENT i) → recorded (.registerWrite m a v) F.CRM_BUS_ERR_DOMAIN_OFF)) ∧
    (s.on b domFAB = true →
      (0xC00000 ≤ off → off < 0xD00000 → (byreReg (off / 4 * 4)).isSome = true → off % 4 ≠ 0 →
        recorded (.registerWrite m a v) F.CRM_BUS_ERR_ALIGN ∧ read0 F.CRM_BUS_ERR_ALIGN) ∧
      (off < 0xC00000 → y.bankOpen (off / 0x40000) 0x20 = false →
        recorded (.registerWrite m a v) F.CRM_BUS_ERR_NOT_OWNER ∧ read0 F.CRM_BUS_ERR_NOT_OWNER) ∧
      (off < 0xC00000 → y.bankOpen (off / 0x40000) 0x20 = true →
        (y.hostWr.1 ≠ y.tu.clk → ByreStep (.registerWrite m a v) s b fun y' => y'.ldw (off / 4 * 4) = v.toNat ∧
          (∀ o, o < off / 4 * 4 ∨ off / 4 * 4 + 4 ≤ o → Mem.ldb y'.mem o = Mem.ldb y.mem o) ∧ y'.regs = y.regs) ∧
        ∃ s', exec (.rcRead m a) s = .next s' ∧ s'.busRd.toNat = y.ldw (off / 4 * 4) ∧ s'.byre b = { y with evq := (s'.byre b).evq }) ∧
      (∀ i < 8, off = R.EMU_ENT i →
        (ByreStep (.registerWrite m a v) s b fun y' => y'.rd off = v ∧ y.KeepsRegs y' [off] ∧ y'.mem = y.mem) ∧
        ∃ s', exec (.rcRead m a) s = .next s' ∧ s'.busRd = y.rd off ∧ (s'.byre b).regs = y.regs) ∧
      (off = R.CHURN_COMMIT_MAX → ∃ s', exec (.rcRead m a) s = .next s' ∧ s'.busRd = y.rd off ∧
        (s'.byre b).rd off = 0#32 ∧ y.KeepsRegs (s'.byre b) [off])) ∧
    (∀ w : Word, 0x400000 ≤ w.toNat → w.toNat < 0x800000 →
      (CrmStep (.registerWrite .mp w v) s fun c => c.memWord w.toNat = v.toNat ∧ c.regs = s.crm.regs) ∧
      ∃ s', exec (.rcRead .mp w) s = .next s' ∧ s'.busRd.toNat = s.crm.memWord w.toNat ∧ s'.crm = s.crm ∧ s'.byres = s.byres)

/-- R401, R402, R405: the host.  While neither the firmware runs nor the endpoint enumerates in recovery, no access of the host
changes anything.  Otherwise a write to a register that R402 does not list is recorded with READ_ONLY, and an access outside
the ranges of its BAR with UNMAPPED; CRM_BUS_ERR clears the bits written as 1; a read through the page map returns the byte of
the bank while EN is 1, the byre's FAB domain is on and the host window owns the bank, and otherwise 0, recorded with its cause. -/
def Claims.HostAccess : Prop :=
  ∀ (s : State) (p : Fin 256) (o : BitVec 18) (v : Word) (b : Fin 6),
    let a : Word := BitVec.ofNat 32 (R.CRM_HWIN_MAP p)
    let recorded := fun (c : Instr) (f : Fld) => ∃ s', exec c s = .next s' ∧ s'.byres = s.byres ∧ s'.crm.flag f = true
    let read0 := fun (f : Fld) => recorded (.hostWindowRead p o) f ∧ ∀ s', exec (.hostWindowRead p o) s = .next s' → s'.busRd = 0#32
    let bank := s.crm.get (F.CRM_HWIN_MAP_BANK p)
    (s.hostOk = false → ∀ c ∈ [Instr.registerWrite .bar0 a v, .rcRead .bar0 a, .rcRead .bar2 a, .hostWindowRead p o], exec c s = .next s) ∧
    (s.hostOk = true →
      (recorded (.registerWrite .bar0 a v) F.CRM_BUS_ERR_READ_ONLY ∧
        ∀ s', exec (.registerWrite .bar0 a v) s = .next s' → s'.crm.rdN (R.CRM_HWIN_MAP p) = s.crm.rdN (R.CRM_HWIN_MAP p)) ∧
      recorded (.registerWrite .bar0 (BitVec.ofNat 32 (State.byreAddr b (R.EMU_ENT 0))) v) F.CRM_BUS_ERR_UNMAPPED ∧
      recorded (.rcRead .bar2 a) F.CRM_BUS_ERR_UNMAPPED ∧
      (∃ s', exec (.registerWrite .bar0 (BitVec.ofNat 32 R.CRM_BUS_ERR) v) s = .next s' ∧ s'.byres = s.byres ∧
        ∀ i < 7, bit (s'.crm.rdN R.CRM_BUS_ERR) i = (bit (s.crm.rdN R.CRM_BUS_ERR) i && !v.getLsbD i)) ∧
      (s.crm.flag (F.CRM_HWIN_MAP_EN p) = false → read0 F.CRM_BUS_ERR_UNMAPPED) ∧
      (s.crm.flag (F.CRM_HWIN_MAP_EN p) = true → s.crm.get (F.CRM_HWIN_MAP_BYRE p) = b →
        (s.on b domFAB = false → read0 F.CRM_BUS_ERR_DOMAIN_OFF) ∧
        (s.on b domFAB = true → (s.byre b).bankOpen bank 0x20 = false → read0 F.CRM_BUS_ERR_NOT_OWNER) ∧
        (s.on b domFAB = true → (s.byre b).bankOpen bank 0x20 = true →
          ∃ s', exec (.hostWindowRead p o) s = .next s' ∧ s'.byres = s.byres ∧
            s'.busRd = (Mem.ldb (s.byre b).mem (bank * 0x40000 + o.toNat)).setWidth 32)))

/-- R126: the read of the low half of an octet counter latches the high half in the same access, and a later read of the high
half returns what was latched, whatever has been counted meanwhile. -/
def Claims.OctetCounters : Prop :=
  ∀ (s : State) (b : Fin 6) (m : Master) (p : Fin 24) (tx : Bool),
    let lo := if tx then R.SW_PORT_CNT_TX_OCT_LO p else R.SW_PORT_CNT_RX_OCT_LO p
    let hi : Word := BitVec.ofNat 32 (State.byreAddr b (lo + 4))
    s.stop b m lo false = none → ∃ s', exec (.octetLoRead b m p tx) s = .next s' ∧ s'.busRd = (s.byre b).rd lo ∧
      (s'.byre b).regs = (s.byre b).regs ∧
      ∀ s'', s''.on b domFAB = true → (s''.byre b).octHi = (s'.byre b).octHi →
        ∃ t, exec (.rcRead .mp hi) s'' = .next t ∧ t.busRd = (s.byre b).rd (lo + 4)

/-- What the management bus and the host read and write.
Conventions of the model used here: assumption log entries 14, 18. -/
def Obligations.RegisterAccess : Prop := Claims.ByreViewAccess ∧ Claims.HostAccess ∧ Claims.OctetCounters

namespace Sys2Proof.Machine

/-- Every command that a mailbox executes, with its code (R428). -/
def MailboxCommand (n : Fin 8) (c : Instr) (code : Nat) : Prop :=
  ∃ (low pg : Bool) (host : Option (List Byte)) (bs : List Byte) (mute : BitVec 8) (part : Option Nat), (c, code) ∈
   ([(.sysInfo n, 0x0101), (.sysStatus n, 0x0102), (.alarmAck n, 0x0103), (.counterBaseline n, 0x0104), (.creameryRestart n, 0x0105),
   (.sessionNonce n, 0x0201), (.sessionOpen n, 0x0202), (.sessionOpenHmac n, 0x0203), (.sessionClose n, 0x0204),
   (.claim n low, 0x0205), (.installerKeyRotate n, 0x0206), (.operatorSecretSet n, 0x0207)] ++
  [(.byreStatus n, 0x0301), (.byreReset n, 0x0302), (.byreRelease n, 0x0303), (.byreStart n, 0x0304), (.byreStop n, 0x0305),
   (.microcodeLoad n ⟨host, part⟩, 0x0306), (.benchOverride n, 0x0307), (.testEnter n, 0x0308), (.testExit n, 0x0309),
   (.tankerAbort n, 0x030A), (.blockCounters n, 0x030B)] ++
  [(.schedLoad n ⟨host, part⟩, 0x0401), (.schedVerify n, 0x0402), (.schedArm n, 0x0403), (.schedCancel n, 0x0404), (.schedStatus n, 0x0405),
   (.schedInstall n ⟨host, part⟩, 0x0406), (.schedList n, 0x0407), (.schedSelect n, 0x0408), (.schedRemove n, 0x0409)] ++
  [(.emuWrite n, 0x0501), (.emuRead n, 0x0502), (.emuDeleteType n, 0x0503), (.emuConfig n, 0x0504), (.learnConfig n, 0x0505),
   (.fwdNotes n, 0x0506), (.fwdCopy n, 0x0507), (.keyWrite n, 0x0508), (.keyInvalidate n, 0x0509), (.keyRead n, 0x050A)] ++
  [(.timeStatus n, 0x0601), (.timeConfig n, 0x0602), (.rtcSet n, 0x0603), (.utcSet n, 0x0604), (.ppsConfig n, 0x0605),
   (.portDelay n, 0x0606), (.portStatus n, 0x0701), (.portConfig n, 0x0702), (.pairConfig n, 0x0703), (.tallyConfig n, 0x0704),
   (.pinConfig n, 0x0705), (.frameSend n, 0x0706), (.frameRecv n, 0x0707)] ++
  [(.exportSetup n, 0x0801), (.exportStop n, 0x0802), (.exportStatus n, 0x0803), (.hwinMap n, 0x0804), (.groupStatus n, 0x0805),
   (.herdNode n, 0x0901), (.herdLink n, 0x0902), (.herdRoute n, 0x0903), (.herdStatus n, 0x0904), (.herdEpoch n, 0x0905),
   (.tunnelConfig n, 0x0906), (.recConfig n, 0x0A01), (.recTrigger n, 0x0A02), (.recExport ⟨n, part⟩, 0x0A03), (.recRearm n, 0x0A04),
   (.recStatus n, 0x0A05)] ++
  [(.powerStatus n bs, 0x0B01), (.domainSet n mute pg, 0x0B02), (.vcoreSet n, 0x0B03), (.dramSpeed n, 0x0B04),
   (.powerPolicy n, 0x0B05), (.pfailConfig n, 0x0B06), (.auditStatus n, 0x0C01), (.auditExport n, 0x0C02), (.auditWrap n, 0x0C03),
   (.regRead n, 0x0D01), (.regWrite n, 0x0D02), (.debugUnlock n, 0x0D03), (.debugHalt n, 0x0D04), (.debugResume n, 0x0D05),
   (.debugFreeze n, 0x0D06), (.scratchRead n, 0x0D07), (.tempRead n bs, 0x0D08), (.fuseProgram n, 0x0D09), (.factoryTest n, 0x0D0A)] ++
  [(.fwStatus n, 0x0E01), (.fwUpdate n ⟨host, part⟩, 0x0E02), (.fwActivate n, 0x0E03), (.fwCommit n, 0x0E04)] : List (Instr × Nat))

/-- Mailbox `n` is DONE with the response `bs`, which the response buffer holds. -/
def Done (s : State) (n : Fin 8) (bs : List Byte) : Prop :=
  s.crm.get (F.CRM_MB_STATUS_STATE n) = 2 ∧ (s.mb n).run = 0 ∧ (s.mb n).resp = bs ∧
    Mem.read s.crm.mem (State.respAddr n) bs.length = bs

end Sys2Proof.Machine

/-- R411, R413: RING.  It is lost outside IDLE.  In IDLE, an unchanged request is answered from the store and executes nothing;
another one is checked in the order of R410 and ends with the status of the first check that fails, or becomes BUSY and waits
for its turn. -/
def Claims.Ring : Prop :=
  ∀ (s : State) (n : Fin 8) (dt : Nat),
    let t := s.onCrm fun c => c.tick dt
    let bs := Mem.read s.crm.mem (State.reqAddr n) 4096
    let q := reqOf bs
    let idle := s.crm.get (F.CRM_MB_STATUS_STATE n) = 0 ∧ (s.mb n).run = 0 ∧ (s.mb n).gone = false ∧ s.serves n = true
    let fresh := idle ∧ (s.mb n).key ≠ some q.key
    let c := Instr.mailboxRing n dt
    let fails := fun (st : Nat) => ∃ s', exec c s = .next s' ∧ NoByre s s' ∧ Done s' n (State.respBytes q st 0 []) ∧
      s'.crm.get (F.CRM_MB_STATUS_SEQ_LAST n) = q.seq ∧ (s'.mb n).key = some q.key
    (s.hostOk = false → exec c s = .next t) ∧
    (s.hostOk = true → s.crm.get (F.CRM_MB_STATUS_STATE n) ≠ 0 → ∃ s', exec c s = .next s' ∧ NoByre s s' ∧
      s'.crm.flag (F.CRM_MB_STATUS_RING_LOST n) = true ∧ s'.crm.mb = s.crm.mb ∧
      s'.crm.get (F.CRM_MB_STATUS_STATE n) = s.crm.get (F.CRM_MB_STATUS_STATE n)) ∧
    (idle → (s.mb n).key = some q.key → ∃ s', exec c s = .next s' ∧ NoByre s s' ∧ Done s' n (s.mb n).resp ∧
      s'.crm.mb = s.crm.mb ∧ s'.crm.audit = s.crm.audit) ∧
    (fresh → 4080 < q.len → fails 3) ∧
    (fresh → q.len ≤ 4080 → q.crc ≠ (if q.len = 0 then 0 else crc32c q.p) → fails 4) ∧
    (fresh → q.len ≤ 4080 → q.crc = (if q.len = 0 then 0 else crc32c q.p) → cmdRow q.cmd = none → fails 2) ∧
    (fresh → ∀ k st, t.checks n q = some (k, st) → fails st) ∧
    (fresh → t.checks n q = none → ∃ s', exec c s = .next s' ∧ NoByre s s' ∧ (s'.mb n).run = 1 ∧ (s'.mb n).req = bs ∧
      s'.crm.get (F.CRM_MB_STATUS_STATE n) = 1 ∧ (s'.mb n).ord = s.crm.rings ∧ s'.crm.rings = s.crm.rings + 1)

/-- R411, R415: ACK returns DONE to IDLE and is lost elsewhere; ABORT ends a command that has changed nothing yet with ABORTED,
sets ABORT_LATE for one that waits on hardware, and has no effect in IDLE and DONE. -/
def Claims.AckAndAbort : Prop :=
  ∀ (s : State) (n : Fin 8),
    let st := fun (s : State) => s.crm.get (F.CRM_MB_STATUS_STATE n)
    let lost := F.CRM_MB_STATUS_RING_LOST n
    let late := F.CRM_MB_STATUS_ABORT_LATE n
    (s.hostOk = false → exec (.mailboxAck n) s = .next s ∧ exec (.mailboxAbort n) s = .next s) ∧
    (s.hostOk = true →
      (∃ s', exec (.mailboxAck n) s = .next s' ∧ NoByre s s' ∧ s'.crm.mb = s.crm.mb ∧ s'.crm.mem = s.crm.mem ∧
        (st s = 2 → st s' = 0 ∧ s'.crm.flag lost = s.crm.flag lost) ∧ (st s ≠ 2 → st s' = st s ∧ s'.crm.flag lost = true)) ∧
      (st s ≠ 1 → ∃ s', exec (.mailboxAbort n) s = .next s' ∧ NoByre s s' ∧ st s' = st s ∧ s'.crm.mb = s.crm.mb ∧
        s'.crm.flag late = s.crm.flag late) ∧
      (st s = 1 → (s.mb n).gone = false → (s.mb n).run = 1 → Answer (.mailboxAbort n) s n 0xF 0 (· = []) (NoByre s)) ∧
      (st s = 1 → (s.mb n).gone = false → 2 ≤ (s.mb n).run → ∃ s', exec (.mailboxAbort n) s = .next s' ∧ NoByre s s' ∧ st s' = 1 ∧
        s'.crm.mb = s.crm.mb ∧ s'.crm.flag late = true))

/-- R410, R414, R427, R428, R444, R452: a command of the table executes only at its turn, under its own code; when it starts,
a state of its byre, a lifecycle or a combination of images that does not allow it ends it with its status and nothing
executes. -/
def Claims.Turns : Prop :=
  ∀ (s : State) (n : Fin 8) (c : Instr) (code : Nat), MailboxCommand n c code →
    (s.ready n code = false → exec c s = .next s) ∧
    (Turn s n code → s.late (s.request n) ≠ 0 → Refuses c s n (s.late (s.request n)))

/-- The protocol of a mailbox.
Conventions of the model used here: assumption log entry 70. -/
def Obligations.MailboxProtocol : Prop := Claims.Ring ∧ Claims.AckAndAbort ∧ Claims.Turns

/-- R403: a reset of the host port returns every mailbox to IDLE with its buffers 0, stops the export rings, discards what is
staged, clears the page map and closes every session; the stored responses, the event queue, the firmware and the byres stay. -/
def Claims.HostPortReset : Prop :=
  ∀ (s : State) (why : Fin 5) (dt : Nat), ∃ s', exec (.hostPortReset why dt) s = .next s' ∧ SameByres s s' ∧
    (∀ n : Fin 8, s'.crm.get (F.CRM_MB_STATUS_STATE n) = 0 ∧ (s'.mb n).resp = (s.mb n).resp ∧ (s'.mb n).key = (s.mb n).key ∧
      s'.crm.get (F.CRM_MB_STATUS_SEQ_LAST n) = s.crm.get (F.CRM_MB_STATUS_SEQ_LAST n) ∧
      ((s.mb n).run ≠ 0 → (s'.mb n).gone = true ∧ (s'.mb n).run = (s.mb n).run)) ∧
    (∀ a, 0x02010000 ≤ a → a < 0x02020000 → Mem.ldb s'.crm.mem a = 0#8) ∧
    (∀ a, ¬(0x02010000 ≤ a ∧ a < 0x02020000) → Mem.ldb s'.crm.mem a = Mem.ldb s.crm.mem a) ∧
    (∀ r < 32, s'.crm.flag (F.CRM_EXP_CFG_EN r) = false) ∧ (∀ p < 256, s'.crm.rdN (R.CRM_HWIN_MAP p) = 0) ∧
    s'.crm.staging = [] ∧ s'.crm.sess = [] ∧ s'.crm.up = s.crm.up ∧ s'.crm.evNum = s.crm.evNum ∧
    s'.crm.rdN R.CRM_EVQ_WR = s.crm.rdN R.CRM_EVQ_WR ∧ s'.crm.rdN R.CRM_EVQ_RD = s.crm.rdN R.CRM_EVQ_RD

/-- R418, R422, R424: the host's writes of CRM_EVQ_RD and CRM_EXP_TAIL, and the coalescing limit COAL_US. -/
def Claims.HostPointers : Prop :=
  ∀ (s : State) (v : BitVec 8) (r : Fin 32) (tail : BitVec 12),
    (s.hostOk = false → exec (.evqRdWrite v) s = .next s ∧ exec (.expTailWrite r tail) s = .next s) ∧
    (s.hostOk = true →
      (∃ s', exec (.evqRdWrite v) s = .next s' ∧ NoByre s s' ∧ s'.crm.get F.CRM_EVQ_RD_RD = v.toNat ∧
        s.crm.KeepsRegs s'.crm [R.CRM_EVQ_RD, R.AON_CLK_STAT]) ∧
      (∃ s', exec (.expTailWrite r tail) s = .next s' ∧ NoByre s s' ∧ s'.crm.get (F.CRM_EXP_TAIL_TAIL r) = tail.toNat ∧
        s.crm.KeepsRegs s'.crm [R.CRM_EXP_TAIL r, R.AON_CLK_STAT])) ∧
    (let us := s.crm.get (F.CRM_EXP_COAL_COAL_US r)
     let waits := SMap.get (fun _ => (0, 0)) s.crm.coal r
     (waits.1 = 0 ∨ us = 0 → exec (.exportCoalTimeout r) s = .next s) ∧
     (waits.1 ≠ 0 → us ≠ 0 → CrmStep (.exportCoalTimeout r) s fun c =>
       c.irqs = s.crm.irqs ++ [16 + r.val] ∧ c.clk = max s.crm.clk (waits.2 + us * 1000) ∧ SMap.get (fun _ => (0, 0)) c.coal r = (0, 0)))

/-- R420, R422, R423: the transfer at the front of a byre's staging meets the end mark.  Where no running ring binds its stream
it is discarded; a descriptor with OWN 0, with BUF_LEN below 64 or not readable stops the ring; otherwise the data goes to
BUF_ADDR, the status to bytes 16 to 31 and OWN 0 to bytes 12 to 15, HEAD advances and CNT_DONE counts. -/
def Claims.ExportEnd : Prop :=
  ∀ (s : State) (b : Fin 6) (dt : Nat) (d : Option (List Byte)) (x : Xfer) (xs : List Xfer),
    s.crm.up = true → s.stagingOf b = x :: xs →
    (s.ringOf b x.stream = none → ∃ s', exec (.exportEndMark b dt d) s = .next s' ∧
      s'.crm.rdN R.CRM_EXP_CNT_UNBOUND = (s.crm.rdN R.CRM_EXP_CNT_UNBOUND + 1) % 2 ^ 32 ∧ s'.crm.host = s.crm.host) ∧
    (∀ r : Fin 32, s.ringOf b x.stream = some r.val →
      let head := s.crm.get (F.CRM_EXP_HEAD_HEAD r)
      let ring := s.crm.rdN (R.CRM_EXP_BASE_LO r) + s.crm.rdN (R.CRM_EXP_BASE_HI r) * 2 ^ 32
      head ≠ s.crm.get (F.CRM_EXP_TAIL_TAIL r) →
      (d = none → CrmStep (.exportEndMark b dt d) s fun c => c.flag (F.CRM_EXP_CFG_EN r) = false ∧ c.flag (F.CRM_EXP_CFG_ERR r) = true ∧
        c.get (F.CRM_EXP_HEAD_HEAD r) = head ∧ c.irqs = s.crm.irqs ++ [16 + r.val] ∧ c.host = s.crm.host) ∧
      (∀ ds, d = some ds →
        let own := bit (leNat ((ds.drop 12).take 4)) 31
        let len := leNat ((ds.drop 8).take 4)
        (own = false ∨ len < 64 → CrmStep (.exportEndMark b dt d) s fun c => c.flag (F.CRM_EXP_CFG_EN r) = false ∧
          c.flag (F.CRM_EXP_CFG_ERR r) = true ∧ c.get (F.CRM_EXP_HEAD_HEAD r) = head ∧ c.host = s.crm.host) ∧
        (own = true → 64 ≤ len → s.crm.flag (F.CRM_EXP_CFG_ERR r) = false → ∃ s', exec (.exportEndMark b dt d) s = .next s' ∧
          s'.crm.get (F.CRM_EXP_HEAD_HEAD r) = (head + 1) % 2 ^ s.crm.get (F.CRM_EXP_CFG_SIZE_LOG2 r) % 4096 ∧
          s'.crm.rdN (R.CRM_EXP_CNT_DONE r) = (s.crm.rdN (R.CRM_EXP_CNT_DONE r) + 1) % 2 ^ 32 ∧
          (x.code ≠ 2 → len < x.data.length → s'.crm.rdN (R.CRM_EXP_CNT_TRUNC r) = (s.crm.rdN (R.CRM_EXP_CNT_TRUNC r) + 1) % 2 ^ 32) ∧
          ∀ i < 4, SMap.get (fun _ => 0#8) s'.crm.host (ring + head * 32 + 12 + i) = 0#8)))

/-- R306 to R308, R426: the host at the creamery's locks, as the third master, whose identity 0x102 is the model's choice
(assumption log entry 57): an acquire with its identity takes a free lock, a release frees the one it holds. -/
def Claims.HostLocks : Prop :=
  ∀ (s : State) (b : Fin 6) (l : Fin 256) (v : Word),
    let k := l % 64
    let same := fun (m' : Creamery) => s.crm.KeepsRegs m' [R.CRM_LOCK_ACQ k] ∧ { m' with regs := s.crm.regs } = s.crm
    s.hostOk = true → bit (s.crm.rdN (R.CRM_LOCK_GRP_RIGHTS (k / 16))) 2 = true →
    (s.crm.flag (F.CRM_LOCK_ACQ_HELD k) = false → v.toNat % 512 = 0x102 →
      CrmStep (.lockAcquire b true (.mgmt .bar0) l v) s fun m' =>
        m'.flag (F.CRM_LOCK_ACQ_HELD k) = true ∧ m'.get (F.CRM_LOCK_ACQ_OWNER k) = 0x102 ∧ same m') ∧
    (s.crm.flag (F.CRM_LOCK_ACQ_HELD k) = true → s.crm.get (F.CRM_LOCK_ACQ_OWNER k) = 0x102 →
      CrmStep (.lockRelease b true (.mgmt .bar0) l) s fun m' => m'.flag (F.CRM_LOCK_ACQ_HELD k) = false ∧ same m')

/-- The host's side of the export path, and the resets of its port.
Conventions of the model used here: assumption log entries 8, 57, 59. -/
def Obligations.HostPort : Prop := Claims.HostPortReset ∧ Claims.HostPointers ∧ Claims.ExportEnd ∧ Claims.HostLocks

/-- R428, R436: the commands of the system group. -/
def Claims.SystemCommands : Prop :=
  ∀ (s : State) (n : Fin 8) (b : Fin 6),
    let q := s.request n
    let y := s.byre b
    let word := fun (p : List Byte) (o v : Nat) => (p.drop o).take 4 = leBytes 4 v
    (Due s n 0x0101 → Answer (.sysInfo n) s n 0 0 (fun p => p.length = 52 ∧
      p.take 4 = leBytes 2 0x0192 ++ leBytes 1 0xB1 ++ leBytes 1 s.crm.lifecycle ∧ (p.drop 16).take 8 = s.crm.serial ∧
      (p.drop 48).take 2 = leBytes 2 (s.crm.devId.getD 0xFFFF)) (NoByre s)) ∧
    (Due s n 0x0102 → Answer (.sysStatus n) s n 0 0 (fun p => p.length = 112 ∧
      (p.drop (16 * b)).take 1 = leBytes 1 (s.fwSt b) ∧
      (s.on b domFAB = false → (p.drop (16 * b + 1)).take 15 = List.replicate 15 0#8) ∧
      (s.on b domFAB = true → (p.drop (16 * b + 2)).take 2 = leBytes 2 (y.get F.CHURN_EPOCH_LIVE) ∧
        word p (16 * b + 4) (y.rdN R.CHURN_STATUS) ∧ word p (16 * b + 8) y.errBound ∧ word p (16 * b + 12) (y.rdN R.CHURN_BYRE)) ∧
      word p 96 (s.crm.rdN R.AON_RST_CAUSE) ∧ word p 100 (s.crm.rdN R.AON_CLK_STAT) ∧ word p 104 (s.crm.rdN R.AON_PFAIL_STAT) ∧
      word p 108 (s.crm.rdN R.CRM_BUS_ERR)) (NoByre s)) ∧
    (Due s n 0x0103 → State.reqByre q = some b →
      let off := blockBase (q.at_ 1 1) + q.at_ 4 4
      (14 < q.at_ 1 1 ∨ q.at_ 4 4 % 4 ≠ 0 ∨ byreReg off = none ∨ q.at_ 8 4 &&& State.w1cMask off ≠ q.at_ 8 4 →
        Refuses (.alarmAck n) s n 8) ∧
      (q.at_ 1 1 ≤ 14 → q.at_ 4 4 = 0x70 → q.at_ 8 4 = 1 → (byreReg off).isSome = true →
        Answer (.alarmAck n) s n 0 0 (· = []) (OneByre s b fun y' => bit (y'.rdN off) 0 = false ∧ y.KeepsRegs y' [off]))) ∧
    (Due s n 0x0104 → State.reqByre q = some b → Answer (.counterBaseline n) s n 0 0 (· = leBytes 4 State.allCnt.length)
      fun s' => NoByre s s' ∧ ∀ o ∈ State.allCnt,
        SMap.get (fun _ => 0#32) s'.crm.base (b * 0x1000000 + o) = BitVec.ofNat 32 (y.regShow (s.cls b) o)) ∧
    (Due s n 0x0105 → ∃ s', exec (.creameryRestart n) s = .next s' ∧ s'.crm.up = false ∧ s'.crm.mode = 0 ∧ s'.crm.sess = [] ∧
      bit (s'.crm.rdN R.AON_RST_CAUSE) 3 = true ∧
      s'.crm.rdN R.AON_CNT_CRM_RESET = (s.crm.rdN R.AON_CNT_CRM_RESET + 1) % 2 ^ 32 ∧
      ∀ b, (s'.byre b).st = (s.byre b).st ∧ (s'.byre b).mem = (s.byre b).mem ∧ (s'.byre b).tu = (s.byre b).tu)

/-- R453, R454, R456 to R458: nonces, sessions, the claim and the installer's key.  An open or a claim consumes its nonce
whether it passes or fails. -/
def Claims.SessionCommands : Prop :=
  ∀ (s : State) (n : Fin 8) (low : Bool),
    let q := s.request n
    let used := fun (s' : State) => State.nonceOf s' n = none
    let free := s.crm.barred ≤ s.crm.clk ∧ s.openCount < 16
    let opened := fun (role : Nat) (c : Instr) => Answer c s n 0 0
      (fun p => ∃ id, p = leBytes 4 id ++ leBytes 1 role ++ leBytes 3 0 ∧
        (s.crm.sess.length ≤ 16 → id ≠ 0 ∧ id < 2 ^ 32 ∧ ∀ x ∈ s.crm.sess, x.id ≠ id))
      fun s' => NoByre s s' ∧ used s' ∧ ∃ x ∈ s'.crm.sess, x.role = role ∧ x.last = s.crm.clk
    (Due s n 0x0201 → Answer (.sessionNonce n) s n 0 0 (·.length = 16) fun s' => NoByre s s' ∧
      ∃ x, State.nonceOf s' n = some x ∧ x.length = 16) ∧
    (Due s n 0x0202 →
      let role := q.at_ 0 1
      let key := q.bytes 4 64
      let holder := if role = 3 then sha256 key = s.crm.otpBytes 0x30 32 else s.crm.installer = some key
      (s.crm.clk < s.crm.barred → Answer (.sessionOpen n) s n 1 0 (· = []) fun s' => NoByre s s' ∧ used s') ∧
      (∀ x, s.nonceOf n = some x → 1 ≤ role → role ≤ 3 → s.roleOpens role = true → s.crm.barred ≤ s.crm.clk →
        (holder → ecdsaOk key (s.sessMsg x role) (q.bytes 68 64) = true → free → opened role (.sessionOpen n)) ∧
        (¬holder ∨ ecdsaOk key (s.sessMsg x role) (q.bytes 68 64) = false →
          Answer (.sessionOpen n) s n 0xB 0 (· = []) fun s' => NoByre s s' ∧ used s' ∧ s'.crm.sess = s.crm.sess))) ∧
    (Due s n 0x0203 → ∀ x k, s.nonceOf n = some x → s.crm.secret = some k → q.at_ 0 1 = 1 → s.roleOpens 1 = true → free →
      hmac256 k (s.sessMsg x 1) = q.bytes 4 32 → opened 1 (.sessionOpenHmac n)) ∧
    (Due s n 0x0204 → Answer (.sessionClose n) s n 0 0 (· = []) fun s' => SameByres s s' ∧
      s'.crm.sess = s.crm.sess.filter fun x => x.id != q.sess) ∧
    (Due s n 0x0205 →
      let key := q.bytes 0 64
      let root := s.crm.otpBytes 0x50 32
      (low = false ∨ s.crm.lifecycle ≠ Creamery.lcUNCLAIMED → Answer (.claim n low) s n 7 0 (· = []) fun s' => NoByre s s' ∧ used s') ∧
      (∀ x, s.nonceOf n = some x → low = true → s.crm.lifecycle = Creamery.lcUNCLAIMED → s.crm.flag F.AON_PFAIL_STAT_PFAIL = false →
        root = List.replicate 32 0#8 ∨ root = sha256 key → ecdsaOk key (s.sessMsg x 2) (q.bytes 64 64) = true →
        Answer (.claim n low) s n 0 0 (· = []) fun s' => SameByres s s' ∧ used s' ∧ s'.crm.lifecycle = Creamery.lcFIELD ∧
          s'.crm.otpBytes 0x50 32 = sha256 key ∧ s'.crm.installer = some key ∧ s'.crm.sess = [] ∧ s'.crm.audit.wrap = false)) ∧
    (Due s n 0x0206 → ∀ cur, s.crm.installer = some cur →
      let new := q.bytes 0 64
      (256 ≤ s.crm.chain.length → Refuses (.installerKeyRotate n) s n 7) ∧
      (s.crm.chain.length < 256 → ecKeyOk new = true → ecdsaOk cur (new ++ s.crm.serial) (q.bytes 64 64) = true →
        Answer (.installerKeyRotate n) s n 0 0 (· = leBytes 2 s.crm.chain.length) fun s' => SameByres s s' ∧
          s'.crm.chain = s.crm.chain ++ [new] ∧ s'.crm.sess = s.crm.sess.filter fun x => x.role != 2)) ∧
    (Due s n 0x0207 → Answer (.operatorSecretSet n) s n 0 0 (· = []) fun s' => NoByre s s' ∧ s'.crm.secret = some (q.bytes 0 32))

/-- The commands of the system and session groups.
Conventions of the model used here: assumption log entry 69. -/
def Obligations.SystemAndSessions : Prop := Claims.SystemCommands ∧ Claims.SessionCommands

namespace Sys2Proof.Machine

/-- What a management read of a register without effect of its own returns (R7, R17). -/
def Byre.readsAs (y : Byre) (cl : Nat → Bool) (o : Nat) : Nat :=
  y.regShow cl o &&& (byreReg o).elim 0 fun r => Byre.readMask r.flds

/-- Words of a response. -/
def words (ws : List Nat) : List Byte := ws.flatMap (leBytes 4)

/-- Nothing of the byre changes; events that wait go to the event queue (R14). -/
def Byre.Same (y y' : Byre) : Prop := y' = { y with evq := y'.evq }

/-- No power policy is stored for the byre (R499): its domains stay as they are when its state changes. -/
def NoPolicy (s : State) (b : Fin 6) : Prop := SMap.get (fun _ => none) s.crm.policy b = none

/-- The bytes of a host buffer whose reference lies at payload byte `o` (R417), where it is one that the command takes. -/
def Buffer (q : Req) (o max : Nat) (bs im : List Byte) : Prop :=
  let len := q.at_ (o + 8) 4
  q.at_ o 8 % 8 = 0 ∧ len % 8 = 0 ∧ len ≠ 0 ∧ len ≤ max ∧ im = (bs ++ List.replicate (len - bs.length) 0#8).take len

end Sys2Proof.Machine

/-- R428, R443, R445, R466, R502, R503: the commands of the byre group that change its state. -/
def Claims.ByreStates : Prop :=
  ∀ (s : State) (n : Fin 8) (b : Fin 6),
    let q := s.request n
    let y := s.byre b
    let due := fun (code : Nat) => Due s n code ∧ State.reqByre q = some b ∧ NoPolicy s b
    let start := fun (s' : State) => SMap.get (fun _ => 0) s'.crm.autostart b
    let ident := leBytes 4 (y.tu.genS % 2 ^ 32) ++ leBytes 2 y.tu.genK
    (due 0x0302 → Answer (.byreReset n) s n 0 0 (· = []) fun s' =>
      OneByre s b (fun y' => y'.st = Byre.stHELD ∧ y'.get F.CHURN_BYRE_PREV = (if y.st = Byre.stHELD then y.get F.CHURN_BYRE_PREV else y.st) ∧
        y'.mem = y.mem ∧ y'.thr = [] ∧ y'.tu.mono = 0 ∧ y'.flag F.TIME_STATUS_TICK_RUN = false) s' ∧
      start s' = 0 ∧ SMap.get (fun _ => []) s'.crm.ucode b = [] ∧ s'.crm.get (F.AON_BYRE_RST_LAST b) = 8 ∧
      s'.crm.rdN (R.AON_CNT_BYRE_RST b) = (s.crm.rdN (R.AON_CNT_BYRE_RST b) + 1) % 2 ^ 32) ∧
    (due 0x0303 →
      (s.ucodeVer b = none → Refuses (.byreRelease n) s n 7) ∧
      (∀ v, s.ucodeVer b = some v →
        (s.combo b = 0 → Answer (.byreRelease n) s n 0 0 (· = []) (OneByre s b fun y' => y'.st = Byre.stREADY ∧
          y'.flag F.TIME_STATUS_TICK_RUN = true)) ∧
        (s.combo b ≠ 0 → Answer (.byreRelease n) s n 0xA (s.combo b) (· = []) (NoByre s)))) ∧
    (due 0x0304 →
      (y.verified y.bank = false → Refuses (.byreStart n) s n 7) ∧
      (y.verified y.bank = true → Answer (.byreStart n) s n 0 0 (· = ident) fun s' =>
        OneByre s b (fun y' => { y' with evq := y.evq } = { y with ch := { y.ch with startPend := true } }) s' ∧
        start s' = SMap.get (fun _ => 0) s.crm.placed (b * 2 + y.bank))) ∧
    (due 0x0305 → Answer (.byreStop n) s n 0 0 (· = ident) fun s' =>
      OneByre s b (fun y' => { y' with evq := y.evq } = { y with ch := { y.ch with stopPend := true } }) s' ∧ start s' = 0) ∧
    (due 0x0307 → ∀ v, s.ucodeVer b = some v →
      (s.combo b = 0 → Refuses (.benchOverride n) s n 7) ∧
      (s.combo b ≠ 0 → Answer (.benchOverride n) s n 0 0 (· = []) (OneByre s b fun y' =>
        y'.st = Byre.stREADY ∧ y'.flag F.CHURN_BYRE_BENCH = true ∧ y'.flag F.CHURN_BYRE_TESTQ = true))) ∧
    (due 0x0308 → Answer (.testEnter n) s n 0 0 (· = []) (OneByre s b fun y' => y'.st = Byre.stTEST ∧
      y'.ch.startPend = y.verified y.bank ∧ y'.flag F.CHURN_BYRE_TESTQ = true)) ∧
    (due 0x0309 → Answer (.testExit n) s n 0 0 (· = []) (OneByre s b fun y' => y'.st = Byre.stREADY ∧ y'.ch.plan = none ∧
      y'.ch.pend = [] ∧ y'.ch.stopPend = false))

/-- R303, R416, R428, R436, R441, R448: the other commands of the byre group. -/
def Claims.ByreService : Prop :=
  ∀ (s : State) (n : Fin 8) (b : Fin 6) (bs im : List Byte) (secs : List Section),
    let q := s.request n
    let y := s.byre b
    let ch := q.at_ 1 1
    (Due s n 0x0301 → State.reqByre q = some b →
      (s.on b domFAB = false → Answer (.byreStatus n) s n 0 0 (· = words [s.fwSt b, 0, 0, 0, 0, 0, 0, 0]) (NoByre s)) ∧
      (s.on b domFAB = true → Answer (.byreStatus n) s n 0 0 (· = words ([R.CHURN_BYRE, R.CHURN_STATUS, R.CHURN_BADENG,
        R.CHURN_BADBANK_LO, R.CHURN_BADBANK_HI, R.CHURN_EPOCH, R.TIME_STATUS, R.TIME_ERR_BOUND].map (y.readsAs (s.cls b))))
        (OneByre s b y.Same))) ∧
    (Due s n 0x0306 → State.reqByre q = some b → NoPolicy s b → Buffer q 4 0x200000 bs im →
      Answer (.microcodeLoad n ⟨none, none⟩) s n 0xE 0xFF (· = []) (NoByre s) ∧
      (imgForm 2 im = 0 → signedBy im s.crm.vendorFp = false → Refuses (.microcodeLoad n ⟨some bs, none⟩) s n 0xB) ∧
      (imgForm 2 im = 0 → signedBy im s.crm.vendorFp = true → imgSvn im < s.crm.mcSvn →
        Answer (.microcodeLoad n ⟨some bs, none⟩) s n 0xB 2 (· = []) (NoByre s)) ∧
      (imgForm 2 im = 0 → signedBy im s.crm.vendorFp = true → s.crm.mcSvn ≤ imgSvn im → imgSections im = some secs →
        secs.all mcSecOk = true → Answer (.microcodeLoad n ⟨some bs, none⟩) s n 0 0 (· = []) fun s' =>
          OneByre s b (fun y' => y'.st = Byre.stHELD ∧ y'.flag F.TIME_STATUS_TICK_RUN = false ∧ ∀ e : Fin 32, (y'.engine e).on = false) s' ∧
          SMap.get (fun _ => []) s'.crm.ucode b = im ∧ SMap.get (fun _ => []) s'.crm.ucodeStore b = im) ∧
      (imgForm 2 im = 0 → signedBy im s.crm.vendorFp = true → s.crm.mcSvn ≤ imgSvn im → imgSections im = some secs →
        secs.all mcSecOk = true → secs ≠ [] → s.hostOk = true → s.crm.get (F.CRM_MB_STATUS_STATE n) = 1 →
        Answer (.microcodeLoad n ⟨some bs, some 0⟩) s n 0xF 0 (· = []) (NoByre s))) ∧
    (Due s n 0x030A → State.reqByre q = some b →
      (16 ≤ ch → Refuses (.tankerAbort n) s n 8) ∧
      (ch < 16 → (y.chan ch).st ≠ 1 → Answer (.tankerAbort n) s n 9 0 (· = []) (OneByre s b fun y' =>
        y'.flag (F.TNK_STATUS_LATE ch) = true ∧ y.KeepsRegs y' [R.TNK_STATUS ch] ∧ y'.mem = y.mem)) ∧
      (∀ k : Fin 16, ch = k → (y.chan k).st = 1 → (y.chan k).armed = false → VatCopy y k → (y.chan k).liveAt = 0 → 1 ≤ (y.chan k).held →
        ∃ w, Answer (.tankerAbort n) s n 0 0 (· = leBytes 4 w) (OneByre s b fun y' =>
          (y'.chan k).live 7 = w ∧ bits w 27 24 = 4 ∧ bit w 31 = true ∧ (y'.chan k).st = 3))) ∧
    (Due s n 0x030B → State.reqByre q = some b →
      (14 < ch ∨ State.unitMax ch ≤ q.at_ 2 1 → Refuses (.blockCounters n) s n 8) ∧
      (ch ≤ 14 → ch ≠ 2 → q.at_ 2 1 < State.unitMax ch → Answer (.blockCounters n) s n 0 0
        (· = words ((State.blockCnt ch ++ State.unitCnt ch (q.at_ 2 1)).map (y.readsAs (s.cls b)))) (OneByre s b y.Same)))

/-- The commands of the byre group.
Conventions of the model used here: assumption log entry 71. -/
def Obligations.ByreCommands : Prop := Claims.ByreStates ∧ Claims.ByreService

/-- R84, R85, R428 to R430, R436, R449: the commands of the schedule group.
Conventions of the model used here: assumption log entries 34, 36. -/
def Obligations.ScheduleCommands : Prop :=
  ∀ (s : State) (n : Fin 8) (b : Fin 6) (bs im : List Byte) (secs : List Section),
    let q := s.request n
    let y := s.byre b
    let due := fun (code : Nat) => Due s n code ∧ State.reqByre q = some b
    let slot := q.at_ 1 1
    let stored := s.package b slot
    let place := b * 2 + y.stby
    let loaded := fun (c : Instr) (im : List Byte) (from_ : Nat) => ∃ st det, Answer c s n st det (fun _ => True) fun s' =>
      (∀ b', b' ≠ b → s'.byre b' = s.byre b') ∧ SMap.get (fun _ => []) s'.crm.loaded place = im ∧
      SMap.get (fun _ => 0) s'.crm.placed place = from_ ∧ (s'.byre b).bank = y.bank ∧ (st = 0 → (s'.byre b).verified y.stby = true)
    let good := fun (im : List Byte) => imgForm 3 im = 0 ∧ imgSections im = some secs ∧ secs.all secOk = true
    (due 0x0401 → Buffer q 4 0x100000 bs im →
      (imgForm 3 im ≠ 0 → Refuses (.schedLoad n ⟨some bs, none⟩) s n (imgForm 3 im)) ∧
      (good im → loaded (.schedLoad n ⟨some bs, none⟩) im 0)) ∧
    (due 0x0402 →
      (s.verify b = none → Answer (.schedVerify n) s n 0 0 (· = []) (OneByre s b fun y' => y'.verified y.stby = true)) ∧
      (∀ st det i, s.verify b = some (st, det, i) → Answer (.schedVerify n) s n st det (fun p => p = leBytes 4 i)
        (OneByre s b fun y' => y'.verified y.stby = false))) ∧
    (due 0x0403 → s.crm.up = true → y.now < y.nextBoundary →
      let lo := q.at_ 4 6 % 2 ^ 32
      let k := q.at_ 10 2
      let rate := y.lane y.stby 0 0 % 16384
      let y8 := if y.ch.plan.isSome then y.cycles 8 else y
      let t : Tick := ⟨y8.nearSec lo, k⟩
      (16384 ≤ k → Refuses (.schedArm n) s n 8) ∧
      (k < 16384 → y.verified y.stby = false → Answer (.schedArm n) s n 7 1 (· = []) (OneByre s b fun y' => y'.ch.arm = y.ch.arm)) ∧
      (k < 16384 → y.verified y.stby = true → (rate = y.lane y.bank 0 0 % 16384 ∨ k = 0) → y.ch.arm ≠ none →
        Answer (.schedArm n) s n 1 3 (· = []) (OneByre s b fun y' => y'.ch.arm = y.ch.arm)) ∧
      (y.verified y.stby = true → (rate = y.lane y.bank 0 0 % 16384 ∨ k = 0) → y.ch.arm = none → k < rate →
        y8.now < Byre.tickNs rate t → (y.tu.issued = true → Tick.le t y.tu.cur = false) →
        Answer (.schedArm n) s n 0 0 (· = leBytes 2 (y.lane y.stby 0 2 % 65536)) (OneByre s b fun y' =>
          y'.ch.arm = some t))) ∧
    (due 0x0404 → Answer (.schedCancel n) s n (if y.ch.arm = none ∧ y.ch.armGone = true then 9 else 0) 0 (· = [])
      (OneByre s b fun y' => y'.ch.arm = none)) ∧
    (due 0x0405 → Answer (.schedStatus n) s n 0 0
      (· = words ((regsIn R.CHURN_STATUS R.CHURN_SWAP_K).map (y.readsAs (s.cls b)))) (OneByre s b y.Same)) ∧
    (due 0x0406 → slot < 8 → Buffer q 4 0x100000 bs im → imgForm 3 im = 0 → ∀ fp, s.crm.packageFp = some fp →
      (signedBy im fp = false → Refuses (.schedInstall n ⟨some bs, none⟩) s n 0xB) ∧
      (signedBy im fp = true → Answer (.schedInstall n ⟨some bs, none⟩) s n 0 0 (· = sha256 im) fun s' => NoByre s s' ∧
        s'.package b slot = im)) ∧
    (Due s n 0x0407 → Answer (.schedList n) s n 0 0 (fun p => p.length = 4 + 40 * s.crm.packages.length ∧
      p.take 1 = leBytes 1 s.crm.packages.length) (NoByre s)) ∧
    (due 0x0408 →
      (slot < 8 → q.at_ 10 2 < 16384 → stored = [] → Refuses (.schedSelect n) s n 7) ∧
      (slot < 8 → q.at_ 10 2 < 16384 → stored ≠ [] → good stored → y.now < y.nextBoundary → loaded (.schedSelect n) stored (slot + 1))) ∧
    (due 0x0409 → slot < 8 →
      (SMap.get (fun _ => 0) s.crm.autostart b = slot + 1 → Refuses (.schedRemove n) s n 7) ∧
      (SMap.get (fun _ => 0) s.crm.autostart b ≠ slot + 1 → Answer (.schedRemove n) s n 0 0 (· = []) fun s' => NoByre s s' ∧
        s'.package b slot = []))

namespace Sys2Proof.Machine

/-- The configuration commands of R435, with their codes. -/
def ConfigCommand (n : Fin 8) (c : Instr) (code : Nat) : Prop :=
  (c, code) ∈ ([(.emuConfig n, 0x0504), (.learnConfig n, 0x0505), (.timeConfig n, 0x0602), (.utcSet n, 0x0604), (.ppsConfig n, 0x0605),
    (.portDelay n, 0x0606), (.portConfig n, 0x0702), (.pairConfig n, 0x0703), (.tallyConfig n, 0x0704), (.pinConfig n, 0x0705),
    (.herdLink n, 0x0902), (.herdRoute n, 0x0903), (.tunnelConfig n, 0x0906), (.recConfig n, 0x0A01)] : List (Instr × Nat))

/-- Every RW field of each register named, but those of a credit register, holds what its word says. -/
def Written (y' : Byre) (ws : List (Nat × Nat)) : Prop :=
  ∀ w ∈ ws, ∀ r f, byreReg w.1 = some r → f ∈ r.flds → f.acc = .rw → (∀ o < 32, w.1 ≠ R.SW_CREDIT o) →
    bits (y'.rdN w.1) f.hi f.lo = bits w.2 f.hi f.lo

end Sys2Proof.Machine

/-- R434, R435: a configuration command writes the words that it carries to the registers that its row names; a selector out of
range is refused; herd_node fixes the device ID for every byre.  The words hold no reserved encoding (check 5 of R410), and
LOOPBACK of a port stays as it is (R124 lets it change in TEST only).
Conventions of the model used here: assumption log entry 79. -/
def Obligations.ConfigurationCommands : Prop :=
  ∀ (s : State) (n : Fin 8) (b : Fin 6),
    let q := s.request n
    let y := s.byre b
    let good := y.wordsBad (cfgWords q) = false
    (∀ c code, ConfigCommand n c code → Due s n code → State.reqByre q = some b →
      (∀ m, selMax code = some m → m < q.at_ 1 1 → Refuses c s n 8) ∧
      ((∀ m, selMax code = some m → q.at_ 1 1 ≤ m) → good →
        (code = 0x0702 → bit (q.at_ 4 4) 26 = y.flag (F.SW_PORT_CTRL_LOOPBACK (q.at_ 1 1))) →
        Answer c s n 0 0 (· = []) (OneByre s b fun y' => Written y' (cfgWords q) ∧ y'.mem = y.mem ∧ y'.st = y.st))) ∧
    (Due s n 0x0901 → State.reqByre q = some b →
      let d := bits (q.at_ 4 4) 13 0
      (∀ d', s.crm.devId = some d' → d' ≠ d → Refuses (.herdNode n) s n 8) ∧
      ((∀ d', s.crm.devId = some d' → d' = d) → good → Answer (.herdNode n) s n 0 0 (· = []) fun s' =>
        OneByre s b (fun y' => Written y' (cfgWords q)) s' ∧ s'.crm.devId = some d))

/-- R149, R265, R416, R431, R436: the commands of the exact-match unit and of the key store.
Conventions of the model used here: assumption log entry 79. -/
def Obligations.TableCommands : Prop :=
  ∀ (s : State) (n : Fin 8) (b : Fin 6),
    let q := s.request n
    let y := s.byre b
    let due := fun (code : Nat) => Due s n code ∧ State.reqByre q = some b
    let count := q.at_ 1 1
    let ent := fun (i : Nat) => entOf (q.bytes (8 + 36 * i) 32)
    let slot := q.at_ 1 1
    (due 0x0501 →
      (count = 0 ∨ 113 < count → Refuses (.emuWrite n) s n 8) ∧
      ((∃ i < count, (ent i).kt = 0 ∨ (ent i).learned = true) → Refuses (.emuWrite n) s n 8) ∧
      (1 ≤ count → count ≤ 113 → (∀ i < count, (ent i).kt ≠ 0 ∧ (ent i).learned = false) →
        ∃ p, Answer (.emuWrite n) s n 0 0 (· = p) (OneByre s b fun y' => p.length = 4 * count ∧
          (p.drop (4 * (count - 1))).take 1 = leBytes 1 (y'.get F.EMU_CMD_STATUS_RESULT)))) ∧
    (due 0x0502 →
      (q.at_ 1 1 = 1 → 66559 < q.at_ 4 4 → Refuses (.emuRead n) s n 8) ∧
      (q.at_ 1 1 ≠ 1 ∨ q.at_ 4 4 ≤ 66559 → ∃ p, Answer (.emuRead n) s n 0 0 (· = p) (OneByre s b fun y' =>
        p.take 32 = words ((List.range 8).map fun i => y'.rdN (R.EMU_ENT i)) ∧ p.length = 36 ∧
        (p.drop 32).take 3 = leBytes 3 (y'.get F.EMU_CMD_STATUS_LOC) ∧ p.drop 35 = leBytes 1 (y'.get F.EMU_CMD_STATUS_RESULT)))) ∧
    (due 0x0503 →
      (count = 0 → Refuses (.emuDeleteType n) s n 8) ∧
      (1 ≤ count → count ≤ 3 → ∃ k, Answer (.emuDeleteType n) s n 0 0 (· = leBytes 4 k) (OneByre s b fun y' =>
        k = y.emu.length - y'.emu.length ∧
        ((y.emuParity (y.emu.map (·.1))).1 = [] → ∀ l, (y'.emuAt l).kt = count → y.emuOwn (y.emuAt l) = true)))) ∧
    (due 0x0506 → ∃ k ≤ 64, Answer (.fwdNotes n) s n 0 0 (fun p => p.length = 4 + 12 * k ∧ p.take 1 = leBytes 1 k)
      (OneByre s b fun y' => y'.notes = y.notes.drop k ∧ y'.emu = y.emu)) ∧
    (due 0x0507 →
      let named := fun (t : Fin 6) => bit (q.at_ 1 1) t = true
      (y.flag F.EMU_CTRL_MK1 = true ∨ (∃ t, named t ∧ (s.on t domFAB = false ∨ (s.byre t).flag F.EMU_CTRL_MK1 = true)) →
        Refuses (.fwdCopy n) s n 7) ∧
      (y.flag F.EMU_CTRL_MK1 = false → (∀ t, named t → s.on t domFAB = true ∧ (s.byre t).flag F.EMU_CTRL_MK1 = false) → 1 ≤ q.at_ 2 1 → q.at_ 2 1 ≤ 127 → q.at_ 10 2 < 16384 →
        (∀ i < q.at_ 2 1, (entOf (q.bytes (12 + 32 * i) 32)).kt = 3) →
        Answer (.fwdCopy n) s n 0 0 (fun p => p.length = 6 * q.at_ 2 1 ∧
          ∀ i < q.at_ 2 1, ∀ t : Fin 6, ¬named t → p[6 * i + t.val]? = some 0xFF#8) fun s' =>
          ∀ t, ¬named t → s'.byre t = s.byre t)) ∧
    (due 0x0508 →
      let hdr := q.at_ 4 4
      (slot = 255 → Refuses (.keyWrite n) s n 8) ∧
      (slot < 255 → hdr % 2 ^ 23 = 0 → hdr / 2 ^ 29 % 4 = 1 ∨ hdr / 2 ^ 29 % 4 = 2 →
        Answer (.keyWrite n) s n 0 0 (·.length = 8) (OneByre s b fun y' =>
          y'.keyWord y.stby slot 0 = hdr ∧ y'.keyWord y.stby slot 1 = q.at_ 8 4 ∧ y'.keyWord y.stby slot 2 = q.at_ 12 4 ∧
          (∀ k < 2, bit (q.at_ 2 1) k = true → ∀ i < 8, y'.keyWord y.stby slot (8 + 8 * k + i) = q.at_ (16 + 32 * k + 4 * i) 4) ∧
          (∀ k < 2, bit (q.at_ 2 1) k = false → ∀ i < 8, y'.keyWord y.stby slot (8 + 8 * k + i) = y.keyWord y.stby slot (8 + 8 * k + i)) ∧
          ∀ sl < 256, ∀ w < 32, y'.keyWord y.bank sl w = y.keyWord y.bank sl w))) ∧
    (due 0x0509 →
      (slot = 255 → Refuses (.keyInvalidate n) s n 8) ∧
      (slot < 255 → Answer (.keyInvalidate n) s n 0 0 (· = []) (OneByre s b fun y' =>
        y'.keyWord y.stby slot 0 = y.keyWord y.stby slot 0 % 2 ^ 31))) ∧
    (due 0x050A →
      let bank := if q.at_ 2 1 = 1 then y.bank else y.stby
      (slot = 255 → Refuses (.keyRead n) s n 8) ∧
      (slot < 255 → Answer (.keyRead n) s n 0 0 (fun p => p.length = 20 ∧ (p.drop 4).take 4 = leBytes 4 (y.keyWord bank slot 1) ∧
        (p.drop 8).take 4 = leBytes 4 (y.keyWord bank slot 2)) (OneByre s b fun y' => y'.keys = y.keys)))

/-- R405, R416, R420, R428, R432, R433, R436, R54: the coarse clock, frames to and from the creamery, the export rings and the
host page map. -/
def Claims.ExportCommands : Prop :=
  ∀ (s : State) (n : Fin 8) (b : Fin 6),
    let q := s.request n
    let y := s.byre b
    let due := fun (code : Nat) => Due s n code ∧ State.reqByre q = some b
    let r := q.at_ 0 1
    (Due s n 0x0603 →
      (1000000000 ≤ q.at_ 6 4 → Refuses (.rtcSet n) s n 8) ∧
      (q.at_ 6 4 < 1000000000 → Answer (.rtcSet n) s n 0 0 (· = []) fun s' => NoByre s s' ∧
        s'.crm.rtcNow = some (q.at_ 0 6 * 1000000000 + q.at_ 6 4))) ∧
    (due 0x0706 →
      let len := q.at_ 4 2
      let frame := q.bytes 8 len
      let got := y.alloc 35 frame.length
      let z := got.2.coreTo
      (len < 14 ∨ 2044 < len → Refuses (.frameSend n) s n 8) ∧
      (14 ≤ len → len ≤ 2044 →
        (got.1 = none → Answer (.frameSend n) s n 1 1 (· = []) (OneByre s b fun y' => y'.inq = y.inq)) ∧
        (∀ off, got.1 = some off → z.inLen 27 < z.inDepth 27 → Answer (.frameSend n) s n 0 0 (· = []) (OneByre s b fun y' =>
          y'.inq = z.inq ++ [z.newFrame off frame.length 27 z.now] ∧ y'.mem = Mem.write z.mem off frame)) ∧
        (∀ off, got.1 = some off → z.inDepth 27 ≤ z.inLen 27 → Answer (.frameSend n) s n 1 2 (· = []) (OneByre s b fun y' =>
          y'.inq = z.inq)))) ∧
    (due 0x0707 → Answer (.frameRecv n) s n 0 0 (fun p => p.length ≤ 4080 ∧ p.length % 8 = 4 ∧
      p.take 4 = leBytes 4 (SMap.get (fun _ => 0) s.crm.hostDrop b)) fun s' => NoByre s s' ∧
        SMap.get (fun _ => 0) s'.crm.hostDrop b = 0 ∧
        ∃ k, SMap.get (fun _ => []) s'.crm.hostRx b = (SMap.get (fun _ => []) s.crm.hostRx b).drop k) ∧
    (Due s n 0x0801 →
      let lg := q.at_ 3 1
      let base := q.at_ 4 8
      let coal := q.at_ 12 2
      (31 < r ∨ 5 < q.at_ 1 1 ∨ lg < 4 ∨ 12 < lg ∨ base % 4096 ≠ 0 ∨ coal = 0 ∨ 256 < coal → Refuses (.exportSetup n) s n 8) ∧
      (r ≤ 31 → q.at_ 1 1 = b → 4 ≤ lg → lg ≤ 12 → base % 4096 = 0 → 1 ≤ coal → coal ≤ 256 →
        (s.crm.flag (F.CRM_EXP_CFG_EN r) = true → Refuses (.exportSetup n) s n 7) ∧
        (s.crm.flag (F.CRM_EXP_CFG_EN r) = false → s.ringOf b (q.at_ 2 1) ≠ none → Refuses (.exportSetup n) s n 8) ∧
        (s.crm.flag (F.CRM_EXP_CFG_EN r) = false → s.ringOf b (q.at_ 2 1) = none →
          Answer (.exportSetup n) s n 0 0 (· = []) fun s' => NoByre s s' ∧ let c := s'.crm
            c.flag (F.CRM_EXP_CFG_EN r) = true ∧ c.flag (F.CRM_EXP_CFG_ERR r) = false ∧ c.get (F.CRM_EXP_CFG_BYRE r) = b ∧
            c.get (F.CRM_EXP_CFG_STREAM r) = q.at_ 2 1 ∧ c.get (F.CRM_EXP_CFG_SIZE_LOG2 r) = lg ∧
            c.rdN (R.CRM_EXP_BASE_LO r) + c.rdN (R.CRM_EXP_BASE_HI r) * 2 ^ 32 = base ∧
            c.get (F.CRM_EXP_HEAD_HEAD r) = 0 ∧ c.get (F.CRM_EXP_TAIL_TAIL r) = 0 ∧
            c.get (F.CRM_EXP_COAL_COAL_N r) = coal ∧ c.get (F.CRM_EXP_COAL_COAL_US r) = q.at_ 14 2))) ∧
    (Due s n 0x0802 →
      (31 < r → Refuses (.exportStop n) s n 8) ∧
      (r ≤ 31 → s.crm.flag (F.CRM_EXP_CFG_EN r) = true → s.crm.get (F.CRM_EXP_CFG_BYRE r) = b →
        Answer (.exportStop n) s n 0 0 (· = []) fun s' => NoByre s s' ∧ s'.crm.flag (F.CRM_EXP_CFG_EN r) = false ∧
          s'.stagingOf b = (s.stagingOf b).filter fun x => x.stream != s.crm.get (F.CRM_EXP_CFG_STREAM r))) ∧
    (Due s n 0x0803 → r ≤ 31 → Answer (.exportStatus n) s n 0 0
      (· = words ([R.CRM_EXP_CFG r, R.CRM_EXP_BASE_LO r, R.CRM_EXP_BASE_HI r, R.CRM_EXP_TAIL r, R.CRM_EXP_HEAD r, R.CRM_EXP_COAL r,
        R.CRM_EXP_CNT_DONE r, R.CRM_EXP_CNT_TRUNC r, R.CRM_EXP_CNT_SKIP r, R.CRM_EXP_CNT_NODESC r].map s.crm.rdN)) (NoByre s)) ∧
    (Due s n 0x0804 →
      let p := q.at_ 0 2
      (255 < p ∨ 5 < q.at_ 2 1 ∨ 47 < q.at_ 3 1 → Refuses (.hwinMap n) s n 8) ∧
      (p ≤ 255 → q.at_ 2 1 ≤ 5 → q.at_ 3 1 ≤ 47 → Answer (.hwinMap n) s n 0 0 (· = []) fun s' => NoByre s s' ∧
        s'.crm.get (F.CRM_HWIN_MAP_EN p) = q.at_ 4 1 % 2 ∧ s'.crm.get (F.CRM_HWIN_MAP_BYRE p) = q.at_ 2 1 ∧
        s'.crm.get (F.CRM_HWIN_MAP_BANK p) = q.at_ 3 1 ∧
        ∀ p' < 256, p' ≠ p → s'.crm.rdN (R.CRM_HWIN_MAP p') = s.crm.rdN (R.CRM_HWIN_MAP p')))

/-- R370, R416, R428, R435, R436: the status commands of time, ports, groups, herd and recorder, and herd_epoch. -/
def Claims.StatusCommands : Prop :=
  ∀ (s : State) (n : Fin 8) (b : Fin 6),
    let q := s.request n
    let y := s.byre b
    let due := fun (code : Nat) => Due s n code ∧ State.reqByre q = some b
    let sel := q.at_ 1 1
    let show_ := fun (os : List Nat) => words (os.map (y.readsAs (s.cls b)))
    (due 0x0601 → Answer (.timeStatus n) s n 0 0 (fun p => p.take 4 = show_ [R.TIME_STATUS] ∧
      p.length = 4 * (regsIn R.TIME_STATUS (R.TIME_CTRL + 0xA0)).length) (OneByre s b fun y' => y'.regs = y.regs ∧ y'.mem = y.mem)) ∧
    (due 0x0701 →
      (23 < sel → Refuses (.portStatus n) s n 8) ∧
      (sel ≤ 23 → Answer (.portStatus n) s n 0 0 (fun p => p.take 4 = show_ [R.SW_PORT_STATUS sel] ∧
        p.length = 4 + 4 * (State.unitCnt 2 sel).length) (OneByre s b fun y' => y'.regs = y.regs ∧ y'.mem = y.mem))) ∧
    (due 0x0805 →
      (7 < sel → Refuses (.groupStatus n) s n 8) ∧
      (sel ≤ 7 → Answer (.groupStatus n) s n 0 0
        (· = show_ [R.PRESS_GRP_SEC sel, R.PRESS_GRP_K sel, R.PRESS_GRP_SEAL sel, R.PRESS_GRP_STAT sel]) (OneByre s b y.Same))) ∧
    (due 0x0904 → Answer (.herdStatus n) s n 0 0 (· = show_ [R.TUG_NODE, R.TUG_MGR, R.TUG_ROOT, R.TUG_LINK_STATUS 0, R.TUG_LINK_FAR 0,
      R.TUG_LINK_STATUS 1, R.TUG_LINK_FAR 1] ++ leBytes 1 y.herd.st ++ [0#8, 0#8, 0#8]) (OneByre s b y.Same)) ∧
    (due 0x0905 →
      let t : Tick := ⟨q.at_ 4 6, q.at_ 10 2⟩
      let soon := Byre.tickNs (max 1 (y.lane y.stby 0 0 % 16384)) t < y.now + 500000000
      (y.role ≠ 3 → Refuses (.herdEpoch n) s n 7) ∧
      (y.role = 3 → 16384 ≤ t.k → Refuses (.herdEpoch n) s n 8) ∧
      (y.role = 3 → t.k < 16384 → soon → Refuses (.herdEpoch n) s n 9) ∧
      (y.role = 3 → t.k < 16384 → ¬soon → Answer (.herdEpoch n) s n 0 0 (· = []) (OneByre s b fun y' =>
        y'.herd.members = y.herd.members ∧ y'.ch.arm = y.ch.arm ∧
        (∀ m ms, y.herd.members = ms ++ [m] → m < 2 ^ 17 → y'.rdN (R.TUG_CTL_TX_DATA 0) = m + 2 ^ 17 + 0x20 * 2 ^ 24)))) ∧
    (due 0x0A05 → Answer (.recStatus n) s n 0 0 (· = show_ [R.DRAM_REC_STATE, R.DRAM_REC_WR, R.DRAM_REC_OLD, R.DRAM_REC_PRE,
      R.DRAM_REC_TRIG, R.DRAM_REC_TRIG_SEC, R.DRAM_REC_TRIG_K]) (OneByre s b y.Same)) ∧
    (due 0x0A02 →
      let code := q.at_ 2 2
      let st := fun (y : Byre) => y.get F.DRAM_REC_STATE_STATE
      (st y = rcARMED → Answer (.recTrigger n) s n 0 0 (· = []) (OneByre s b fun y' => st y' = rcPOST ∧
        ∃ j, y'.rcd.jobs = y.rcd.jobs ++ [j] ∧ j.typ = 4 ∧ j.src = 2 ∧ j.code = code)) ∧
      (st y = rcIDLE ∨ st y = rcFROZEN → Answer (.recTrigger n) s n 0 0 (· = []) (OneByre s b fun y' => st y' = st y ∧
        y'.rd R.DRAM_CNT_TRIG_LOST = y.rd R.DRAM_CNT_TRIG_LOST + 1#32 ∧ y'.rcd = y.rcd))) ∧
    (due 0x0A04 → y.get F.DRAM_REC_STATE_STATE = rcFROZEN → Answer (.recRearm n) s n 0 0 (· = []) (OneByre s b fun y' =>
      y'.get F.DRAM_REC_STATE_STATE = rcARMED ∧ y'.rcd.ring = y.rcd.ring)) ∧
    (due 0x0A03 →
      let ch := y.get F.DRAM_REC_CTRL_EXP_TANKER
      let run := (s.auditOpen n q).recMoves b ch y.recCuts
      (y.get F.DRAM_REC_STATE_STATE ≠ rcFROZEN → Refuses (.recExport ⟨n, none⟩) s n 7) ∧
      (y.get F.DRAM_REC_STATE_STATE = rcFROZEN → y.chanBusy ch = true → Refuses (.recExport ⟨n, none⟩) s n 1) ∧
      (y.get F.DRAM_REC_STATE_STATE = rcFROZEN → y.chanBusy ch = false → (y.chan ch).disabled = false →
        (run.2.2.1 = true → Answer (.recExport ⟨n, none⟩) s n 0 0 (· = leBytes 4 y.recCuts.length ++ leBytes 8 ((y.recCuts.map (·.2 * 64)).sum))
          fun s' => s'.byres = run.2.2.2.byres) ∧
        (run.2.2.1 = false → Answer (.recExport ⟨n, none⟩) s n 0xE 8 (· = []) fun _ => True)))

/-- The commands of the time, port, export, herd and recorder groups beside those of R435.
Conventions of the model used here: assumption log entry 72. -/
def Obligations.ServiceCommands : Prop := Claims.ExportCommands ∧ Claims.StatusCommands

/-- R387, R416, R428, R486, R487, R494, R497, R499: the commands of the power group.  A domain command is answered at once unless
a block does not answer its handshake; a voltage request and a change of the DRAM's speed wait for the hardware.
Conventions of the model used here: assumption log entry 73. -/
def Obligations.PowerCommands : Prop :=
  ∀ (s : State) (n : Fin 8) (b : Fin 6) (mute : BitVec 8) (pg : Bool) (bs : List Byte),
    let q := s.request n
    let y := s.byre b
    let due := fun (code : Nat) => Due s n code ∧ State.reqByre q = some b
    let waits := fun (c : Instr) (k : Nat) (P : State → Prop) => ∃ s', exec c s = .next s' ∧ (s'.mb n).run = k ∧
      s'.request n = q ∧ P s'
    (Due s n 0x0B01 → Answer (.powerStatus n bs) s n 0 0 (fun p => p.length = 132 ∧
      p.take 28 = words (([0, 1, 2, 3, 4, 5].map fun b => s.crm.rdN (R.AON_PWR_STATE b)) ++ [s.crm.rdN R.AON_PWR_STATE_CRM]) ∧
      (SMap.get (fun _ => false) s.crm.rails b = false → (p.drop (60 + 12 * b)).take 12 = List.replicate 12 0#8)) (NoByre s)) ∧
    (due 0x0B02 → NoPolicy s b →
      let c := Instr.domainSet n mute pg
      let d := q.at_ 1 1
      let tgt := q.at_ 2 1
      let cur := s.crm.dom b d
      let legal := depOk fun k => if k = d then tgt else s.crm.dom b k
      let ask := askBlocks (y.refuses d) mute.toNat (domBlocks d) 0
      let reached := Answer c s n 0 0 (· = []) fun s' => (∀ b', b' ≠ b → s'.byre b' = s.byre b') ∧ s'.crm.dom b d = tgt ∧
        ∀ k < 10, k ≠ d → s'.crm.dom b k = s.crm.dom b k
      (9 < d → Refuses c s n 8) ∧
      (d ≤ 9 → s.crm.flag F.AON_PWR_RESULT_BUSY = true → Refuses c s n 1) ∧
      (d ≤ 9 → s.crm.flag F.AON_PWR_RESULT_BUSY = false → tgt ≤ 2 →
        (tgt = cur → reached) ∧
        (tgt ≠ cur → legal = false → Answer c s n 7 (d * 256 + 0xF0) (· = []) fun s' => NoByre s s' ∧ s'.crm.dom b d = cur) ∧
        (legal = true → tgt = 2 → cur = 1 → reached) ∧
        (legal = true → tgt = 2 → cur = 0 → pg = true → reached) ∧
        (legal = true → tgt ≤ 1 → cur = 2 →
          (ask = none → reached) ∧
          (∀ k i, ask = some (k, i, false) → Answer c s n 7 (d * 256 + k) (· = []) fun s' => NoByre s s' ∧ s'.crm.dom b d = 2) ∧
          (∀ k i, ask = some (k, i, true) → waits c 4 fun s' => NoByre s s' ∧ s'.crm.flag F.AON_PWR_RESULT_BUSY = true ∧
            s'.crm.dom b d = 2)))) ∧
    (due 0x0B03 →
      let rail := q.at_ 1 1
      let mv := q.at_ 2 2
      (s.voltOk b rail mv = false → Refuses (.vcoreSet n) s n 8) ∧
      (s.voltOk b rail mv = true → s.crm.flag (F.AON_VSTAT_BUSY b) = true → Refuses (.vcoreSet n) s n 1) ∧
      (rail ≤ 1 → s.voltOk b rail mv = true → s.crm.flag (F.AON_VSTAT_BUSY b) = false → waits (.vcoreSet n) 3 fun s' => NoByre s s' ∧
        s'.crm.flag (F.AON_VSTAT_BUSY b) = true ∧ SMap.get (fun _ => none) s'.crm.vreq b = some ⟨rail, mv, s.crm.clk⟩)) ∧
    (due 0x0B04 → q.at_ 1 1 ≤ 2 → s.on b domDRM = true →
      (y.flag F.DRAM_STATUS_PEND = true → y.get F.DRAM_STATUS_STATE = drTRAINING → Answer (.dramSpeed n) s n 1 0 (· = []) (OneByre s b fun y' =>
        y'.flag F.DRAM_STATUS_REFUSED = true ∧ y'.flag F.DRAM_STATUS_PEND = true)) ∧
      (y.flag F.DRAM_STATUS_PEND = false → y.get F.DRAM_STATUS_STATE = drREADY → waits (.dramSpeed n) 2 (OneByre s b fun y' =>
        y'.get F.DRAM_STATUS_CUR_SPEED = q.at_ 1 1 ∧
        y'.get F.DRAM_STATUS_STATE = (if (y.get F.DRAM_STATUS_TVALID).testBit (q.at_ 1 1) then drLOADING else drTRAINING)))) ∧
    (Due s n 0x0B05 →
      let bad := ∃ b < 6, ∃ st, (st = Byre.stREADY ∨ st = Byre.stHELD) ∧ depOk (State.policyTarget (State.policyOf q b) st) = false
      (bad → Refuses (.powerPolicy n) s n 8) ∧
      (¬bad → Answer (.powerPolicy n) s n 0 0 (· = []) fun s' => NoByre s s' ∧
        ∀ b : Fin 6, SMap.get (fun _ => none) s'.crm.policy b = some (State.policyOf q b))) ∧
    (Due s n 0x0B06 → Answer (.pfailConfig n) s n 0 0 (· = []) fun s' => NoByre s s' ∧ s'.crm.rdN R.AON_PFAIL_CFG = q.at_ 0 4)

/-- R461, R463, R464: the audit log through the mailbox.  audit_export copies the records from FIRST into host memory and marks
them exported. -/
def Claims.AuditCommands : Prop :=
  ∀ (s : State) (n : Fin 8),
    let q := s.request n
    let a := s.crm.audit
    let oldest := (a.recs.head?).elim a.next (·.seq)
    let first := q.at_ 0 4
    let sent := (a.recs.filter fun r => decide (first ≤ r.seq)).take (min 4096 (q.at_ 16 4 / 64))
    (Due s n 0x0C01 → (∀ r ∈ a.recs, ∀ l, r.link = some l → l.length = 16) → Answer (.auditStatus n) s n 0 0 (fun p => p.length = 40 ∧ (p.drop 20).take 4 = leBytes 4 a.recs.length ∧
      (∀ r rs, a.recs = rs ++ [r] → p.take 4 = leBytes 4 r.seq ∧ ∀ l, r.link = some l → (p.drop 4).take 16 = l) ∧
      (p.drop 28).take 1 = leBytes 1 (if a.wrap then 1 else 0) ∧ (p.drop 32).take 4 = leBytes 4 a.refused) (NoByre s)) ∧
    (Due s n 0x0C02 →
      (first < oldest ∨ a.next < first → Refuses (.auditExport n) s n 8) ∧
      (oldest ≤ first → first ≤ a.next → q.at_ 8 8 % 8 = 0 → q.at_ 16 4 % 8 = 0 → q.at_ 16 4 ≠ 0 →
        Answer (.auditExport n) s n 0 0 (· = leBytes 4 sent.length ++ s.linkBefore first) fun s' => NoByre s s' ∧
          (∀ i < (sent.flatMap State.recBytes).length,
            SMap.get (fun _ => 0#8) s'.crm.host (q.at_ 8 8 + i) = (sent.flatMap State.recBytes).getD i 0#8) ∧
          ∀ r rs, sent = rs ++ [r] → r.seq < s'.crm.audit.exported)) ∧
    (Due s n 0x0C03 → Answer (.auditWrap n) s n 0 0 (· = []) fun s' => NoByre s s' ∧ s'.crm.audit.wrap = (q.at_ 0 1 == 1))

/-- R82, R416, R428, R436, R451, R459, R481: the commands of the diagnosis group. -/
def Claims.DiagnosisCommands : Prop :=
  ∀ (s : State) (n : Fin 8) (b : Fin 6) (temps : List Byte),
    let q := s.request n
    let y := s.byre b
    let due := fun (code : Nat) => Due s n code ∧ State.reqByre q = some b
    let o := q.at_ 4 4
    let count := q.at_ 8 2
    (due 0x0D01 →
      (o % 4 ≠ 0 ∨ count = 0 ∨ 1020 < count ∨ 0x1000000 < o + 4 * count → Refuses (.regRead n) s n 8) ∧
      (o % 4 = 0 → 1 ≤ count → count ≤ 1020 → o + 4 * count ≤ 0xC00000 →
        (∀ i < count, y.bankOpen ((o + 4 * i) / 0x40000) 0x20 = true) →
        Answer (.regRead n) s n 0 0 (· = words ((List.range count).map fun i => y.ldw (o + 4 * i))) (OneByre s b y.Same))) ∧
    (due 0x0D02 →
      (o % 4 ≠ 0 ∨ 0x1000000 ≤ o → Refuses (.regWrite n) s n 8) ∧
      (o % 4 = 0 → o < 0xC00000 → y.bankOpen (o / 0x40000) 0x20 = true → y.hostWr.1 ≠ y.tu.clk → Answer (.regWrite n) s n 0 0 (· = [])
        (OneByre s b fun y' => y'.ldw o = q.at_ 8 4 ∧ y'.regs = y.regs ∧ ∀ a, a < o ∨ o + 4 ≤ a → Mem.ldb y'.mem a = Mem.ldb y.mem a)) ∧
      (∀ i < 8, o = R.EMU_ENT i → Answer (.regWrite n) s n 0 0 (· = []) (OneByre s b fun y' =>
        y'.rdN o = q.at_ 8 4 ∧ y.KeepsRegs y' [o] ∧ y'.mem = y.mem))) ∧
    (Due s n 0x0D03 →
      (bit (s.crm.otpWord 0xA8).toNat 0 = true → Refuses (.debugUnlock n) s n 7) ∧
      (bit (s.crm.otpWord 0xA8).toNat 0 = false → Answer (.debugUnlock n) s n 0 0 (· = []) fun s' => SameByres s s' ∧ s'.crm.dbg = true)) ∧
    (∀ (e : Fin 32) (t : Fin 8), q.at_ 1 1 = e → q.at_ 2 1 = t →
      let allowed := s.crm.dbg = true ∧ s.on b (domCL + clusterOf e) = true ∧ (y.engine e).on = true
      (due 0x0D04 → (¬allowed → Refuses (.debugHalt n) s n 7) ∧
        (allowed → Answer (.debugHalt n) s n 0 0 (· = []) (OneByre s b fun y' =>
          y'.thread e t = { y.thread e t with halted := true } ∧ y'.regs = y.regs))) ∧
      (due 0x0D05 →
        (¬allowed ∨ (y.thread e t).halted = false → Refuses (.debugResume n) s n 7) ∧
        (allowed → (y.thread e t).halted = true →
          ((y.thread e t).termDue = false → Answer (.debugResume n) s n 0 0 (· = []) (OneByre s b fun y' =>
            y'.thread e t = { y.thread e t with halted := false })) ∧
          ((y.thread e t).termDue = true → Answer (.debugResume n) s n 0 0 (· = []) (OneByre s b fun y' =>
            (y'.thread e t).halted = false ∧ (y'.thread e t).pc = (y.thread e t).tvec ∧
            (y'.thread e t).tcause.toNat % 256 = 7 ∧ (y'.thread e t).tcause.toNat / 4096 = 1))))) ∧
    (due 0x0D06 →
      (s.crm.dbg = false → Refuses (.debugFreeze n) s n 7) ∧
      (s.crm.dbg = true → y.st = Byre.stTEST →
        (q.at_ 1 1 = 1 → y.tu.frozenAt = none → y.now < y.nextBoundary → Answer (.debugFreeze n) s n 0 0 (· = []) (OneByre s b fun y' =>
          y'.flag F.CHURN_CTRL_FREEZE = true ∧ y'.tu.freezePend = true)) ∧
        (q.at_ 1 1 = 0 → y.tu.frozenAt = none → Answer (.debugFreeze n) s n 0 0 (· = []) (OneByre s b fun y' =>
          y'.flag F.CHURN_CTRL_FREEZE = false ∧ y'.tu.freezePend = false)))) ∧
    (due 0x0D07 → ∀ e : Fin 32, q.at_ 1 1 = e →
      (count = 0 ∨ 1020 < count ∨ 0x8000 < o + count → Refuses (.scratchRead n) s n 8) ∧
      (1 ≤ count → count ≤ 1020 → o + count ≤ 0x8000 →
        (∀ i < count, (y.parCheck 1 (e * 0x20000 + 4 * (o + i))).1 = false) →
        Answer (.scratchRead n) s n 0 0 (· = words ((List.range count).map fun i =>
          (Mem.ldw y.scratch (e * 0x20000 + 4 * (o + i))).toNat)) (OneByre s b fun y' => y'.scratch = y.scratch ∧ y'.thr = y.thr))) ∧
    (Due s n 0x0D08 → Answer (.tempRead n temps) s n 0 0 (·.length = 28) fun s' =>
      ∀ b' : Fin 6, (s.on b' domFAB = false → s'.byre b' = s.byre b') ∧ (s.on b' domFAB = true →
        (s'.byre b').get F.PWR_TEMP_TEMP = leNat ((temps.drop (2 * b')).take 2) ∧ (s.byre b').KeepsRegs (s'.byre b') [R.PWR_TEMP])) ∧
    (Due s n 0x0D09 →
      let w := q.at_ 0 4
      let v := q.at_ 4 4
      let cur := (s.crm.otpWord w).toNat
      let legal := (w = 0 ∧ (v = 1 ∨ v = 3 ∨ v = 7 ∨ v = 15)) ∨ (w = 0xA8 ∧ v = 1)
      (s.crm.flag F.AON_PFAIL_STAT_PFAIL = true → Refuses (.fuseProgram n) s n 7) ∧
      (s.crm.flag F.AON_PFAIL_STAT_PFAIL = false → (¬legal ∨ cur &&& v ≠ cur) → Refuses (.fuseProgram n) s n 8) ∧
      (s.crm.flag F.AON_PFAIL_STAT_PFAIL = false → legal → cur &&& v = cur → Answer (.fuseProgram n) s n 0 0 (· = []) fun s' =>
        SameByres s s' ∧ (s'.crm.otpWord w).toNat = v ∧ (s'.crm.lifecycle ≠ s.crm.lifecycle → s'.crm.sess = []))) ∧
    (Due s n 0x0D0A →
      (s.crm.lifecycle ≠ Creamery.lcMAKER → Refuses (.factoryTest n) s n 7) ∧
      (s.crm.lifecycle = Creamery.lcMAKER → Answer (.factoryTest n) s n 0 0 (·.length ≤ 4080) (NoByre s)))

/-- R446 to R448: the commands of the firmware group. -/
def Claims.FirmwareCommands : Prop :=
  ∀ (s : State) (n : Fin 8) (bs im : List Byte),
    let q := s.request n
    let c := s.crm
    let inactive := 1 - c.slot
    (Due s n 0x0E01 → Answer (.fwStatus n) s n 0 0 (fun p => p.length = 40 ∧
      (∀ k < 2, (p.drop (16 * k)).take 1 = leBytes 1 (if (c.fwCheck (c.fwImage k)).isNone then 1 else 0) ∧
        (p.drop (16 * k + 4)).take 4 = leBytes 4 (imgVersion (c.fwImage k))) ∧
      (p.drop 32).take 5 = leBytes 1 c.prefer ++ leBytes 1 (if c.trial then 1 else 0) ++ leBytes 1 c.attempts ++ leBytes 1 c.fwSvn ++
        leBytes 1 c.mcSvn) (NoByre s)) ∧
    (Due s n 0x0E02 →
      (c.trial = true → Refuses (.fwUpdate n ⟨some bs, none⟩) s n 7) ∧
      (c.trial = false → c.mode ≠ 2 → Buffer q 0 0x400000 bs im →
        (∀ st det, c.fwCheck im = some (st, det) → Answer (.fwUpdate n ⟨some bs, none⟩) s n st det (· = []) (NoByre s)) ∧
        (c.fwCheck im = none → declares im 1 stepping = false → Refuses (.fwUpdate n ⟨some bs, none⟩) s n 0xA) ∧
        (c.fwCheck im = none → declares im 1 stepping = true → Answer (.fwUpdate n ⟨some bs, none⟩) s n 0 0 (· = []) fun s' => NoByre s s' ∧
          s'.crm.fwImage inactive = im ∧ (∀ k, k ≠ inactive → s'.crm.fwImage k = c.fwImage k) ∧ inactive ∉ s'.crm.failed)) ∧
      (c.trial = false → c.mode = 2 → Buffer q 0 0x400000 bs im → c.fwCheck im = none → declares im 1 stepping = true →
        ∃ s', exec (.fwUpdate n ⟨some bs, none⟩) s = .next s' ∧ s'.crm.fwImage 0 = im ∧ s'.crm.mode = 0 ∧ s'.crm.up = false)) ∧
    (Due s n 0x0E03 →
      (c.trial = true → Refuses (.fwActivate n) s n 7) ∧
      (c.trial = false → ∃ s', exec (.fwActivate n) s = .next s' ∧ s'.crm.prefer = inactive ∧ s'.crm.trial = true ∧
        s'.crm.attempts = 0 ∧ s'.crm.mode = 0 ∧ s'.crm.up = false ∧ s'.crm.fw = c.fw)) ∧
    (Due s n 0x0E04 →
      (c.trial = true ∨ c.flag F.AON_PFAIL_STAT_PFAIL = true → Refuses (.fwCommit n) s n 7) ∧
      (c.trial = false → c.flag F.AON_PFAIL_STAT_PFAIL = false → ∃ p, Answer (.fwCommit n) s n 0 0 (· = p) fun s' => NoByre s s' ∧
        p = leBytes 1 s'.crm.fwSvn ++ leBytes 1 s'.crm.mcSvn ++ leBytes 2 0 ∧
        c.fwSvn ≤ s'.crm.fwSvn ∧ c.mcSvn ≤ s'.crm.mcSvn ∧ (imgSvn (c.fwImage c.slot) ≤ 64 → imgSvn (c.fwImage c.slot) ≤ s'.crm.fwSvn)))

/-- The commands of the audit, diagnosis and firmware groups.
Conventions of the model used here: assumption log entries 73, 74, 75. -/
def Obligations.AuditAndService : Prop := Claims.AuditCommands ∧ Claims.DiagnosisCommands ∧ Claims.FirmwareCommands

/-- R486 to R490, R501: requests to the power sequencer, the end of a handshake with a mute block, and wake events, which are a
wake input's level as POL names it. -/
def Claims.PowerSequencer : Prop :=
  ∀ (s : State) (b : Fin 6) (m : Master) (v : Word) (mute : BitVec 8) (pg : Bool) (i : Fin 4) (dt : Nat) (high : Bool),
    let y := s.byre b
    let c := Instr.pwrRequest m v mute pg
    let w := v.toNat
    let d := bits w 19 16
    let tgt := bits w 1 0
    let cur := s.crm.dom b d
    let legal := depOk fun k => if k = d then tgt else s.crm.dom b k
    let ask := askBlocks (y.refuses d) mute.toNat (domBlocks d) 0
    let busy := s.crm.flag F.AON_PWR_RESULT_BUSY
    let ends := fun (res blk st : Nat) => ∃ s', exec c s = .next s' ∧ (∀ b', b' ≠ b → s'.byre b' = s.byre b') ∧
      s'.crm.get F.AON_PWR_RESULT_RESULT = res ∧ s'.crm.get F.AON_PWR_RESULT_BLOCK = blk ∧ s'.crm.get F.AON_PWR_RESULT_DOMAIN = d ∧
      s'.crm.flag F.AON_PWR_RESULT_BUSY = false ∧ s'.crm.dom b d = st ∧ ∀ k < 10, k ≠ d → s'.crm.dom b k = s.crm.dom b k
    let result := fun (s' : State) (h : Shake) (res blk : Nat) => s'.byres = s.byres ∧ s'.crm.shake = none ∧
      s'.crm.flag F.AON_PWR_RESULT_BUSY = false ∧ s'.crm.get F.AON_PWR_RESULT_RESULT = res ∧
      s'.crm.get F.AON_PWR_RESULT_BLOCK = blk % 256 ∧ s'.crm.get F.AON_PWR_RESULT_DOMAIN = h.dom % 16
    (s.shut m = true → exec c s = .next s) ∧
    (m ≠ .mp → m ≠ .jtag → s.shut m = false → CrmStep c s fun m' =>
      m'.flag F.CRM_BUS_ERR_UNMAPPED = true ∧ m'.rdN R.AON_PWR_REQ = s.crm.rdN R.AON_PWR_REQ) ∧
    (m = .mp ∨ m = .jtag → s.shut m = false → NoPolicy s b → (tgt ≠ 2 → s.crm.get (F.AON_WAKE_CFG_EN b) = 0) → bit w 31 = true → d ≤ 9 → bits w 11 8 = b → tgt ≤ 2 →
      (busy = true → CrmStep c s fun m' => m'.flag F.AON_PWR_RESULT_REQ_LOST = true ∧ m'.dom b d = cur) ∧
      (busy = false →
        (tgt = cur → ends 0 0 cur) ∧ (tgt ≠ cur → legal = false → ends 2 0xF0 cur) ∧
        (legal = true → cur = 0 → tgt ≠ 0 → pg = false → s.crm.flag (F.AON_VSTAT_PGOOD b) = false → ends 4 0xF2 0) ∧
        (legal = true → cur = 0 → tgt = 2 → pg = true → ends 0 0 2) ∧
        (legal = true → cur = 1 → tgt = 2 → ends 0 0 2) ∧
        (legal = true → cur = 2 → tgt ≤ 1 → ask = none → ends 0 0 tgt) ∧
        (legal = true → cur = 2 → tgt ≤ 1 → ∀ k j, ask = some (k, j, false) → ends 1 k 2) ∧
        (legal = true → cur = 2 → tgt ≤ 1 → ∀ k j, ask = some (k, j, true) → CrmStep c s fun m' =>
          m'.flag F.AON_PWR_RESULT_BUSY = true ∧ m'.dom b d = 2 ∧ ∃ h, m'.shake = some h ∧ h.unit = b ∧ h.dom = d ∧ h.block = k))) ∧
    (s.crm.shake = none → exec .handshakeTimeout s = .next s) ∧
    (∀ h, s.crm.shake = some h → ∃ s', exec .handshakeTimeout s = .next s' ∧ result s' h 1 h.block ∧ h.at_ + 2000 ≤ s'.crm.clk) ∧
    (let wake := Instr.wakeEvent b i dt ⟨high, pg⟩
     let doms := s.crm.get (F.AON_WAKE_CFG_DOMAINS b)
     let seen := bit (s.crm.get (F.AON_WAKE_CFG_EN b)) i && high == bit (s.crm.get (F.AON_WAKE_CFG_POL b)) i
     (seen = false ∨ (s.crm.shake = none ∧ s.on b domFAB = true) → exec wake s = .next (s.onCrm fun m =>
       { m.tick dt with wakePin := SMap.set (fun _ => false) m.wakePin (b * 4 + i) high })) ∧
     (seen = true → ∀ h, s.crm.shake = some h → h.unit = b → bit doms h.dom = true → ∃ s', exec wake s = .next s' ∧ result s' h 3 0xF1) ∧
     (seen = true → s.crm.shake = none → doms = 2 → s.crm.dom b domTIME = 2 → s.crm.dom b domFAB = 1 → NoPolicy s b →
       ∃ s', exec wake s = .next s' ∧ s'.crm.dom b domFAB = 2 ∧ (s'.byre b).st = y.ch.retained ∧
         bit (s'.crm.get (F.AON_WAKE_STAT_PINS b)) i = true ∧ ∀ b', b' ≠ b → s'.byre b' = s.byre b'))

/-- R493 to R498: voltage requests, the fall of PGOOD and the supply monitor. -/
def Claims.Supplies : Prop :=
  ∀ (s : State) (b : Fin 6) (m : Master) (v : Word) (dt : Nat) (acked pg : Bool) (vin : BitVec 16),
    let w := v.toNat
    let ask := Instr.voltageRequest m b v
    let busy := s.crm.flag (F.AON_VSTAT_BUSY b)
    let waits := SMap.get (fun _ => none) s.crm.vreq b
    let faulted := fun (s' : State) => s.on b domFAB = true → (s'.byre b).st = Byre.stFAULTED ∧
      ((s.byre b).flag F.CHURN_MCHK_VALID = false → (s'.byre b).get F.CHURN_MCHK_CAUSE = 7 ∧ (s'.byre b).rdN R.CHURN_MCHK_ADDR = 14)
    (m = .mp ∨ m = .jtag → s.shut m = false →
      (busy = true → bit w 31 = true → exec ask s = .next s) ∧
      (busy = false → s.voltOk b (bits w 30 30) (bits w 10 0) = false → CrmStep ask s fun m' =>
        bit (m'.rdN R.AON_RSV_FLAG) 0 = true ∧
        (bit w 31 = false ∨ s.voltOk b (bits w 30 30) (s.crm.get (F.AON_VREQ_MV b)) = false → m'.vreq = s.crm.vreq)) ∧
      (busy = false → s.voltOk b (bits w 30 30) (bits w 10 0) = true → bit w 31 = true → CrmStep ask s fun m' =>
        m'.flag (F.AON_VSTAT_BUSY b) = true ∧ SMap.get (fun _ => none) m'.vreq b = some ⟨bits w 30 30, bits w 10 0, s.crm.clk⟩)) ∧
    (waits = none → exec (.vreqTimeout b acked pg) s = .next s ∧
      exec (.voltageRequestDone b dt) s = .next (s.onCrm fun c => c.tick dt)) ∧
    (∀ r, waits = some r →
      (r.at_ + 2000000 < s.crm.clk + dt → exec (.voltageRequestDone b dt) s = .next (s.onCrm fun c => c.tick dt)) ∧
      (s.crm.clk + dt ≤ r.at_ + 2000000 → ∃ s', exec (.voltageRequestDone b dt) s = .next s' ∧ NoByre s s' ∧
        s'.crm.flag (F.AON_VSTAT_BUSY b) = false ∧ s'.crm.get (F.AON_VSTAT_RESULT b) = 0 ∧ s'.crm.flag (F.AON_VSTAT_PGOOD b) = true ∧
        (r.rail = 0 → r.mv < 1024 → s'.crm.get (F.AON_VSTAT_CORE_MV b) = r.mv) ∧
        (r.rail ≠ 0 → SMap.get (fun _ => 0) s'.crm.sramMv b = r.mv)) ∧
      (∃ s', exec (.vreqTimeout b acked pg) s = .next s' ∧ s'.crm.flag (F.AON_VSTAT_BUSY b) = false ∧
        s'.crm.get (F.AON_VSTAT_CORE_MV b) = s.crm.get (F.AON_VSTAT_CORE_MV b) ∧
        s'.crm.rdN R.AON_CNT_VREQ_TIMEOUT = (s.crm.rdN R.AON_CNT_VREQ_TIMEOUT + 1) % 2 ^ 32 ∧
        (acked = false ∨ pg = true → s'.byres = s.byres ∧ s'.crm.get (F.AON_VSTAT_RESULT b) = 1) ∧
        (acked = true → pg = false → s'.crm.get (F.AON_VSTAT_RESULT b) = 2 ∧ faulted s'))) ∧
    (s.anyOn b = false ∨ waits ≠ none → exec (.pgoodFall b dt) s =
      .next (s.onCrm fun c => (c.tick dt).put (F.AON_VSTAT_PGOOD b) false)) ∧
    (s.anyOn b = true → waits = none → ∃ s', exec (.pgoodFall b dt) s = .next s' ∧ s'.crm.flag (F.AON_VSTAT_PGOOD b) = false ∧
      s'.crm.get (F.AON_BYRE_RST_LAST b) = 0xA ∧ faulted s' ∧ ∀ b', b' ≠ b → s'.byre b' = s.byre b') ∧
    (let held := s.crm.flag F.AON_PFAIL_STAT_PFAIL
     let thr := s.crm.get F.AON_PFAIL_CFG_THRESH_MV
     let raises := s.crm.flag F.AON_PFAIL_CFG_EN = true ∧ held = false ∧ vin.toNat < thr
     (raises → ∃ s', exec (.pfailRaise dt vin) s = .next s' ∧ s'.crm.flag F.AON_PFAIL_STAT_PFAIL = true ∧
       s'.crm.flag F.AON_PFAIL_STAT_SEEN = true ∧ s'.crm.get F.AON_VIN_MV = vin.toNat ∧
       s'.crm.rdN R.AON_CNT_PFAIL = (s.crm.rdN R.AON_CNT_PFAIL + 1) % 2 ^ 32 ∧ 9 ∈ s'.crm.irqs ∧ s.crm.evNum ≠ s'.crm.evNum) ∧
     (¬raises → CrmStep (.pfailRaise dt vin) s fun c => c.get F.AON_VIN_MV = vin.toNat ∧ c.flag F.AON_PFAIL_STAT_PFAIL = held) ∧
     CrmStep (.pfailClear dt vin) s fun c => c.get F.AON_VIN_MV = vin.toNat ∧
       c.flag F.AON_PFAIL_STAT_PFAIL = (held && decide (vin.toNat < thr + 250)))

/-- The power domains and the supplies.
Conventions of the model used here: assumption log entry 77. -/
def Obligations.PowerAndSupplies : Prop := Claims.PowerSequencer ∧ Claims.Supplies

/-- R14, R437, R446, R447, R449, R458, R462, R497, R500, R502: the start of the creamery and its resets.  The watchdog, creamery_restart and the
loss of its clock leave every byre's state as it is; the reset pin and a JTAG reset turn every domain of every byre off.
Conventions of the model used here: assumption log entries 7, 8, 75, 76. -/
def Obligations.Resets : Prop :=
  ∀ (s : State) (dt : Nat) (flash back rise slow : Bool) (pg : BitVec 6) (id : Word),
    let c := s.crm
    let ok := fun (n : Nat) => (c.fwCheck (c.fwImage n)).isNone = true
    let rel := Instr.creameryResetRelease dt flash
    let held := c.mode ≠ 0 ∨ c.porHeld = true ∨ c.crmClkLost = true ∨ bits (c.rdN R.AON_PWR_STATE_CRM) 1 0 ≠ 2
    let cause := fun (s' : State) (code : Nat) => bit (s'.crm.rdN R.AON_RST_CAUSE) (code - 1) = true ∧
      s'.crm.rdN R.AON_CNT_CRM_RESET = (c.rdN R.AON_CNT_CRM_RESET + 1) % 2 ^ 32 ∧ s'.crm.mode = 0 ∧ s'.crm.up = false ∧
      s'.crm.sess = [] ∧ s'.crm.otp = c.otp ∧ s'.crm.fw = c.fw ∧ s'.crm.chain = c.chain
    let kept := fun (s' : State) => ∀ b, (s'.byre b).st = (s.byre b).st ∧ (s'.byre b).mem = (s.byre b).mem ∧ (s'.byre b).tu = (s.byre b).tu
    let allOff := fun (s' : State) => ∀ b : Fin 6, ∀ d < 10, s'.crm.dom b d = 0
    (held → exec rel s = .next s) ∧
    (¬held →
      (c.lifecycle = Creamery.lcBLANK → CrmStep rel s fun m => m.mode = 1 ∧ m.up = c.up) ∧
      (c.lifecycle ≠ Creamery.lcBLANK → flash = false → CrmStep rel s fun m => m.mode = 2) ∧
      (c.lifecycle ≠ Creamery.lcBLANK → flash = true →
        (c.trial = false → ok c.prefer → CrmStep rel s fun m => m.mode = 3 ∧ m.slot = c.prefer ∧ m.prefer = c.prefer ∧ m.keyHidden = true) ∧
        (c.trial = false → ¬ok c.prefer → ok (1 - c.prefer) → CrmStep rel s fun m => m.mode = 3 ∧ m.slot = 1 - c.prefer) ∧
        (¬ok c.prefer → ¬ok (1 - c.prefer) → c.trial = false → CrmStep rel s fun m => m.mode = 2) ∧
        (c.trial = true → c.attempts < 3 → CrmStep rel s fun m => m.attempts = c.attempts + 1 ∧ m.trial = true ∧ m.prefer = c.prefer) ∧
        (c.trial = true → 3 ≤ c.attempts → CrmStep rel s fun m => m.attempts = 0 ∧ m.trial = false ∧ m.prefer = 1 - c.prefer ∧
          c.prefer ∈ m.failed))) ∧
    (c.mode < 2 → exec .creameryWatchdogExpiry s = .next s) ∧
    (2 ≤ c.mode → ∃ s', exec .creameryWatchdogExpiry s = .next s' ∧ cause s' 3 ∧ kept s') ∧
    (c.mode ≠ 3 ∨ c.up = true → exec (.firmwareStart pg) s = .next s) ∧
    (c.mode = 3 → c.up = false → c.lifecycle ≠ Creamery.lcRETIRED → (∀ b : Fin 6, SMap.get (fun _ => 0) c.autostart b = 0 ∧ NoPolicy s b) →
      ∃ s', exec (.firmwareStart pg) s = .next s' ∧ s'.crm.up = true ∧ s'.crm.trial = false ∧
        ∀ b : Fin 6, (s'.byre b).st = (s.byre b).st ∧ (s.on b domFAB = true → (s'.byre b).evq = [] ∧ (s'.byre b).hostSkips = 0)) ∧
    (∃ s', exec (.sessionTimeout id) s = .next s' ∧ SameByres s s' ∧
      ((∀ x ∈ c.sess, x.id ≠ id.toNat) → s'.crm = c) ∧ s'.crm.sess = c.sess.filter fun x => x.id != id.toNat) ∧
    (∃ s', exec (.powerOnReset ⟨rise, slow⟩) s = .next s' ∧ allOff s' ∧ s'.crm.porHeld = !rise ∧ s'.crm.pmbSlow = (if rise then slow else c.pmbSlow) ∧ s'.crm.rtc = none ∧ s'.crm.mode = 0 ∧
      s'.crm.otp = c.otp ∧ s'.crm.fw = c.fw ∧ s'.crm.chain = c.chain ∧ s'.crm.audit = c.audit ∧ s'.pending = s.pending) ∧
    (∃ s', exec (.crmResetPin dt) s = .next s' ∧ cause s' 2 ∧ allOff s' ∧ ∀ b : Fin 6, s'.crm.get (F.AON_BYRE_RST_LAST b) = 2) ∧
    (∃ s', exec (.crmRefclkLoss dt back) s = .next s' ∧ s'.crm.flag F.AON_CLK_STAT_CRM_CLK_OK = back ∧ kept s' ∧
      s'.crm.crmClkLost = !back ∧
      (back = false → c.crmClkLost = false → cause s' 6 ∧ s'.crm.flag F.AON_CLK_STAT_RTC_DEGRADED = true)) ∧
    (c.dbg = false → exec .jtagSystemReset s = .next s) ∧
    (c.dbg = true → ∃ s', exec .jtagSystemReset s = .next s' ∧ cause s' 7 ∧ allOff s')

namespace Sys2Proof.Machine

/-- Registers of a byre whose reset value the field tables give and is not 0, with that value. -/
def resetTable : List (Nat × Nat) :=
  [(R.TIME_SERVO_CFG, 0x80640A0A), (R.TIME_ERR_BOUND, 0xFFFFFFFF), (R.TIME_PPS_OUT, 0x186A0), (R.TIME_PPS_IN, 0x3E8),
   (R.SW_LINK_TIMING, 0xA000A), (R.SW_DUP_CFG, 0x190), (R.SW_CREDIT 0, 0x1000100), (R.SW_CREDIT 28, 0),
   (R.SW_PORT_GUARD 0, 0x3030), (R.SW_PORT_QDEPTH0 0, 0x20202020), (R.EMU_CTRL, 0x4B00), (R.EMU_LRN_CFG 0, 0x400400),
   (R.ROTA_CTRL, 0x400), (R.ROTA_TOKENS, 0x1000), (R.ROTA_ENG_SLOT0 0, 0x76543210), (R.ROTA_CP_GATE_SEP, 0xFFFFFFFF),
   (R.ROTA_CP_GATE_STR, 0xF), (R.PAIL_QUOTA 0, 0x18000), (R.VAT_OWNER 0, 0x20), (R.TNK_CTRL 0, 0x80000000),
   (R.TNK_STATUS 0, 4), (R.TUG_BULK_OP, 0xFFFF), (R.DRAM_CFG, 0xC0C00), (R.DRAM_REC_WIN, 0x12C012C0), (R.LOCK_ACQ 0, 0)]

/-- The same instruction as a code-store word gives it: a store's collision (R295) is the command's operand, not the word's. -/
def atRest : Instr → Instr
  | .st b e t rt ab seg m _ => .st b e t rt ab seg m false
  | .sth b e t rt ab seg m _ => .sth b e t rt ab seg m false
  | .stb b e t rt ab seg m _ => .stb b e t rt ab seg m false
  | .stp b e t rt ab seg m _ => .stp b e t rt ab seg m false
  | .sta b e t rt ab seg m _ => .sta b e t rt ab seg m false
  | i => i

/-- The commands that reach several byres at once: the resets of the creamery or the whole device (R502), the creamery's way
back (R14), fwd_copy (R149), the supply monitor (R498), temp_read, and a creamery tanker, whose destination may lie in several
byres (R425) and which resets the creamery where a word it reads fails parity (R473). -/
def severalByres : Instr → Prop
  | .powerOnReset _ | .crmResetPin _ | .creameryWatchdogExpiry | .crmRefclkLoss _ _ | .jtagSystemReset | .creameryRestart _
  | .fwActivate _ | .fwUpdate .. | .firmwareStart _ | .fwdCopy .. | .pfailRaise _ _ | .tempRead .. => True
  | .descriptorComplete _ n _ _ | .tnkAbort _ _ n _ _ | .tnkDoorbell _ _ n | .tnkDisable _ _ n => 16 ≤ n.val
  | .registerWrite _ a _ => ∃ k : Fin 8, a.toNat / 4 = R.CRM_TNK_CTRL k / 4
  | _ => False

/-- Nothing of the byre changes; events that wait go to the event queue (R14), and its engines see whether debug is unlocked (R459). -/
def Byre.Untouched (y y' : Byre) : Prop := y' = { y with evq := y'.evq, unlocked := y'.unlocked }

end Sys2Proof.Machine

/-- A step is exec of the command at the front of the queue on the state with the queue's rest.  On an empty queue the management
processor executes one instruction of its own (R251), and the block idles while that is not running (assumption log entry 1,
DESIGN CHOICE). -/
def Obligations.StepTakesTheFront : Prop :=
  ∀ (s : State) (c : Instr) (rest : List Instr),
    (s.pending = c :: rest → step s = exec c { s with pending := rest }) ∧ (s.pending = [] → step s = .next s.mpStep) ∧
    (s.pending = [] → s.crm.mode ≠ 3 ∨ s.crm.mp.released = false ∨ s.crm.mp.halted = true → step s = .next s)

/-- R452, R485, R501 to R504, R523: right after power-on reset every domain of every byre is off, CRM and AON are on, the causes
recorded are power-on's alone, the coarse clock and the training store are empty, LIFECYCLE is FIELD-UNCLAIMED, and registers read the
reset values of their tables.  That everything addressed is canonical and the queue empty is the model's own.
Conventions of the model used here: assumption log entries 2, 7. -/
def Obligations.ResetState : Prop :=
  State.reset.wf = true ∧ State.reset.pending = [] ∧
    State.reset.crm.rdN R.AON_RST_CAUSE = 1 ∧ State.reset.crm.rdN R.AON_PWR_STATE_CRM = 0xA ∧ State.reset.crm.rtc = none ∧
    State.reset.crm.rdN R.AON_CNT_CRM_RESET = 0 ∧ State.reset.crm.lifecycle = Creamery.lcUNCLAIMED ∧ State.reset.crm.get F.AON_PFAIL_CFG_THRESH_MV = 9000 ∧
    ∀ b : Fin 6, State.reset.crm.rdN (R.AON_PWR_STATE b) = 0 ∧ State.reset.crm.get (F.AON_BYRE_RST_LAST b) = 1 ∧
      (State.reset.byre b).train = [] ∧ ∀ p ∈ resetTable, (State.reset.byre b).rdN p.1 = p.2

/-- R220 to R241, R261, R272: the decoder and the encoder of the engine instructions agree.  A word that decodes is the word of
its instruction, which is well formed; and the word of a well-formed instruction decodes to it, for its own byre, engine and
thread. -/
def Obligations.EngineEncoding : Prop :=
  (∀ (b : Fin 6) (e : Fin 32) (t : Fin 8) (w : Word) (i : Instr), decodeEng b e t w = some i →
    encodeEng i = some w ∧ i.wellFormed = true) ∧
  (∀ (i : Instr) (w : Word), i.wellFormed = true → encodeEng i = some w → ∃ b e t, decodeEng b e t w = some (atRest i))

/-- R12, R13, R193: an engine instruction changes nothing but its own byre, from which waiting events go to the creamery's
event queue; and where its thread cannot issue it, because a domain is off, the thread has no slot or the next word is
another, it changes nothing at all.
Conventions of the model used here: assumption log entry 6. -/
def Obligations.EngineIsolation : Prop :=
  ∀ (s : State) (b : Fin 6) (e : Fin 32) (t : Fin 8) (w : Word) (i : Instr),
    decodeEng b e t w = some (atRest i) →
      (s.engOn b e = false → exec i s = .next s) ∧
      (s.engOn b e = true → ∃ y', exec i s = .next ((s.setByre b y').drain b)) ∧
      (s.engOn b e = true → ((s.byre b).thread e t).canIssue = false ∨
        decodeEng b e t ((s.byre b).codeWord e ((s.byre b).thread e t).pc) ≠ some (atRest i) → exec i s = .next (s.drain b))

/-- R450: a fuse that has been blown stays blown; and no command changes the commands that wait behind it.  Every command of the
table completes, and keeps both, in every state. -/
def Obligations.FusesAndQueue : Prop :=
  ∀ (s : State) (c : Instr), ∃ s', exec c s = .next s' ∧ s'.pending = s.pending ∧
    ∀ o k, ((SMap.get (fun _ => 0#32) s.crm.otp o).getLsbD k = true → (SMap.get (fun _ => 0#32) s'.crm.otp o).getLsbD k = true)

/-- R12, R13: the byres are separate.  But for the commands that the spec gives an effect on several, every command changes at
most one byre; of the others only events that waited go to the event queue (R14), and their engines see whether debug is unlocked (R459). -/
def Obligations.ByresAreSeparate : Prop :=
  ∀ (s s' : State) (c : Instr), ¬severalByres c → exec c s = .next s' → ∃ b, ∀ b', b' ≠ b → (s.byre b').Untouched (s'.byre b')
end

