-- ==== Sys2Proof/Laws/State.lean ====
section
/-!
SUPPORT. The small lemmas of State: what each named update makes of each field, so that no later proof unfolds a record.
-/

namespace Sys2Proof.Machine

/-! ### A register write of a byre -/

@[simp] theorem Byre.wr_num (y : Byre) (o : Nat) (w : Word) : (y.wr o w).num = y.num := rfl
@[simp] theorem Byre.wr_mem (y : Byre) (o : Nat) (w : Word) : (y.wr o w).mem = y.mem := rfl
@[simp] theorem Byre.wr_badPar (y : Byre) (o : Nat) (w : Word) : (y.wr o w).badPar = y.badPar := rfl
@[simp] theorem Byre.wr_softPar (y : Byre) (o : Nat) (w : Word) : (y.wr o w).softPar = y.softPar := rfl
@[simp] theorem Byre.wr_tu (y : Byre) (o : Nat) (w : Word) : (y.wr o w).tu = y.tu := rfl
@[simp] theorem Byre.wr_ch (y : Byre) (o : Nat) (w : Word) : (y.wr o w).ch = y.ch := rfl
@[simp] theorem Byre.wr_thr (y : Byre) (o : Nat) (w : Word) : (y.wr o w).thr = y.thr := rfl
@[simp] theorem Byre.wr_eng (y : Byre) (o : Nat) (w : Word) : (y.wr o w).eng = y.eng := rfl
@[simp] theorem Byre.wr_engCyc (y : Byre) (o : Nat) (w : Word) : (y.wr o w).engCyc = y.engCyc := rfl
@[simp] theorem Byre.wr_slotOld (y : Byre) (o : Nat) (w : Word) : (y.wr o w).slotOld = y.slotOld := rfl
@[simp] theorem Byre.wr_rota (y : Byre) (o : Nat) (w : Word) : (y.wr o w).rota = y.rota := rfl
@[simp] theorem Byre.wr_scratch (y : Byre) (o : Nat) (w : Word) : (y.wr o w).scratch = y.scratch := rfl
@[simp] theorem Byre.wr_staged (y : Byre) (o : Nat) (w : Word) : (y.wr o w).staged = y.staged := rfl
@[simp] theorem Byre.wr_results (y : Byre) (o : Nat) (w : Word) : (y.wr o w).results = y.results := rfl
@[simp] theorem Byre.wr_shown (y : Byre) (o : Nat) (w : Word) : (y.wr o w).shown = y.shown := rfl
@[simp] theorem Byre.wr_keys (y : Byre) (o : Nat) (w : Word) : (y.wr o w).keys = y.keys := rfl
@[simp] theorem Byre.wr_poolHead (y : Byre) (o : Nat) (w : Word) : (y.wr o w).poolHead = y.poolHead := rfl
@[simp] theorem Byre.wr_poolScan (y : Byre) (o : Nat) (w : Word) : (y.wr o w).poolScan = y.poolScan := rfl
@[simp] theorem Byre.wr_hostWr (y : Byre) (o : Nat) (w : Word) : (y.wr o w).hostWr = y.hostWr := rfl
@[simp] theorem Byre.wr_charge (y : Byre) (o : Nat) (w : Word) : (y.wr o w).charge = y.charge := rfl
@[simp] theorem Byre.wr_wakeAt (y : Byre) (o : Nat) (w : Word) : (y.wr o w).wakeAt = y.wakeAt := rfl
@[simp] theorem Byre.wr_waiters (y : Byre) (o : Nat) (w : Word) : (y.wr o w).waiters = y.waiters := rfl
@[simp] theorem Byre.wr_inq (y : Byre) (o : Nat) (w : Word) : (y.wr o w).inq = y.inq := rfl
@[simp] theorem Byre.wr_copies (y : Byre) (o : Nat) (w : Word) : (y.wr o w).copies = y.copies := rfl
@[simp] theorem Byre.wr_outq (y : Byre) (o : Nat) (w : Word) : (y.wr o w).outq = y.outq := rfl
@[simp] theorem Byre.wr_line (y : Byre) (o : Nat) (w : Word) : (y.wr o w).line = y.line := rfl
@[simp] theorem Byre.wr_sent (y : Byre) (o : Nat) (w : Word) : (y.wr o w).sent = y.sent := rfl
@[simp] theorem Byre.wr_slotNo (y : Byre) (o : Nat) (w : Word) : (y.wr o w).slotNo = y.slotNo := rfl
@[simp] theorem Byre.wr_cells (y : Byre) (o : Nat) (w : Word) : (y.wr o w).cells = y.cells := rfl
@[simp] theorem Byre.wr_served (y : Byre) (o : Nat) (w : Word) : (y.wr o w).served = y.served := rfl
@[simp] theorem Byre.wr_cellNo (y : Byre) (o : Nat) (w : Word) : (y.wr o w).cellNo = y.cellNo := rfl
@[simp] theorem Byre.wr_cellDue (y : Byre) (o : Nat) (w : Word) : (y.wr o w).cellDue = y.cellDue := rfl
@[simp] theorem Byre.wr_copyNo (y : Byre) (o : Nat) (w : Word) : (y.wr o w).copyNo = y.copyNo := rfl
@[simp] theorem Byre.wr_authNo (y : Byre) (o : Nat) (w : Word) : (y.wr o w).authNo = y.authNo := rfl
@[simp] theorem Byre.wr_pailTag (y : Byre) (o : Nat) (w : Word) : (y.wr o w).pailTag = y.pailTag := rfl
@[simp] theorem Byre.wr_deficit (y : Byre) (o : Nat) (w : Word) : (y.wr o w).deficit = y.deficit := rfl
@[simp] theorem Byre.wr_pairSeq (y : Byre) (o : Nat) (w : Word) : (y.wr o w).pairSeq = y.pairSeq := rfl
@[simp] theorem Byre.wr_pailNo (y : Byre) (o : Nat) (w : Word) : (y.wr o w).pailNo = y.pailNo := rfl
@[simp] theorem Byre.wr_dup (y : Byre) (o : Nat) (w : Word) : (y.wr o w).dup = y.dup := rfl
@[simp] theorem Byre.wr_smp (y : Byre) (o : Nat) (w : Word) : (y.wr o w).smp = y.smp := rfl
@[simp] theorem Byre.wr_tallyQ (y : Byre) (o : Nat) (w : Word) : (y.wr o w).tallyQ = y.tallyQ := rfl
@[simp] theorem Byre.wr_tallyNew (y : Byre) (o : Nat) (w : Word) : (y.wr o w).tallyNew = y.tallyNew := rfl
@[simp] theorem Byre.wr_octHi (y : Byre) (o : Nat) (w : Word) : (y.wr o w).octHi = y.octHi := rfl
@[simp] theorem Byre.wr_skim (y : Byre) (o : Nat) (w : Word) : (y.wr o w).skim = y.skim := rfl
@[simp] theorem Byre.wr_frag (y : Byre) (o : Nat) (w : Word) : (y.wr o w).frag = y.frag := rfl
@[simp] theorem Byre.wr_emu (y : Byre) (o : Nat) (w : Word) : (y.wr o w).emu = y.emu := rfl
@[simp] theorem Byre.wr_lrn (y : Byre) (o : Nat) (w : Word) : (y.wr o w).lrn = y.lrn := rfl
@[simp] theorem Byre.wr_notes (y : Byre) (o : Nat) (w : Word) : (y.wr o w).notes = y.notes := rfl
@[simp] theorem Byre.wr_ptab (y : Byre) (o : Nat) (w : Word) : (y.wr o w).ptab = y.ptab := rfl
@[simp] theorem Byre.wr_pressq (y : Byre) (o : Nat) (w : Word) : (y.wr o w).pressq = y.pressq := rfl
@[simp] theorem Byre.wr_memb (y : Byre) (o : Nat) (w : Word) : (y.wr o w).memb = y.memb := rfl
@[simp] theorem Byre.wr_recs (y : Byre) (o : Nat) (w : Word) : (y.wr o w).recs = y.recs := rfl
@[simp] theorem Byre.wr_grp (y : Byre) (o : Nat) (w : Word) : (y.wr o w).grp = y.grp := rfl
@[simp] theorem Byre.wr_sealq (y : Byre) (o : Nat) (w : Word) : (y.wr o w).sealq = y.sealq := rfl
@[simp] theorem Byre.wr_sealEnd (y : Byre) (o : Nat) (w : Word) : (y.wr o w).sealEnd = y.sealEnd := rfl
@[simp] theorem Byre.wr_fresh (y : Byre) (o : Nat) (w : Word) : (y.wr o w).fresh = y.fresh := rfl
@[simp] theorem Byre.wr_lateq (y : Byre) (o : Nat) (w : Word) : (y.wr o w).lateq = y.lateq := rfl
@[simp] theorem Byre.wr_bq (y : Byre) (o : Nat) (w : Word) : (y.wr o w).bq = y.bq := rfl
@[simp] theorem Byre.wr_skips (y : Byre) (o : Nat) (w : Word) : (y.wr o w).skips = y.skips := rfl
@[simp] theorem Byre.wr_cal (y : Byre) (o : Nat) (w : Word) : (y.wr o w).cal = y.cal := rfl
@[simp] theorem Byre.wr_goDec (y : Byre) (o : Nat) (w : Word) : (y.wr o w).goDec = y.goDec := rfl
@[simp] theorem Byre.wr_pubTab (y : Byre) (o : Nat) (w : Word) : (y.wr o w).pubTab = y.pubTab := rfl
@[simp] theorem Byre.wr_pubSt (y : Byre) (o : Nat) (w : Word) : (y.wr o w).pubSt = y.pubSt := rfl
@[simp] theorem Byre.wr_subTab (y : Byre) (o : Nat) (w : Word) : (y.wr o w).subTab = y.subTab := rfl
@[simp] theorem Byre.wr_subSt (y : Byre) (o : Nat) (w : Word) : (y.wr o w).subSt = y.subSt := rfl
@[simp] theorem Byre.wr_retxq (y : Byre) (o : Nat) (w : Word) : (y.wr o w).retxq = y.retxq := rfl
@[simp] theorem Byre.wr_pinEnd (y : Byre) (o : Nat) (w : Word) : (y.wr o w).pinEnd = y.pinEnd := rfl
@[simp] theorem Byre.wr_caps (y : Byre) (o : Nat) (w : Word) : (y.wr o w).caps = y.caps := rfl
@[simp] theorem Byre.wr_dram (y : Byre) (o : Nat) (w : Word) : (y.wr o w).dram = y.dram := rfl
@[simp] theorem Byre.wr_dramGen (y : Byre) (o : Nat) (w : Word) : (y.wr o w).dramGen = y.dramGen := rfl
@[simp] theorem Byre.wr_dramChk (y : Byre) (o : Nat) (w : Word) : (y.wr o w).dramChk = y.dramChk := rfl
@[simp] theorem Byre.wr_nbrGen (y : Byre) (o : Nat) (w : Word) : (y.wr o w).nbrGen = y.nbrGen := rfl
@[simp] theorem Byre.wr_train (y : Byre) (o : Nat) (w : Word) : (y.wr o w).train = y.train := rfl
@[simp] theorem Byre.wr_trainDone (y : Byre) (o : Nat) (w : Word) : (y.wr o w).trainDone = y.trainDone := rfl
@[simp] theorem Byre.wr_rcd (y : Byre) (o : Nat) (w : Word) : (y.wr o w).rcd = y.rcd := rfl
@[simp] theorem Byre.wr_ingq (y : Byre) (o : Nat) (w : Word) : (y.wr o w).ingq = y.ingq := rfl
@[simp] theorem Byre.wr_tug (y : Byre) (o : Nat) (w : Word) : (y.wr o w).tug = y.tug := rfl
@[simp] theorem Byre.wr_canq (y : Byre) (o : Nat) (w : Word) : (y.wr o w).canq = y.canq := rfl
@[simp] theorem Byre.wr_canPail (y : Byre) (o : Nat) (w : Word) : (y.wr o w).canPail = y.canPail := rfl
@[simp] theorem Byre.wr_ctlRx (y : Byre) (o : Nat) (w : Word) : (y.wr o w).ctlRx = y.ctlRx := rfl
@[simp] theorem Byre.wr_tunq (y : Byre) (o : Nat) (w : Word) : (y.wr o w).tunq = y.tunq := rfl
@[simp] theorem Byre.wr_tunEvt (y : Byre) (o : Nat) (w : Word) : (y.wr o w).tunEvt = y.tunEvt := rfl
@[simp] theorem Byre.wr_tunInj (y : Byre) (o : Nat) (w : Word) : (y.wr o w).tunInj = y.tunInj := rfl
@[simp] theorem Byre.wr_shrTab (y : Byre) (o : Nat) (w : Word) : (y.wr o w).shrTab = y.shrTab := rfl
@[simp] theorem Byre.wr_shares (y : Byre) (o : Nat) (w : Word) : (y.wr o w).shares = y.shares := rfl
@[simp] theorem Byre.wr_shareRun (y : Byre) (o : Nat) (w : Word) : (y.wr o w).shareRun = y.shareRun := rfl
@[simp] theorem Byre.wr_herd (y : Byre) (o : Nat) (w : Word) : (y.wr o w).herd = y.herd := rfl
@[simp] theorem Byre.wr_tnkAt (y : Byre) (o : Nat) (w : Word) : (y.wr o w).tnkAt = y.tnkAt := rfl
@[simp] theorem Byre.wr_hostSkips (y : Byre) (o : Nat) (w : Word) : (y.wr o w).hostSkips = y.hostSkips := rfl
@[simp] theorem Byre.wr_evq (y : Byre) (o : Nat) (w : Word) : (y.wr o w).evq = y.evq := rfl
@[simp] theorem Byre.wr_evDrop (y : Byre) (o : Nat) (w : Word) : (y.wr o w).evDrop = y.evDrop := rfl
@[simp] theorem Byre.wr_unlocked (y : Byre) (o : Nat) (w : Word) : (y.wr o w).unlocked = y.unlocked := rfl
@[simp] theorem Byre.wr_free (y : Byre) (o : Nat) (w : Word) : (y.wr o w).free = y.free := rfl

/-! ### A thread of a byre -/

@[simp] theorem Byre.setThread_num (y : Byre) (e t : Nat) (th : Thr) : (y.setThread e t th).num = y.num := rfl
@[simp] theorem Byre.setThread_regs (y : Byre) (e t : Nat) (th : Thr) : (y.setThread e t th).regs = y.regs := rfl
@[simp] theorem Byre.setThread_mem (y : Byre) (e t : Nat) (th : Thr) : (y.setThread e t th).mem = y.mem := rfl
@[simp] theorem Byre.setThread_badPar (y : Byre) (e t : Nat) (th : Thr) : (y.setThread e t th).badPar = y.badPar := rfl
@[simp] theorem Byre.setThread_softPar (y : Byre) (e t : Nat) (th : Thr) : (y.setThread e t th).softPar = y.softPar := rfl
@[simp] theorem Byre.setThread_tu (y : Byre) (e t : Nat) (th : Thr) : (y.setThread e t th).tu = y.tu := rfl
@[simp] theorem Byre.setThread_ch (y : Byre) (e t : Nat) (th : Thr) : (y.setThread e t th).ch = y.ch := rfl
@[simp] theorem Byre.setThread_eng (y : Byre) (e t : Nat) (th : Thr) : (y.setThread e t th).eng = y.eng := rfl
@[simp] theorem Byre.setThread_engCyc (y : Byre) (e t : Nat) (th : Thr) : (y.setThread e t th).engCyc = y.engCyc := rfl
@[simp] theorem Byre.setThread_slotOld (y : Byre) (e t : Nat) (th : Thr) : (y.setThread e t th).slotOld = y.slotOld := rfl
@[simp] theorem Byre.setThread_rota (y : Byre) (e t : Nat) (th : Thr) : (y.setThread e t th).rota = y.rota := rfl
@[simp] theorem Byre.setThread_scratch (y : Byre) (e t : Nat) (th : Thr) : (y.setThread e t th).scratch = y.scratch := rfl
@[simp] theorem Byre.setThread_staged (y : Byre) (e t : Nat) (th : Thr) : (y.setThread e t th).staged = y.staged := rfl
@[simp] theorem Byre.setThread_results (y : Byre) (e t : Nat) (th : Thr) : (y.setThread e t th).results = y.results := rfl
@[simp] theorem Byre.setThread_shown (y : Byre) (e t : Nat) (th : Thr) : (y.setThread e t th).shown = y.shown := rfl
@[simp] theorem Byre.setThread_keys (y : Byre) (e t : Nat) (th : Thr) : (y.setThread e t th).keys = y.keys := rfl
@[simp] theorem Byre.setThread_poolHead (y : Byre) (e t : Nat) (th : Thr) : (y.setThread e t th).poolHead = y.poolHead := rfl
@[simp] theorem Byre.setThread_poolScan (y : Byre) (e t : Nat) (th : Thr) : (y.setThread e t th).poolScan = y.poolScan := rfl
@[simp] theorem Byre.setThread_hostWr (y : Byre) (e t : Nat) (th : Thr) : (y.setThread e t th).hostWr = y.hostWr := rfl
@[simp] theorem Byre.setThread_charge (y : Byre) (e t : Nat) (th : Thr) : (y.setThread e t th).charge = y.charge := rfl
@[simp] theorem Byre.setThread_wakeAt (y : Byre) (e t : Nat) (th : Thr) : (y.setThread e t th).wakeAt = y.wakeAt := rfl
@[simp] theorem Byre.setThread_waiters (y : Byre) (e t : Nat) (th : Thr) : (y.setThread e t th).waiters = y.waiters := rfl
@[simp] theorem Byre.setThread_inq (y : Byre) (e t : Nat) (th : Thr) : (y.setThread e t th).inq = y.inq := rfl
@[simp] theorem Byre.setThread_copies (y : Byre) (e t : Nat) (th : Thr) : (y.setThread e t th).copies = y.copies := rfl
@[simp] theorem Byre.setThread_outq (y : Byre) (e t : Nat) (th : Thr) : (y.setThread e t th).outq = y.outq := rfl
@[simp] theorem Byre.setThread_line (y : Byre) (e t : Nat) (th : Thr) : (y.setThread e t th).line = y.line := rfl
@[simp] theorem Byre.setThread_sent (y : Byre) (e t : Nat) (th : Thr) : (y.setThread e t th).sent = y.sent := rfl
@[simp] theorem Byre.setThread_slotNo (y : Byre) (e t : Nat) (th : Thr) : (y.setThread e t th).slotNo = y.slotNo := rfl
@[simp] theorem Byre.setThread_cells (y : Byre) (e t : Nat) (th : Thr) : (y.setThread e t th).cells = y.cells := rfl
@[simp] theorem Byre.setThread_served (y : Byre) (e t : Nat) (th : Thr) : (y.setThread e t th).served = y.served := rfl
@[simp] theorem Byre.setThread_cellNo (y : Byre) (e t : Nat) (th : Thr) : (y.setThread e t th).cellNo = y.cellNo := rfl
@[simp] theorem Byre.setThread_cellDue (y : Byre) (e t : Nat) (th : Thr) : (y.setThread e t th).cellDue = y.cellDue := rfl
@[simp] theorem Byre.setThread_copyNo (y : Byre) (e t : Nat) (th : Thr) : (y.setThread e t th).copyNo = y.copyNo := rfl
@[simp] theorem Byre.setThread_authNo (y : Byre) (e t : Nat) (th : Thr) : (y.setThread e t th).authNo = y.authNo := rfl
@[simp] theorem Byre.setThread_pailTag (y : Byre) (e t : Nat) (th : Thr) : (y.setThread e t th).pailTag = y.pailTag := rfl
@[simp] theorem Byre.setThread_deficit (y : Byre) (e t : Nat) (th : Thr) : (y.setThread e t th).deficit = y.deficit := rfl
@[simp] theorem Byre.setThread_pairSeq (y : Byre) (e t : Nat) (th : Thr) : (y.setThread e t th).pairSeq = y.pairSeq := rfl
@[simp] theorem Byre.setThread_pailNo (y : Byre) (e t : Nat) (th : Thr) : (y.setThread e t th).pailNo = y.pailNo := rfl
@[simp] theorem Byre.setThread_dup (y : Byre) (e t : Nat) (th : Thr) : (y.setThread e t th).dup = y.dup := rfl
@[simp] theorem Byre.setThread_smp (y : Byre) (e t : Nat) (th : Thr) : (y.setThread e t th).smp = y.smp := rfl
@[simp] theorem Byre.setThread_tallyQ (y : Byre) (e t : Nat) (th : Thr) : (y.setThread e t th).tallyQ = y.tallyQ := rfl
@[simp] theorem Byre.setThread_tallyNew (y : Byre) (e t : Nat) (th : Thr) : (y.setThread e t th).tallyNew = y.tallyNew := rfl
@[simp] theorem Byre.setThread_octHi (y : Byre) (e t : Nat) (th : Thr) : (y.setThread e t th).octHi = y.octHi := rfl
@[simp] theorem Byre.setThread_skim (y : Byre) (e t : Nat) (th : Thr) : (y.setThread e t th).skim = y.skim := rfl
@[simp] theorem Byre.setThread_frag (y : Byre) (e t : Nat) (th : Thr) : (y.setThread e t th).frag = y.frag := rfl
@[simp] theorem Byre.setThread_emu (y : Byre) (e t : Nat) (th : Thr) : (y.setThread e t th).emu = y.emu := rfl
@[simp] theorem Byre.setThread_lrn (y : Byre) (e t : Nat) (th : Thr) : (y.setThread e t th).lrn = y.lrn := rfl
@[simp] theorem Byre.setThread_notes (y : Byre) (e t : Nat) (th : Thr) : (y.setThread e t th).notes = y.notes := rfl
@[simp] theorem Byre.setThread_ptab (y : Byre) (e t : Nat) (th : Thr) : (y.setThread e t th).ptab = y.ptab := rfl
@[simp] theorem Byre.setThread_pressq (y : Byre) (e t : Nat) (th : Thr) : (y.setThread e t th).pressq = y.pressq := rfl
@[simp] theorem Byre.setThread_memb (y : Byre) (e t : Nat) (th : Thr) : (y.setThread e t th).memb = y.memb := rfl
@[simp] theorem Byre.setThread_recs (y : Byre) (e t : Nat) (th : Thr) : (y.setThread e t th).recs = y.recs := rfl
@[simp] theorem Byre.setThread_grp (y : Byre) (e t : Nat) (th : Thr) : (y.setThread e t th).grp = y.grp := rfl
@[simp] theorem Byre.setThread_sealq (y : Byre) (e t : Nat) (th : Thr) : (y.setThread e t th).sealq = y.sealq := rfl
@[simp] theorem Byre.setThread_sealEnd (y : Byre) (e t : Nat) (th : Thr) : (y.setThread e t th).sealEnd = y.sealEnd := rfl
@[simp] theorem Byre.setThread_fresh (y : Byre) (e t : Nat) (th : Thr) : (y.setThread e t th).fresh = y.fresh := rfl
@[simp] theorem Byre.setThread_lateq (y : Byre) (e t : Nat) (th : Thr) : (y.setThread e t th).lateq = y.lateq := rfl
@[simp] theorem Byre.setThread_bq (y : Byre) (e t : Nat) (th : Thr) : (y.setThread e t th).bq = y.bq := rfl
@[simp] theorem Byre.setThread_skips (y : Byre) (e t : Nat) (th : Thr) : (y.setThread e t th).skips = y.skips := rfl
@[simp] theorem Byre.setThread_cal (y : Byre) (e t : Nat) (th : Thr) : (y.setThread e t th).cal = y.cal := rfl
@[simp] theorem Byre.setThread_goDec (y : Byre) (e t : Nat) (th : Thr) : (y.setThread e t th).goDec = y.goDec := rfl
@[simp] theorem Byre.setThread_pubTab (y : Byre) (e t : Nat) (th : Thr) : (y.setThread e t th).pubTab = y.pubTab := rfl
@[simp] theorem Byre.setThread_pubSt (y : Byre) (e t : Nat) (th : Thr) : (y.setThread e t th).pubSt = y.pubSt := rfl
@[simp] theorem Byre.setThread_subTab (y : Byre) (e t : Nat) (th : Thr) : (y.setThread e t th).subTab = y.subTab := rfl
@[simp] theorem Byre.setThread_subSt (y : Byre) (e t : Nat) (th : Thr) : (y.setThread e t th).subSt = y.subSt := rfl
@[simp] theorem Byre.setThread_retxq (y : Byre) (e t : Nat) (th : Thr) : (y.setThread e t th).retxq = y.retxq := rfl
@[simp] theorem Byre.setThread_pinEnd (y : Byre) (e t : Nat) (th : Thr) : (y.setThread e t th).pinEnd = y.pinEnd := rfl
@[simp] theorem Byre.setThread_caps (y : Byre) (e t : Nat) (th : Thr) : (y.setThread e t th).caps = y.caps := rfl
@[simp] theorem Byre.setThread_dram (y : Byre) (e t : Nat) (th : Thr) : (y.setThread e t th).dram = y.dram := rfl
@[simp] theorem Byre.setThread_dramGen (y : Byre) (e t : Nat) (th : Thr) : (y.setThread e t th).dramGen = y.dramGen := rfl
@[simp] theorem Byre.setThread_dramChk (y : Byre) (e t : Nat) (th : Thr) : (y.setThread e t th).dramChk = y.dramChk := rfl
@[simp] theorem Byre.setThread_nbrGen (y : Byre) (e t : Nat) (th : Thr) : (y.setThread e t th).nbrGen = y.nbrGen := rfl
@[simp] theorem Byre.setThread_train (y : Byre) (e t : Nat) (th : Thr) : (y.setThread e t th).train = y.train := rfl
@[simp] theorem Byre.setThread_trainDone (y : Byre) (e t : Nat) (th : Thr) : (y.setThread e t th).trainDone = y.trainDone := rfl
@[simp] theorem Byre.setThread_rcd (y : Byre) (e t : Nat) (th : Thr) : (y.setThread e t th).rcd = y.rcd := rfl
@[simp] theorem Byre.setThread_ingq (y : Byre) (e t : Nat) (th : Thr) : (y.setThread e t th).ingq = y.ingq := rfl
@[simp] theorem Byre.setThread_tug (y : Byre) (e t : Nat) (th : Thr) : (y.setThread e t th).tug = y.tug := rfl
@[simp] theorem Byre.setThread_canq (y : Byre) (e t : Nat) (th : Thr) : (y.setThread e t th).canq = y.canq := rfl
@[simp] theorem Byre.setThread_canPail (y : Byre) (e t : Nat) (th : Thr) : (y.setThread e t th).canPail = y.canPail := rfl
@[simp] theorem Byre.setThread_ctlRx (y : Byre) (e t : Nat) (th : Thr) : (y.setThread e t th).ctlRx = y.ctlRx := rfl
@[simp] theorem Byre.setThread_tunq (y : Byre) (e t : Nat) (th : Thr) : (y.setThread e t th).tunq = y.tunq := rfl
@[simp] theorem Byre.setThread_tunEvt (y : Byre) (e t : Nat) (th : Thr) : (y.setThread e t th).tunEvt = y.tunEvt := rfl
@[simp] theorem Byre.setThread_tunInj (y : Byre) (e t : Nat) (th : Thr) : (y.setThread e t th).tunInj = y.tunInj := rfl
@[simp] theorem Byre.setThread_shrTab (y : Byre) (e t : Nat) (th : Thr) : (y.setThread e t th).shrTab = y.shrTab := rfl
@[simp] theorem Byre.setThread_shares (y : Byre) (e t : Nat) (th : Thr) : (y.setThread e t th).shares = y.shares := rfl
@[simp] theorem Byre.setThread_shareRun (y : Byre) (e t : Nat) (th : Thr) : (y.setThread e t th).shareRun = y.shareRun := rfl
@[simp] theorem Byre.setThread_herd (y : Byre) (e t : Nat) (th : Thr) : (y.setThread e t th).herd = y.herd := rfl
@[simp] theorem Byre.setThread_tnkAt (y : Byre) (e t : Nat) (th : Thr) : (y.setThread e t th).tnkAt = y.tnkAt := rfl
@[simp] theorem Byre.setThread_hostSkips (y : Byre) (e t : Nat) (th : Thr) : (y.setThread e t th).hostSkips = y.hostSkips := rfl
@[simp] theorem Byre.setThread_evq (y : Byre) (e t : Nat) (th : Thr) : (y.setThread e t th).evq = y.evq := rfl
@[simp] theorem Byre.setThread_evDrop (y : Byre) (e t : Nat) (th : Thr) : (y.setThread e t th).evDrop = y.evDrop := rfl
@[simp] theorem Byre.setThread_unlocked (y : Byre) (e t : Nat) (th : Thr) : (y.setThread e t th).unlocked = y.unlocked := rfl
@[simp] theorem Byre.setThread_free (y : Byre) (e t : Nat) (th : Thr) : (y.setThread e t th).free = y.free := rfl

/-! ### An engine of a byre -/

@[simp] theorem Byre.setEngine_num (y : Byre) (e : Nat) (g : Eng) : (y.setEngine e g).num = y.num := rfl
@[simp] theorem Byre.setEngine_regs (y : Byre) (e : Nat) (g : Eng) : (y.setEngine e g).regs = y.regs := rfl
@[simp] theorem Byre.setEngine_mem (y : Byre) (e : Nat) (g : Eng) : (y.setEngine e g).mem = y.mem := rfl
@[simp] theorem Byre.setEngine_badPar (y : Byre) (e : Nat) (g : Eng) : (y.setEngine e g).badPar = y.badPar := rfl
@[simp] theorem Byre.setEngine_softPar (y : Byre) (e : Nat) (g : Eng) : (y.setEngine e g).softPar = y.softPar := rfl
@[simp] theorem Byre.setEngine_tu (y : Byre) (e : Nat) (g : Eng) : (y.setEngine e g).tu = y.tu := rfl
@[simp] theorem Byre.setEngine_ch (y : Byre) (e : Nat) (g : Eng) : (y.setEngine e g).ch = y.ch := rfl
@[simp] theorem Byre.setEngine_thr (y : Byre) (e : Nat) (g : Eng) : (y.setEngine e g).thr = y.thr := rfl
@[simp] theorem Byre.setEngine_engCyc (y : Byre) (e : Nat) (g : Eng) : (y.setEngine e g).engCyc = y.engCyc := rfl
@[simp] theorem Byre.setEngine_slotOld (y : Byre) (e : Nat) (g : Eng) : (y.setEngine e g).slotOld = y.slotOld := rfl
@[simp] theorem Byre.setEngine_rota (y : Byre) (e : Nat) (g : Eng) : (y.setEngine e g).rota = y.rota := rfl
@[simp] theorem Byre.setEngine_scratch (y : Byre) (e : Nat) (g : Eng) : (y.setEngine e g).scratch = y.scratch := rfl
@[simp] theorem Byre.setEngine_staged (y : Byre) (e : Nat) (g : Eng) : (y.setEngine e g).staged = y.staged := rfl
@[simp] theorem Byre.setEngine_results (y : Byre) (e : Nat) (g : Eng) : (y.setEngine e g).results = y.results := rfl
@[simp] theorem Byre.setEngine_shown (y : Byre) (e : Nat) (g : Eng) : (y.setEngine e g).shown = y.shown := rfl
@[simp] theorem Byre.setEngine_keys (y : Byre) (e : Nat) (g : Eng) : (y.setEngine e g).keys = y.keys := rfl
@[simp] theorem Byre.setEngine_poolHead (y : Byre) (e : Nat) (g : Eng) : (y.setEngine e g).poolHead = y.poolHead := rfl
@[simp] theorem Byre.setEngine_poolScan (y : Byre) (e : Nat) (g : Eng) : (y.setEngine e g).poolScan = y.poolScan := rfl
@[simp] theorem Byre.setEngine_hostWr (y : Byre) (e : Nat) (g : Eng) : (y.setEngine e g).hostWr = y.hostWr := rfl
@[simp] theorem Byre.setEngine_charge (y : Byre) (e : Nat) (g : Eng) : (y.setEngine e g).charge = y.charge := rfl
@[simp] theorem Byre.setEngine_wakeAt (y : Byre) (e : Nat) (g : Eng) : (y.setEngine e g).wakeAt = y.wakeAt := rfl
@[simp] theorem Byre.setEngine_waiters (y : Byre) (e : Nat) (g : Eng) : (y.setEngine e g).waiters = y.waiters := rfl
@[simp] theorem Byre.setEngine_inq (y : Byre) (e : Nat) (g : Eng) : (y.setEngine e g).inq = y.inq := rfl
@[simp] theorem Byre.setEngine_copies (y : Byre) (e : Nat) (g : Eng) : (y.setEngine e g).copies = y.copies := rfl
@[simp] theorem Byre.setEngine_outq (y : Byre) (e : Nat) (g : Eng) : (y.setEngine e g).outq = y.outq := rfl
@[simp] theorem Byre.setEngine_line (y : Byre) (e : Nat) (g : Eng) : (y.setEngine e g).line = y.line := rfl
@[simp] theorem Byre.setEngine_sent (y : Byre) (e : Nat) (g : Eng) : (y.setEngine e g).sent = y.sent := rfl
@[simp] theorem Byre.setEngine_slotNo (y : Byre) (e : Nat) (g : Eng) : (y.setEngine e g).slotNo = y.slotNo := rfl
@[simp] theorem Byre.setEngine_cells (y : Byre) (e : Nat) (g : Eng) : (y.setEngine e g).cells = y.cells := rfl
@[simp] theorem Byre.setEngine_served (y : Byre) (e : Nat) (g : Eng) : (y.setEngine e g).served = y.served := rfl
@[simp] theorem Byre.setEngine_cellNo (y : Byre) (e : Nat) (g : Eng) : (y.setEngine e g).cellNo = y.cellNo := rfl
@[simp] theorem Byre.setEngine_cellDue (y : Byre) (e : Nat) (g : Eng) : (y.setEngine e g).cellDue = y.cellDue := rfl
@[simp] theorem Byre.setEngine_copyNo (y : Byre) (e : Nat) (g : Eng) : (y.setEngine e g).copyNo = y.copyNo := rfl
@[simp] theorem Byre.setEngine_authNo (y : Byre) (e : Nat) (g : Eng) : (y.setEngine e g).authNo = y.authNo := rfl
@[simp] theorem Byre.setEngine_pailTag (y : Byre) (e : Nat) (g : Eng) : (y.setEngine e g).pailTag = y.pailTag := rfl
@[simp] theorem Byre.setEngine_deficit (y : Byre) (e : Nat) (g : Eng) : (y.setEngine e g).deficit = y.deficit := rfl
@[simp] theorem Byre.setEngine_pairSeq (y : Byre) (e : Nat) (g : Eng) : (y.setEngine e g).pairSeq = y.pairSeq := rfl
@[simp] theorem Byre.setEngine_pailNo (y : Byre) (e : Nat) (g : Eng) : (y.setEngine e g).pailNo = y.pailNo := rfl
@[simp] theorem Byre.setEngine_dup (y : Byre) (e : Nat) (g : Eng) : (y.setEngine e g).dup = y.dup := rfl
@[simp] theorem Byre.setEngine_smp (y : Byre) (e : Nat) (g : Eng) : (y.setEngine e g).smp = y.smp := rfl
@[simp] theorem Byre.setEngine_tallyQ (y : Byre) (e : Nat) (g : Eng) : (y.setEngine e g).tallyQ = y.tallyQ := rfl
@[simp] theorem Byre.setEngine_tallyNew (y : Byre) (e : Nat) (g : Eng) : (y.setEngine e g).tallyNew = y.tallyNew := rfl
@[simp] theorem Byre.setEngine_octHi (y : Byre) (e : Nat) (g : Eng) : (y.setEngine e g).octHi = y.octHi := rfl
@[simp] theorem Byre.setEngine_skim (y : Byre) (e : Nat) (g : Eng) : (y.setEngine e g).skim = y.skim := rfl
@[simp] theorem Byre.setEngine_frag (y : Byre) (e : Nat) (g : Eng) : (y.setEngine e g).frag = y.frag := rfl
@[simp] theorem Byre.setEngine_emu (y : Byre) (e : Nat) (g : Eng) : (y.setEngine e g).emu = y.emu := rfl
@[simp] theorem Byre.setEngine_lrn (y : Byre) (e : Nat) (g : Eng) : (y.setEngine e g).lrn = y.lrn := rfl
@[simp] theorem Byre.setEngine_notes (y : Byre) (e : Nat) (g : Eng) : (y.setEngine e g).notes = y.notes := rfl
@[simp] theorem Byre.setEngine_ptab (y : Byre) (e : Nat) (g : Eng) : (y.setEngine e g).ptab = y.ptab := rfl
@[simp] theorem Byre.setEngine_pressq (y : Byre) (e : Nat) (g : Eng) : (y.setEngine e g).pressq = y.pressq := rfl
@[simp] theorem Byre.setEngine_memb (y : Byre) (e : Nat) (g : Eng) : (y.setEngine e g).memb = y.memb := rfl
@[simp] theorem Byre.setEngine_recs (y : Byre) (e : Nat) (g : Eng) : (y.setEngine e g).recs = y.recs := rfl
@[simp] theorem Byre.setEngine_grp (y : Byre) (e : Nat) (g : Eng) : (y.setEngine e g).grp = y.grp := rfl
@[simp] theorem Byre.setEngine_sealq (y : Byre) (e : Nat) (g : Eng) : (y.setEngine e g).sealq = y.sealq := rfl
@[simp] theorem Byre.setEngine_sealEnd (y : Byre) (e : Nat) (g : Eng) : (y.setEngine e g).sealEnd = y.sealEnd := rfl
@[simp] theorem Byre.setEngine_fresh (y : Byre) (e : Nat) (g : Eng) : (y.setEngine e g).fresh = y.fresh := rfl
@[simp] theorem Byre.setEngine_lateq (y : Byre) (e : Nat) (g : Eng) : (y.setEngine e g).lateq = y.lateq := rfl
@[simp] theorem Byre.setEngine_bq (y : Byre) (e : Nat) (g : Eng) : (y.setEngine e g).bq = y.bq := rfl
@[simp] theorem Byre.setEngine_skips (y : Byre) (e : Nat) (g : Eng) : (y.setEngine e g).skips = y.skips := rfl
@[simp] theorem Byre.setEngine_cal (y : Byre) (e : Nat) (g : Eng) : (y.setEngine e g).cal = y.cal := rfl
@[simp] theorem Byre.setEngine_goDec (y : Byre) (e : Nat) (g : Eng) : (y.setEngine e g).goDec = y.goDec := rfl
@[simp] theorem Byre.setEngine_pubTab (y : Byre) (e : Nat) (g : Eng) : (y.setEngine e g).pubTab = y.pubTab := rfl
@[simp] theorem Byre.setEngine_pubSt (y : Byre) (e : Nat) (g : Eng) : (y.setEngine e g).pubSt = y.pubSt := rfl
@[simp] theorem Byre.setEngine_subTab (y : Byre) (e : Nat) (g : Eng) : (y.setEngine e g).subTab = y.subTab := rfl
@[simp] theorem Byre.setEngine_subSt (y : Byre) (e : Nat) (g : Eng) : (y.setEngine e g).subSt = y.subSt := rfl
@[simp] theorem Byre.setEngine_retxq (y : Byre) (e : Nat) (g : Eng) : (y.setEngine e g).retxq = y.retxq := rfl
@[simp] theorem Byre.setEngine_pinEnd (y : Byre) (e : Nat) (g : Eng) : (y.setEngine e g).pinEnd = y.pinEnd := rfl
@[simp] theorem Byre.setEngine_caps (y : Byre) (e : Nat) (g : Eng) : (y.setEngine e g).caps = y.caps := rfl
@[simp] theorem Byre.setEngine_dram (y : Byre) (e : Nat) (g : Eng) : (y.setEngine e g).dram = y.dram := rfl
@[simp] theorem Byre.setEngine_dramGen (y : Byre) (e : Nat) (g : Eng) : (y.setEngine e g).dramGen = y.dramGen := rfl
@[simp] theorem Byre.setEngine_dramChk (y : Byre) (e : Nat) (g : Eng) : (y.setEngine e g).dramChk = y.dramChk := rfl
@[simp] theorem Byre.setEngine_nbrGen (y : Byre) (e : Nat) (g : Eng) : (y.setEngine e g).nbrGen = y.nbrGen := rfl
@[simp] theorem Byre.setEngine_train (y : Byre) (e : Nat) (g : Eng) : (y.setEngine e g).train = y.train := rfl
@[simp] theorem Byre.setEngine_trainDone (y : Byre) (e : Nat) (g : Eng) : (y.setEngine e g).trainDone = y.trainDone := rfl
@[simp] theorem Byre.setEngine_rcd (y : Byre) (e : Nat) (g : Eng) : (y.setEngine e g).rcd = y.rcd := rfl
@[simp] theorem Byre.setEngine_ingq (y : Byre) (e : Nat) (g : Eng) : (y.setEngine e g).ingq = y.ingq := rfl
@[simp] theorem Byre.setEngine_tug (y : Byre) (e : Nat) (g : Eng) : (y.setEngine e g).tug = y.tug := rfl
@[simp] theorem Byre.setEngine_canq (y : Byre) (e : Nat) (g : Eng) : (y.setEngine e g).canq = y.canq := rfl
@[simp] theorem Byre.setEngine_canPail (y : Byre) (e : Nat) (g : Eng) : (y.setEngine e g).canPail = y.canPail := rfl
@[simp] theorem Byre.setEngine_ctlRx (y : Byre) (e : Nat) (g : Eng) : (y.setEngine e g).ctlRx = y.ctlRx := rfl
@[simp] theorem Byre.setEngine_tunq (y : Byre) (e : Nat) (g : Eng) : (y.setEngine e g).tunq = y.tunq := rfl
@[simp] theorem Byre.setEngine_tunEvt (y : Byre) (e : Nat) (g : Eng) : (y.setEngine e g).tunEvt = y.tunEvt := rfl
@[simp] theorem Byre.setEngine_tunInj (y : Byre) (e : Nat) (g : Eng) : (y.setEngine e g).tunInj = y.tunInj := rfl
@[simp] theorem Byre.setEngine_shrTab (y : Byre) (e : Nat) (g : Eng) : (y.setEngine e g).shrTab = y.shrTab := rfl
@[simp] theorem Byre.setEngine_shares (y : Byre) (e : Nat) (g : Eng) : (y.setEngine e g).shares = y.shares := rfl
@[simp] theorem Byre.setEngine_shareRun (y : Byre) (e : Nat) (g : Eng) : (y.setEngine e g).shareRun = y.shareRun := rfl
@[simp] theorem Byre.setEngine_herd (y : Byre) (e : Nat) (g : Eng) : (y.setEngine e g).herd = y.herd := rfl
@[simp] theorem Byre.setEngine_tnkAt (y : Byre) (e : Nat) (g : Eng) : (y.setEngine e g).tnkAt = y.tnkAt := rfl
@[simp] theorem Byre.setEngine_hostSkips (y : Byre) (e : Nat) (g : Eng) : (y.setEngine e g).hostSkips = y.hostSkips := rfl
@[simp] theorem Byre.setEngine_evq (y : Byre) (e : Nat) (g : Eng) : (y.setEngine e g).evq = y.evq := rfl
@[simp] theorem Byre.setEngine_evDrop (y : Byre) (e : Nat) (g : Eng) : (y.setEngine e g).evDrop = y.evDrop := rfl
@[simp] theorem Byre.setEngine_unlocked (y : Byre) (e : Nat) (g : Eng) : (y.setEngine e g).unlocked = y.unlocked := rfl
@[simp] theorem Byre.setEngine_free (y : Byre) (e : Nat) (g : Eng) : (y.setEngine e g).free = y.free := rfl

/-! ### A register write of the creamery -/

@[simp] theorem Creamery.wrN_mem (c : Creamery) (a v : Nat) : (c.wrN a v).mem = c.mem := rfl
@[simp] theorem Creamery.wrN_up (c : Creamery) (a v : Nat) : (c.wrN a v).up = c.up := rfl
@[simp] theorem Creamery.wrN_evNum (c : Creamery) (a v : Nat) : (c.wrN a v).evNum = c.evNum := rfl
@[simp] theorem Creamery.wrN_evLost (c : Creamery) (a v : Nat) : (c.wrN a v).evLost = c.evLost := rfl
@[simp] theorem Creamery.wrN_irqs (c : Creamery) (a v : Nat) : (c.wrN a v).irqs = c.irqs := rfl
@[simp] theorem Creamery.wrN_evqAt (c : Creamery) (a v : Nat) : (c.wrN a v).evqAt = c.evqAt := rfl
@[simp] theorem Creamery.wrN_evqDue (c : Creamery) (a v : Nat) : (c.wrN a v).evqDue = c.evqDue := rfl
@[simp] theorem Creamery.wrN_clk (c : Creamery) (a v : Nat) : (c.wrN a v).clk = c.clk := rfl
@[simp] theorem Creamery.wrN_rtc (c : Creamery) (a v : Nat) : (c.wrN a v).rtc = c.rtc := rfl
@[simp] theorem Creamery.wrN_hostRx (c : Creamery) (a v : Nat) : (c.wrN a v).hostRx = c.hostRx := rfl
@[simp] theorem Creamery.wrN_hostDrop (c : Creamery) (a v : Nat) : (c.wrN a v).hostDrop = c.hostDrop := rfl
@[simp] theorem Creamery.wrN_host (c : Creamery) (a v : Nat) : (c.wrN a v).host = c.host := rfl
@[simp] theorem Creamery.wrN_staging (c : Creamery) (a v : Nat) : (c.wrN a v).staging = c.staging := rfl
@[simp] theorem Creamery.wrN_coal (c : Creamery) (a v : Nat) : (c.wrN a v).coal = c.coal := rfl
@[simp] theorem Creamery.wrN_tnkAt (c : Creamery) (a v : Nat) : (c.wrN a v).tnkAt = c.tnkAt := rfl
@[simp] theorem Creamery.wrN_dbg (c : Creamery) (a v : Nat) : (c.wrN a v).dbg = c.dbg := rfl
@[simp] theorem Creamery.wrN_mode (c : Creamery) (a v : Nat) : (c.wrN a v).mode = c.mode := rfl
@[simp] theorem Creamery.wrN_linkDown (c : Creamery) (a v : Nat) : (c.wrN a v).linkDown = c.linkDown := rfl
@[simp] theorem Creamery.wrN_mb (c : Creamery) (a v : Nat) : (c.wrN a v).mb = c.mb := rfl
@[simp] theorem Creamery.wrN_rings (c : Creamery) (a v : Nat) : (c.wrN a v).rings = c.rings := rfl
@[simp] theorem Creamery.wrN_free (c : Creamery) (a v : Nat) : (c.wrN a v).free = c.free := rfl
@[simp] theorem Creamery.wrN_sess (c : Creamery) (a v : Nat) : (c.wrN a v).sess = c.sess := rfl
@[simp] theorem Creamery.wrN_nonce (c : Creamery) (a v : Nat) : (c.wrN a v).nonce = c.nonce := rfl
@[simp] theorem Creamery.wrN_fails (c : Creamery) (a v : Nat) : (c.wrN a v).fails = c.fails := rfl
@[simp] theorem Creamery.wrN_barred (c : Creamery) (a v : Nat) : (c.wrN a v).barred = c.barred := rfl
@[simp] theorem Creamery.wrN_otp (c : Creamery) (a v : Nat) : (c.wrN a v).otp = c.otp := rfl
@[simp] theorem Creamery.wrN_keyHidden (c : Creamery) (a v : Nat) : (c.wrN a v).keyHidden = c.keyHidden := rfl
@[simp] theorem Creamery.wrN_fw (c : Creamery) (a v : Nat) : (c.wrN a v).fw = c.fw := rfl
@[simp] theorem Creamery.wrN_ucodeStore (c : Creamery) (a v : Nat) : (c.wrN a v).ucodeStore = c.ucodeStore := rfl
@[simp] theorem Creamery.wrN_packages (c : Creamery) (a v : Nat) : (c.wrN a v).packages = c.packages := rfl
@[simp] theorem Creamery.wrN_chain (c : Creamery) (a v : Nat) : (c.wrN a v).chain = c.chain := rfl
@[simp] theorem Creamery.wrN_secret (c : Creamery) (a v : Nat) : (c.wrN a v).secret = c.secret := rfl
@[simp] theorem Creamery.wrN_prefer (c : Creamery) (a v : Nat) : (c.wrN a v).prefer = c.prefer := rfl
@[simp] theorem Creamery.wrN_trial (c : Creamery) (a v : Nat) : (c.wrN a v).trial = c.trial := rfl
@[simp] theorem Creamery.wrN_attempts (c : Creamery) (a v : Nat) : (c.wrN a v).attempts = c.attempts := rfl
@[simp] theorem Creamery.wrN_autostart (c : Creamery) (a v : Nat) : (c.wrN a v).autostart = c.autostart := rfl
@[simp] theorem Creamery.wrN_policy (c : Creamery) (a v : Nat) : (c.wrN a v).policy = c.policy := rfl
@[simp] theorem Creamery.wrN_slot (c : Creamery) (a v : Nat) : (c.wrN a v).slot = c.slot := rfl
@[simp] theorem Creamery.wrN_failed (c : Creamery) (a v : Nat) : (c.wrN a v).failed = c.failed := rfl
@[simp] theorem Creamery.wrN_audit (c : Creamery) (a v : Nat) : (c.wrN a v).audit = c.audit := rfl
@[simp] theorem Creamery.wrN_ucode (c : Creamery) (a v : Nat) : (c.wrN a v).ucode = c.ucode := rfl
@[simp] theorem Creamery.wrN_loaded (c : Creamery) (a v : Nat) : (c.wrN a v).loaded = c.loaded := rfl
@[simp] theorem Creamery.wrN_placed (c : Creamery) (a v : Nat) : (c.wrN a v).placed = c.placed := rfl
@[simp] theorem Creamery.wrN_base (c : Creamery) (a v : Nat) : (c.wrN a v).base = c.base := rfl
@[simp] theorem Creamery.wrN_devId (c : Creamery) (a v : Nat) : (c.wrN a v).devId = c.devId := rfl
@[simp] theorem Creamery.wrN_rails (c : Creamery) (a v : Nat) : (c.wrN a v).rails = c.rails := rfl
@[simp] theorem Creamery.wrN_sramMv (c : Creamery) (a v : Nat) : (c.wrN a v).sramMv = c.sramMv := rfl
@[simp] theorem Creamery.wrN_vreq (c : Creamery) (a v : Nat) : (c.wrN a v).vreq = c.vreq := rfl
@[simp] theorem Creamery.wrN_pmbSlow (c : Creamery) (a v : Nat) : (c.wrN a v).pmbSlow = c.pmbSlow := rfl
@[simp] theorem Creamery.wrN_wakePin (c : Creamery) (a v : Nat) : (c.wrN a v).wakePin = c.wakePin := rfl
@[simp] theorem Creamery.wrN_voutExp (c : Creamery) (a v : Nat) : (c.wrN a v).voutExp = c.voutExp := rfl
@[simp] theorem Creamery.wrN_pmb (c : Creamery) (a v : Nat) : (c.wrN a v).pmb = c.pmb := rfl
@[simp] theorem Creamery.wrN_shake (c : Creamery) (a v : Nat) : (c.wrN a v).shake = c.shake := rfl
@[simp] theorem Creamery.wrN_polAt (c : Creamery) (a v : Nat) : (c.wrN a v).polAt = c.polAt := rfl
@[simp] theorem Creamery.wrN_porHeld (c : Creamery) (a v : Nat) : (c.wrN a v).porHeld = c.porHeld := rfl
@[simp] theorem Creamery.wrN_crmClkLost (c : Creamery) (a v : Nat) : (c.wrN a v).crmClkLost = c.crmClkLost := rfl
@[simp] theorem Creamery.wrN_mp (c : Creamery) (a v : Nat) : (c.wrN a v).mp = c.mp := rfl
@[simp] theorem Creamery.wrN_badPar (c : Creamery) (a v : Nat) : (c.wrN a v).badPar = c.badPar := rfl

/-! ### A byre of the machine, and the creamery -/

namespace State

@[simp] theorem setByre_crm (s : State) (b : Fin 6) (y : Byre) : (s.setByre b y).crm = s.crm := rfl
@[simp] theorem setByre_busRd (s : State) (b : Fin 6) (y : Byre) : (s.setByre b y).busRd = s.busRd := rfl
@[simp] theorem setByre_pending (s : State) (b : Fin 6) (y : Byre) : (s.setByre b y).pending = s.pending := rfl

@[simp] theorem setByre_byre_self (s : State) (b : Fin 6) (y : Byre) : (s.setByre b y).byre b = y := by
  unfold setByre byre
  exact Vector.getElem_set_self ..

@[simp] theorem setByre_byre_ne (s : State) {b b' : Fin 6} (y : Byre) (h : b' ≠ b) : (s.setByre b y).byre b' = s.byre b' := by
  unfold setByre byre
  exact Vector.getElem_set_ne b.isLt b'.isLt fun e => h (Fin.ext e.symm)

@[simp] theorem onCrm_byres (s : State) (f : Creamery → Creamery) : (s.onCrm f).byres = s.byres := rfl
@[simp] theorem onCrm_busRd (s : State) (f : Creamery → Creamery) : (s.onCrm f).busRd = s.busRd := rfl
@[simp] theorem onCrm_pending (s : State) (f : Creamery → Creamery) : (s.onCrm f).pending = s.pending := rfl
@[simp] theorem onCrm_crm (s : State) (f : Creamery → Creamery) : (s.onCrm f).crm = f s.crm := rfl

@[simp] theorem drain_pending (s : State) (b : Fin 6) : (s.drain b).pending = s.pending := by unfold drain; split <;> rfl
@[simp] theorem drain_busRd (s : State) (b : Fin 6) : (s.drain b).busRd = s.busRd := by unfold drain; split <;> rfl

/-- The events of one byre alone leave it for the event queue. -/
theorem drain_byre_ne (s : State) {b b' : Fin 6} (h : b' ≠ b) : (s.drain b).byre b' = s.byre b' := by
  unfold drain
  split
  · exact setByre_byre_ne s _ h
  · rfl

/-- A step of byre `b` alone leaves every other byre as it was (R13). -/
theorem onByre_byre_ne (s : State) {b b' : Fin 6} (f : Byre → Byre) (h : b' ≠ b) : (s.onByre b f).byre b' = s.byre b' := by
  unfold onByre
  rw [drain_byre_ne _ h, setByre_byre_ne _ _ h]

@[simp] theorem onByre_pending (s : State) (b : Fin 6) (f : Byre → Byre) : (s.onByre b f).pending = s.pending := by
  unfold onByre
  rw [drain_pending, setByre_pending]

end State

end Sys2Proof.Machine
end

