-- ==== Sys2Proof/Laws/Access.lean ====
section
/-!
SUPPORT. What the shared operations of management accesses, of domains and of mailbox commands can do: one lemma per outcome.
-/

namespace Sys2Proof.Machine

namespace State

/-- A step of a byre's FAB domain is a step of the byre, or nothing. -/
theorem onFab_on {s : State} {b : Fin 6} (f : Byre → Byre) (h : s.on b domFAB = true) : s.onFab b f = s.onByre b f := by
  unfold onFab; rw [if_pos h]

theorem onFab_off {s : State} {b : Fin 6} (f : Byre → Byre) (h : s.on b domFAB = false) : s.onFab b f = s := by
  unfold onFab; simp [h]

theorem onFab_byre_ne (s : State) {b b' : Fin 6} (f : Byre → Byre) (h : b' ≠ b) : (s.onFab b f).byre b' = s.byre b' := by
  unfold onFab
  split
  · exact onByre_byre_ne s f h
  · rfl

/-- A recorded bus error changes no byre and no waiting command (R28, R29). -/
@[simp] theorem busErr_byres (s : State) (e : BusErr) (m : Master) (w : Bool) (a : Nat) : (s.busErr e m w a).byres = s.byres := by
  unfold busErr; split <;> rfl

@[simp] theorem busErr_pending (s : State) (e : BusErr) (m : Master) (w : Bool) (a : Nat) :
    (s.busErr e m w a).pending = s.pending := by
  unfold busErr; split <;> rfl

/-- A write that something stops is recorded and not applied; a lock that finds it refuses it; any other is a step of the byre. -/
theorem lockedWrite_stopped {s : State} {b : Fin 6} {m : Master} {off : Nat} {e : BusErr} (lock : Byre → Bool) (f : Byre → Byre)
    (h : s.stop b m off true = some e) : s.lockedWrite b m off lock f = s.busErr e m true (byreAddr b off) := by
  unfold lockedWrite; rw [h]

theorem lockedWrite_locked {s : State} {b : Fin 6} {m : Master} {off : Nat} {lock : Byre → Bool} (f : Byre → Byre)
    (h : Taken s b m off) (hl : lock (s.byre b) = true) :
    s.lockedWrite b m off lock f = s.busErr .locked m true (byreAddr b off) := by
  unfold Taken at h; unfold lockedWrite; rw [h]; simp [hl]

theorem lockedWrite_taken {s : State} {b : Fin 6} {m : Master} {off : Nat} {lock : Byre → Bool} (f : Byre → Byre)
    (h : Taken s b m off) (hl : lock (s.byre b) = false) : s.lockedWrite b m off lock f = s.onByre b f := by
  unfold Taken at h; unfold lockedWrite; rw [h]; simp [hl]

theorem mgmtWrite_taken {s : State} {b : Fin 6} {m : Master} {off : Nat} (f : Byre → Byre) (h : Taken s b m off) :
    s.mgmtWrite b m off f = s.onByre b f := lockedWrite_taken f h rfl

/-- A write of any of these kinds leaves every other byre as it was (R13). -/
theorem lockedWrite_byre_ne (s : State) {b b' : Fin 6} (m : Master) (off : Nat) (lock : Byre → Bool) (f : Byre → Byre)
    (h : b' ≠ b) : (s.lockedWrite b m off lock f).byre b' = s.byre b' := by
  unfold lockedWrite
  split
  · unfold byre; rw [busErr_byres]
  · split
    · unfold byre; rw [busErr_byres]
    · exact onByre_byre_ne s f h

/-- A GO write that is taken stores its fields and runs its operation where GO is set (R7, R9). -/
theorem goWrite_taken {s : State} {b : Fin 6} {m : Master} {off v : Nat} {locked : Byre → Bool} (deny run : Byre → Byre)
    (h : Taken s b m off) (hl : ((s.byre b).live && locked ((s.byre b).writeFlds off v)) = false) :
    s.goWrite b m off v locked deny run = s.onByre b fun y => (y.writeFlds off v).when (bit v 31) run := by
  unfold Taken at h
  unfold goWrite
  rw [h]
  simp only [Bool.and_assoc, hl, Bool.and_false, Bool.false_eq_true, if_false]

/-- A mailbox command executes only at its turn (R414). -/
theorem commandThen_waits {s : State} {n : Fin 8} {code : Nat} (f : Req → State → State × Ans) (g : State → State)
    (h : s.ready n code = false) : s.commandThen n code f g = s := by
  unfold commandThen; simp [h]

/-- At its turn, a state, lifecycle or combination of images that does not allow it ends it (R427, R444, R452). -/
theorem commandThen_late {s : State} {n : Fin 8} {code st : Nat} (f : Req → State → State × Ans) (g : State → State)
    (h : s.ready n code = true) (hl : s.late (s.request n) = st + 1) :
    s.commandThen n code f g = s.complete n (s.request n) (st + 1) 0 [] := by
  unfold commandThen
  simp only [h, Bool.not_true, Bool.false_eq_true, if_false]
  unfold request at hl ⊢
  rw [hl]
  rfl

/-- At its turn, with nothing in its way, its effect and its answer are those of `f`. -/
theorem commandThen_due {s t : State} {n : Fin 8} {code st det : Nat} {p : List Byte} {f : Req → State → State × Ans}
    (g : State → State) (h : s.ready n code = true) (hl : s.late (s.request n) = 0)
    (hf : f (s.request n) (s.auditOpen n (s.request n)) = (t, .done st det p)) :
    s.commandThen n code f g =
      if st = mOK then g (t.complete n (s.request n) st det p) else t.complete n (s.request n) st det p := by
  unfold commandThen
  simp only [h, Bool.not_true, Bool.false_eq_true, if_false]
  unfold request at hl hf ⊢
  rw [hl]
  simp only [hf]

end State

end Sys2Proof.Machine
end

