-- ==== Sys2Proof/Laws/SMap.lean ====
section
/-!
SUPPORT. The laws of sparse stores and byte memories: read after write, every other key left alone, and the canonical
form kept by every operation.
-/

namespace Sys2Proof.Machine

namespace SMap

variable {α : Type}

@[simp] theorem get_nil (d : Nat → α) (k : Nat) : get d [] k = d k := rfl

theorem get_ins (d : Nat → α) (m : SMap α) (k : Nat) (v : α) (j : Nat) :
    get d (ins m k v) j = if j = k then v else get d m j := by
  induction m with
  | nil => simp [ins, get]
  | cons e m ih =>
    obtain ⟨k', v'⟩ := e
    unfold ins
    split
    · subst_vars; by_cases h : j = k' <;> simp [get, h]
    · split
      · simp [get]
      · simp only [get, ih]
        by_cases h : j = k' <;> by_cases h' : j = k <;> simp_all

theorem get_filter_ne (d : Nat → α) (m : SMap α) (k j : Nat) :
    get d (m.filter fun e => e.1 != k) j = if j = k then d k else get d m j := by
  induction m with
  | nil => by_cases h : j = k <;> simp [get, h]
  | cons e m ih =>
    obtain ⟨k', v'⟩ := e
    by_cases hk : k' = k
    · subst hk
      simp only [bne_self_eq_false, Bool.false_eq_true, not_false_eq_true, List.filter_cons_of_neg, ih, get]
      by_cases h : j = k' <;> simp [h]
    · have : (k' != k) = true := by simp [hk]
      simp only [List.filter, this, get, ih]
      by_cases h : j = k' <;> by_cases h' : j = k <;> simp_all

/-- A read after a write: the written key has the value, and every other key is left alone. -/
theorem get_set [DecidableEq α] (d : Nat → α) (m : SMap α) (k : Nat) (v : α) (j : Nat) :
    get d (set d m k v) j = if j = k then v else get d m j := by
  unfold set
  split
  · rename_i h; rw [get_filter_ne]; split <;> simp_all
  · exact get_ins d m k v j

@[simp] theorem get_set_self [DecidableEq α] (d : Nat → α) (m : SMap α) (k : Nat) (v : α) : get d (set d m k v) k = v := by
  simp [get_set]

theorem get_set_ne [DecidableEq α] (d : Nat → α) (m : SMap α) {k j : Nat} (v : α) (h : j ≠ k) :
    get d (set d m k v) j = get d m j := by
  simp [get_set, h]

theorem get_keep (d : Nat → α) (p : Nat → Bool) (m : SMap α) (j : Nat) :
    get d (keep p m) j = if p j then get d m j else d j := by
  induction m with
  | nil => simp [keep, get]
  | cons e m ih =>
    obtain ⟨k', v'⟩ := e
    unfold keep at ih ⊢
    by_cases hp : p k' = true
    · rw [List.filter_cons_of_pos (p := fun e : Nat × α => p e.1) hp]
      simp only [get, ih]
      by_cases h : j = k'
      · subst h; simp [hp]
      · simp [h]
    · rw [List.filter_cons_of_neg (p := fun e : Nat × α => p e.1) hp, ih]
      by_cases h : j = k'
      · subst h; simp [hp]
      · simp [get, h]

/-! ### The canonical form -/

theorem wfFrom_mono [DecidableEq α] {d : Nat → α} {m : SMap α} {lo lo' : Nat} (h : lo' ≤ lo) (hw : wfFrom d lo m = true) :
    wfFrom d lo' m = true := by
  cases m with
  | nil => rfl
  | cons e m =>
    obtain ⟨k, v⟩ := e
    simp only [wfFrom, Bool.and_eq_true, decide_eq_true_eq] at hw ⊢
    exact ⟨⟨by omega, hw.1.2⟩, hw.2⟩

theorem wfFrom_ins [DecidableEq α] {d : Nat → α} {v : α} : ∀ {m : SMap α} {lo k : Nat}, lo ≤ k → v ≠ d k → wfFrom d lo m = true →
    wfFrom d lo (ins m k v) = true
  | [], lo, k, hk, hv, _ => by simp [ins, wfFrom, hk, hv]
  | (k', v') :: m, lo, k, hk, hv, hw => by
    simp only [wfFrom, Bool.and_eq_true, decide_eq_true_eq] at hw
    unfold ins
    split
    · subst_vars; simp [wfFrom, hw.1.1, hv, hw.2]
    · split
      · simp only [wfFrom, Bool.and_eq_true, decide_eq_true_eq]
        exact ⟨⟨hk, hv⟩, ⟨by omega, hw.1.2⟩, hw.2⟩
      · simp only [wfFrom, Bool.and_eq_true, decide_eq_true_eq]
        exact ⟨hw.1, wfFrom_ins (by omega) hv hw.2⟩

theorem wfFrom_filter [DecidableEq α] {d : Nat → α} {p : Nat × α → Bool} : ∀ {m : SMap α} {lo : Nat}, wfFrom d lo m = true →
    wfFrom d lo (m.filter p) = true
  | [], _, _ => rfl
  | (k, v) :: m, lo, hw => by
    simp only [wfFrom, Bool.and_eq_true, decide_eq_true_eq] at hw
    by_cases hp : p (k, v) = true
    · rw [List.filter_cons_of_pos hp]
      simp only [wfFrom, Bool.and_eq_true, decide_eq_true_eq]
      exact ⟨hw.1, wfFrom_filter hw.2⟩
    · rw [List.filter_cons_of_neg hp]
      exact wfFrom_mono (by omega) (wfFrom_filter hw.2)

@[simp] theorem wf_nil [DecidableEq α] (d : Nat → α) : wf d [] = true := rfl

/-- A write keeps the canonical form. -/
theorem wf_set [DecidableEq α] {d : Nat → α} {m : SMap α} (k : Nat) (v : α) (hw : wf d m = true) : wf d (set d m k v) = true := by
  unfold set
  split
  · exact wfFrom_filter hw
  · exact wfFrom_ins (Nat.zero_le _) ‹_› hw

/-- Removing keys keeps the canonical form. -/
theorem wf_keep [DecidableEq α] {d : Nat → α} {m : SMap α} (p : Nat → Bool) (hw : wf d m = true) : wf d (keep p m) = true :=
  wfFrom_filter hw

theorem risingFrom_mono {m : SMap α} {lo lo' : Nat} (h : lo' ≤ lo) (hw : risingFrom lo m = true) : risingFrom lo' m = true := by
  cases m with
  | nil => rfl
  | cons e m =>
    obtain ⟨k, v⟩ := e
    simp only [risingFrom, Bool.and_eq_true, decide_eq_true_eq] at hw ⊢
    exact ⟨by omega, hw.2⟩

theorem risingFrom_ins {v : α} : ∀ {m : SMap α} {lo k : Nat}, lo ≤ k → risingFrom lo m = true → risingFrom lo (ins m k v) = true
  | [], lo, k, hk, _ => by simp [ins, risingFrom, hk]
  | (k', v') :: m, lo, k, hk, hw => by
    simp only [risingFrom, Bool.and_eq_true, decide_eq_true_eq] at hw
    unfold ins
    split
    · subst_vars; simp [risingFrom, hw.1, hw.2]
    · split
      · simp only [risingFrom, Bool.and_eq_true, decide_eq_true_eq]
        exact ⟨hk, by omega, hw.2⟩
      · simp only [risingFrom, Bool.and_eq_true, decide_eq_true_eq]
        exact ⟨hw.1, risingFrom_ins (by omega) hw.2⟩

@[simp] theorem rising_nil : rising ([] : SMap α) = true := rfl

theorem rising_ins {m : SMap α} (k : Nat) (v : α) (hw : rising m = true) : rising (ins m k v) = true :=
  risingFrom_ins (Nat.zero_le _) hw

theorem risingFrom_filter {p : Nat × α → Bool} : ∀ {m : SMap α} {lo : Nat}, risingFrom lo m = true →
    risingFrom lo (m.filter p) = true
  | [], _, _ => rfl
  | (k, v) :: m, lo, hw => by
    simp only [risingFrom, Bool.and_eq_true, decide_eq_true_eq] at hw
    by_cases hp : p (k, v) = true
    · rw [List.filter_cons_of_pos hp]
      simp only [risingFrom, Bool.and_eq_true, decide_eq_true_eq]
      exact ⟨hw.1, risingFrom_filter hw.2⟩
    · rw [List.filter_cons_of_neg hp]
      exact risingFrom_mono (by omega) (risingFrom_filter hw.2)

theorem rising_keep {m : SMap α} (p : Nat → Bool) (hw : rising m = true) : rising (keep p m) = true := risingFrom_filter hw

end SMap

namespace Mem

/-- One byte after a store of one byte. -/
theorem ldb_stb (m : Mem) (a : Nat) (v : Byte) (j : Nat) : ldb (stb m a v) j = if j = a then v else ldb m j :=
  SMap.get_set memDflt m a v j

theorem wf_stb {m : Mem} (a : Nat) (v : Byte) (hw : wf m = true) : wf (stb m a v) = true := SMap.wf_set a v hw

/-- A store of bytes keeps the canonical form. -/
theorem wf_write : ∀ (bs : List Byte) {m : Mem} (a : Nat), wf m = true → wf (write m a bs) = true
  | [], _, _, hw => hw
  | b :: bs, _, a, hw => wf_write bs (a + 1) (wf_stb a b hw)

theorem wf_stw {m : Mem} (a : Nat) (v : Word) (hw : wf m = true) : wf (stw m a v) = true := wf_write _ _ hw

theorem rising_put : ∀ (bs : List Byte) {m : Mem} (a : Nat), SMap.rising m = true → SMap.rising (put m a bs) = true
  | [], _, _, hw => hw
  | b :: bs, _, a, hw => rising_put bs (a + 1) (SMap.rising_ins a b hw)

/-- One byte after a store of bytes: the byte stored there, or what it was. -/
theorem ldb_write : ∀ (bs : List Byte) (m : Mem) (a j : Nat),
    ldb (write m a bs) j = if a ≤ j ∧ j < a + bs.length then (bs[j - a]?).getD 0#8 else ldb m j
  | [], m, a, j => by simp only [write, List.length_nil]; split <;> first | omega | rfl
  | b :: bs, m, a, j => by
    rw [write, ldb_write bs, ldb_stb, List.length_cons]
    by_cases h : j = a
    · subst h
      rw [if_neg (by omega), if_pos rfl, if_pos ⟨by omega, by omega⟩]
      simp
    · by_cases h2 : a + 1 ≤ j ∧ j < a + 1 + bs.length
      · rw [if_pos h2, if_pos ⟨by omega, by omega⟩]
        have : j - a = (j - (a + 1)) + 1 := by omega
        rw [this, List.getElem?_cons_succ]
      · rw [if_neg h2, if_neg h, if_neg (by omega)]

/-- Every byte outside a store is as before. -/
theorem ldb_write_out {bs : List Byte} {m : Mem} {a j : Nat} (h : j < a ∨ a + bs.length ≤ j) : ldb (write m a bs) j = ldb m j := by
  rw [ldb_write, if_neg (by omega)]

@[simp] theorem length_read (m : Mem) : ∀ (n a : Nat), (read m a n).length = n
  | 0, _ => rfl
  | n + 1, a => by simp [read, length_read m n (a + 1)]

theorem getElem?_read (m : Mem) : ∀ (n a i : Nat), i < n → (read m a n)[i]? = some (ldb m (a + i))
  | n + 1, a, 0, _ => by simp [read]
  | n + 1, a, i + 1, h => by
    rw [read, List.getElem?_cons_succ, getElem?_read m n (a + 1) i (by omega)]
    congr 2; omega

/-- What has been stored is read back. -/
theorem read_write (bs : List Byte) (m : Mem) (a : Nat) : read (write m a bs) a bs.length = bs := by
  apply List.ext_getElem?
  intro i
  by_cases h : i < bs.length
  · rw [getElem?_read _ _ _ _ h, ldb_write, if_pos ⟨by omega, by omega⟩]
    simp [Nat.add_sub_cancel_left, h]
  · rw [List.getElem?_eq_none (by simp; omega), List.getElem?_eq_none (by omega)]

/-- A read outside a store is as before. -/
theorem read_write_out {bs : List Byte} {m : Mem} {a : Nat} : ∀ {n j : Nat}, (j + n ≤ a ∨ a + bs.length ≤ j) →
    read (write m a bs) j n = read m j n
  | 0, _, _ => rfl
  | n + 1, j, h => by
    rw [read, read, ldb_write_out (by omega), read_write_out (by omega)]

end Mem

end Sys2Proof.Machine
end

