-- ==== Sys2Proof/Laws/Engine.lean ====
section
/-!
SUPPORT. What the shared operations of the engines do: registers and threads read back, and one issue of an instruction.
-/

namespace Sys2Proof.Machine

namespace Byre

theorem rd_wr (y : Byre) (o : Nat) (w : Word) (o' : Nat) : (y.wr o w).rd o' = if o' = o then w else y.rd o' :=
  SMap.get_set ..

@[simp] theorem rd_setThread (y : Byre) (e t : Nat) (th : Thr) (o : Nat) : (y.setThread e t th).rd o = y.rd o := rfl

@[simp] theorem thread_wr (y : Byre) (o : Nat) (w : Word) (e t : Nat) : (y.wr o w).thread e t = y.thread e t := rfl

@[simp] theorem thread_inc (y : Byre) (o e t : Nat) : (y.inc o).thread e t = y.thread e t := rfl

@[simp] theorem thread_takeSlot (y : Byre) (e t e' t' : Nat) : (y.takeSlot e t).thread e' t' = y.thread e' t' := rfl

@[simp] theorem thread_setThread_self (y : Byre) (e t : Nat) (th : Thr) : (y.setThread e t th).thread e t = th :=
  SMap.get_set_self ..

theorem thread_setThread (y : Byre) (e t : Nat) (th : Thr) (e' t' : Nat) :
    (y.setThread e t th).thread e' t' = if e' * 8 + t' = e * 8 + t then th else y.thread e' t' := SMap.get_set ..

theorem thread_setThread_ne (y : Byre) {e t e' t' : Nat} (th : Thr) (ht : t < 8) (ht' : t' < 8) (h : ¬(e' = e ∧ t' = t)) :
    (y.setThread e t th).thread e' t' = y.thread e' t' := by
  rw [thread_setThread, if_neg (by omega)]

/-- A register of the rota is not the byre's state. -/
theorem st_wr (y : Byre) {o : Nat} (w : Word) (h : R.CHURN_BYRE ≠ o) : (y.wr o w).st = y.st := by
  unfold st get rdN
  rw [rd_wr, if_neg h]

theorem withDbg_takeSlot (y : Byre) (e t : Nat) (th : Thr) : (y.takeSlot e t).withDbg th = y.withDbg th := by
  have h : (y.takeSlot e t).st = y.st := st_wr y _ (by simp only [R.CHURN_BYRE, R.ROTA_ENG_CNT_BUBBLE]; omega)
  unfold withDbg
  rw [h]
  rfl

/-! ### The byre as an instruction finds it -/

@[simp] theorem thread_atIssue (y : Byre) (e : Fin 32) (t : Fin 8) : (y.atIssue e t).thread e t = y.charged e t := by
  unfold atIssue countIssue onThread
  rw [thread_setThread_self]
  simp only [withDbg_takeSlot]
  rfl

theorem thread_atIssue_ne (y : Byre) {e : Fin 32} {t : Fin 8} {e' : Fin 32} {t' : Fin 8} (h : (e', t') ≠ (e, t)) :
    (y.atIssue e t).thread e' t' = y.thread e' t' := by
  unfold atIssue countIssue onThread
  rw [thread_setThread_ne _ _ t.isLt t'.isLt fun ⟨h1, h2⟩ => h (by rw [Fin.ext h1, Fin.ext h2])]
  rfl

theorem atIssue_eq (y : Byre) (e t : Nat) :
    y.atIssue e t = { y with
      regs := (y.atIssue e t).regs
      engCyc := SMap.set (fun _ => 0) y.engCyc e (y.issueCycle e t + 1)
      thr := (y.atIssue e t).thr } := by
  have h1 : ∀ z : Byre, z.countIssue e t = { z with regs := (z.countIssue e t).regs, thr := (z.countIssue e t).thr } := fun _ => rfl
  have h2 : y.takeSlot e t =
      { y with regs := (y.takeSlot e t).regs, engCyc := SMap.set (fun _ => 0) y.engCyc e (y.issueCycle e t + 1) } := rfl
  unfold atIssue
  generalize hz : y.takeSlot e t = z at h2
  rw [h1 z]
  generalize (z.countIssue e t).regs = r
  generalize (z.countIssue e t).thr = h
  rw [h2]

theorem setThread_rest (y : Byre) (e t : Nat) (a b : Thr) : { (y.setThread e t a).setThread e t b with thr := y.thr } = y := by
  simp only [setThread]

theorem rd_atIssue (y : Byre) (e t o : Nat) :
    (y.atIssue e t).rd o =
      if o = R.ROTA_ENG_CNT_ISSUE e then y.rd o + 1#32
      else if o = R.ROTA_ENG_CNT_BUBBLE e then
        y.rd o + BitVec.ofNat 32 (y.issueCycle e t - SMap.get (fun _ => 0) y.engCyc e)
      else y.rd o := by
  have hne : R.ROTA_ENG_CNT_ISSUE e ≠ R.ROTA_ENG_CNT_BUBBLE e := by
    simp only [R.ROTA_ENG_CNT_ISSUE, R.ROTA_ENG_CNT_BUBBLE]; omega
  have hs : ∀ o, (y.takeSlot e t).rd o = if o = R.ROTA_ENG_CNT_BUBBLE e then
      y.rd (R.ROTA_ENG_CNT_BUBBLE e) + BitVec.ofNat 32 (y.issueCycle e t - SMap.get (fun _ => 0) y.engCyc e) else y.rd o :=
    fun o => rd_wr y _ _ o
  unfold atIssue countIssue onThread
  rw [rd_setThread]
  unfold inc
  rw [rd_wr, hs, hs, if_neg hne]
  by_cases h1 : o = R.ROTA_ENG_CNT_ISSUE e
  · rw [if_pos h1, if_pos h1, h1]
  · rw [if_neg h1, if_neg h1]
    by_cases h2 : o = R.ROTA_ENG_CNT_BUBBLE e
    · rw [if_pos h2, if_pos h2, h2]
    · rw [if_neg h2, if_neg h2]

/-- What the issue alone changes: the counts, the engine's next cycle, and the thread's charge. -/
theorem issued_atIssue (y : Byre) (e : Fin 32) (t : Fin 8) : y.Issued (y.atIssue e t) e t := by
  refine ⟨by rw [rd_atIssue, if_pos rfl], ?_, rfl⟩
  rw [rd_atIssue, if_neg, if_pos rfl]
  simp only [R.ROTA_ENG_CNT_ISSUE, R.ROTA_ENG_CNT_BUBBLE]
  omega

theorem parCheck_fst (y : Byre) (sp a : Nat) :
    (y.parCheck sp a).1 = (y.badPar.contains (sp, a) || y.softPar.contains (sp, a)) := by
  unfold parCheck parBad
  split
  · simp_all
  · split <;> simp_all

@[simp] theorem parCheck_atIssue (y : Byre) (e t sp a : Nat) :
    ((y.atIssue e t).parCheck sp a).1 = (y.parCheck sp a).1 := by
  rw [parCheck_fst, parCheck_fst]; rfl

/-- An issue whose instruction completes: the effect on the byre as the instruction finds it, and the next word. -/
theorem issue_ok {y y2 : Byre} {e t : Nat} {f : Byre → Ends} {fl : Flow}
    (hb : budgetSpent (y.thread e t) = false)
    (hp : (y.parCheck 0 (codeAddr (clusterOf e) (y.thread e t).pc.toNat)).1 = false)
    (hs : slotViolation (y.thread e t) (y.codeWord e (y.thread e t).pc) = none)
    (hf : f (y.atIssue e t) = .ok y2 fl) :
    y.issue e t f = y2.onThread e t fun th => { th.complete fl with load := isLoad (y.codeWord e (y.thread e t).pc) } := by
  have hp' := hp
  rw [← parCheck_atIssue y e t] at hp'
  unfold issue
  simp only [hb, Bool.false_eq_true, if_false, hs, hf]
  generalize hq : (y.atIssue e t).parCheck 0 (codeAddr (clusterOf e) (y.thread e t).pc.toNat) = q at hp'
  obtain ⟨p, y'⟩ := q
  simp only at hp'
  subst hp'
  rfl

/-- An issue whose instruction traps. -/
theorem issue_trap {y : Byre} {e t : Nat} {f : Byre → Ends} {tr : Trap}
    (hb : budgetSpent (y.thread e t) = false)
    (hp : (y.parCheck 0 (codeAddr (clusterOf e) (y.thread e t).pc.toNat)).1 = false)
    (hs : slotViolation (y.thread e t) (y.codeWord e (y.thread e t).pc) = none)
    (hf : f (y.atIssue e t) = .trap tr) :
    y.issue e t f = (y.atIssue e t).takeTrap e t tr := by
  have hp' := hp
  rw [← parCheck_atIssue y e t] at hp'
  unfold issue
  simp only [hb, Bool.false_eq_true, if_false, hs, hf]
  generalize hq : (y.atIssue e t).parCheck 0 (codeAddr (clusterOf e) (y.thread e t).pc.toNat) = q at hp'
  obtain ⟨p, y'⟩ := q
  simp only at hp'
  subst hp'
  rfl

/-- A byre that is the one at issue but for its own thread has stepped. -/
theorem stepped_of_thread {y y' : Byre} {e : Fin 32} {t : Fin 8} {th' : Thr} (h1 : y'.thread e t = y.noted e t th')
    (h2 : ∀ (e' : Fin 32) (t' : Fin 8), (e', t') ≠ (e, t) → y'.thread e' t' = (y.atIssue e t).thread e' t')
    (h3 : { y' with thr := (y.atIssue e t).thr } = y.atIssue e t) : Stepped y y' e t th' := by
  have hr : y'.regs = (y.atIssue e t).regs := by have h := congrArg Byre.regs h3; exact h
  have hc : y'.engCyc = (y.atIssue e t).engCyc := by have h := congrArg Byre.engCyc h3; exact h
  have hrd : ∀ o, y'.rd o = (y.atIssue e t).rd o := fun o => by unfold rd; rw [hr]
  have hi := issued_atIssue y e t
  refine ⟨h1, fun e' t' h => ?_, ⟨?_, ?_, ?_⟩, fun o ho => ?_, ?_⟩
  · rw [h2 e' t' h, thread_atIssue_ne y h]
  · rw [hrd]; exact hi.1
  · rw [hrd]; exact hi.2.1
  · rw [hc]; exact hi.2.2
  · rw [hrd, rd_atIssue, if_neg, if_neg]
    · exact fun h => ho (by rw [h]; simp)
    · exact fun h => ho (by rw [h]; simp)
  · have h5 : { y' with thr := y.thr, regs := y.regs, engCyc := y.engCyc } =
        { { y' with thr := (y.atIssue e t).thr } with thr := y.thr, regs := y.regs, engCyc := y.engCyc } := rfl
    rw [h5, h3]
    rw [atIssue_eq]

end Byre

namespace State

/-- An engine operation under R193's and R243's conditions is one issue in its byre. -/
theorem engineOp_ready {s : State} {b : Fin 6} {e : Fin 32} {t : Fin 8} {i : Instr} (f : Byre → Ends) (hr : Ready s b e t i) :
    s.engineOp b e t i f = (s.setByre b ((s.byre b).issue e t f)).drain b := by
  obtain ⟨h1, h2, h3, -⟩ := hr
  unfold engineOp onByre
  rw [if_pos h1]
  unfold Byre.engineOp
  simp only [h2, h3, Bool.true_eq_false, if_false, ne_eq, not_true_eq_false]

/-- One issue of an instruction whose whole effect is `th'` for its own thread, with the next word `fl`. -/
theorem engineOp_ok {s : State} {b : Fin 6} {e : Fin 32} {t : Fin 8} {i : Instr} {f : Byre → Ends} {fl : Flow} {th' : Thr}
    (hr : Ready s b e t i)
    (hf : f ((s.byre b).atIssue e t) = .ok (((s.byre b).atIssue e t).setThread e t th') fl) :
    ∃ y', s.engineOp b e t i f = (s.setByre b y').drain b ∧ (s.byre b).Stepped y' e t (th'.complete fl) := by
  refine ⟨_, engineOp_ready f hr, ?_⟩
  obtain ⟨-, -, -, h4, h5, h6⟩ := hr
  rw [Byre.issue_ok h4 h5 h6 hf]
  apply Byre.stepped_of_thread
  · simp [Byre.onThread, Byre.noted]
  · intro e' t' h
    have hne : ¬(e'.val = e.val ∧ t'.val = t.val) := fun ⟨h1, h2⟩ => h (by rw [Fin.ext h1, Fin.ext h2])
    unfold Byre.onThread
    rw [Byre.thread_setThread_ne _ _ t.isLt t'.isLt hne, Byre.thread_setThread_ne _ _ t.isLt t'.isLt hne]
  · exact Byre.setThread_rest ..

/-- The same for an instruction given as a change of its thread's registers. -/
theorem threadOp_ok {s : State} {b : Fin 6} {e : Fin 32} {t : Fin 8} {i : Instr} (g : Thr → Thr) (hr : Ready s b e t i) :
    ∃ y', s.threadOp b e t i g = (s.setByre b y').drain b ∧
      (s.byre b).Stepped y' e t (inSequence (g ((s.byre b).charged e t))) :=
  engineOp_ok (fl := .seq) hr (by unfold Byre.pureOp Byre.onThread; rw [Byre.thread_atIssue])

end State

end Sys2Proof.Machine
end

