-- ==== Sys2Proof/Tests/Slice0.lean ====
section
/-!
SUPPORT. Tests: words of every engine instruction written out from the spec's encodings, ill-formed terms that WellFormed
refuses, and for every statement a state and operands that meet its hypotheses.
-/

namespace Sys2Proof.Machine

set_option Elab.async false

/-! ### Words of the engine instructions (R220 to R241, R261, R272) -/

/-- R222: words written out from the tables of fields. -/
def wordsAlu : List (Word × Instr) :=
  [(0x01458001#32, .add 1 9 3 5 1 6),
   (0x01458002#32, .sub 1 9 3 5 1 6),
   (0x01458003#32, .adds 1 9 3 5 1 6),
   (0x01458004#32, .subs 1 9 3 5 1 6),
   (0x01458005#32, .and 1 9 3 5 1 6),
   (0x01458006#32, .or 1 9 3 5 1 6),
   (0x01458007#32, .xor 1 9 3 5 1 6),
   (0x01458008#32, .andn 1 9 3 5 1 6),
   (0x01458009#32, .sll 1 9 3 5 1 6),
   (0x0145800A#32, .srl 1 9 3 5 1 6),
   (0x0145800B#32, .sra 1 9 3 5 1 6),
   (0x0145800C#32, .ror 1 9 3 5 1 6),
   (0x0145800D#32, .slt 1 9 3 5 1 6),
   (0x0145800E#32, .sltu 1 9 3 5 1 6),
   (0x0145800F#32, .min 1 9 3 5 1 6),
   (0x01458010#32, .max 1 9 3 5 1 6),
   (0x01458011#32, .minu 1 9 3 5 1 6),
   (0x01458012#32, .maxu 1 9 3 5 1 6),
   (0x01458013#32, .mul 1 9 3 5 1 6),
   (0x01458014#32, .mulh 1 9 3 5 1 6),
   (0x01458015#32, .mulhu 1 9 3 5 1 6),
   (0x01F00016#32, .clz 1 9 3 7 12),
   (0x01F00017#32, .abs 1 9 3 7 12)]

theorem test_decode_alu : ∀ p ∈ wordsAlu, decodeEng 1 9 3 p.1 = some p.2 := by decide

theorem test_encode_alu : ∀ p ∈ wordsAlu, encodeEng p.2 = some p.1 := by decide

/-- R223: words written out from the tables of fields. -/
def wordsImm : List (Word × Instr) :=
  [(0x052EF0F1#32, .addi 1 9 3 4 11 0x2F0F1#18),
   (0x092EF0F1#32, .slti 1 9 3 4 11 0x2F0F1#18),
   (0x0D2EF0F1#32, .sltiu 1 9 3 4 11 0x2F0F1#18),
   (0x112EF0F1#32, .andi 1 9 3 4 11 0x2F0F1#18),
   (0x152EF0F1#32, .ori 1 9 3 4 11 0x2F0F1#18),
   (0x192EF0F1#32, .xori 1 9 3 4 11 0x2F0F1#18),
   (0x1E40BEEF#32, .lui 1 9 3 9 0xBEEF#16),
   (0x21460011#32, .shifti 1 9 3 5 1 2#2 17#5)]

theorem test_decode_imm : ∀ p ∈ wordsImm, decodeEng 1 9 3 p.1 = some p.2 := by decide

theorem test_encode_imm : ∀ p ∈ wordsImm, encodeEng p.2 = some p.1 := by decide

/-- R224: words written out from the tables of fields. -/
def wordsAddr : List (Word × Instr) :=
  [(0x30FBFFF8#32, .addai 1 9 3 3 14 0x3FFF8#18),
   (0x34B40000#32, .mova 1 9 3 2 13),
   (0x34B40003#32, .movda 1 9 3 2 13),
   (0x34B40004#32, .movad 1 9 3 2 13),
   (0x34B5F001#32, .adda 1 9 3 2 13 7 3#2),
   (0x34B5F002#32, .suba 1 9 3 2 13 7 3#2)]

theorem test_decode_addr : ∀ p ∈ wordsAddr, decodeEng 1 9 3 p.1 = some p.2 := by decide

theorem test_encode_addr : ∀ p ∈ wordsAddr, encodeEng p.2 = some p.1 := by decide

/-- R235, R237: words written out from the tables of fields. -/
def wordsControl : List (Word × Instr) :=
  [(0x3AA50000#32, .mfc 1 9 3 10 0x25#6),
   (0x3AA50001#32, .mtc 1 9 3 10 0x25#6),
   (0x3F47C000#32, .getc 1 9 3 6 2#2 0x0F#6 8),
   (0x3F47C001#32, .putc 1 9 3 6 2#2 0x0F#6 8),
   (0x3C004002#32, .release 1 9 3 8)]

theorem test_decode_control : ∀ p ∈ wordsControl, decodeEng 1 9 3 p.1 = some p.2 := by decide

theorem test_encode_control : ∀ p ∈ wordsControl, encodeEng p.2 = some p.1 := by decide

/-- R226: words written out from the tables of fields. -/
def wordsMem : List (Word × Instr) :=
  [(0x41071FFC#32, .ld 1 9 3 4 1 6 (.disp 0x1FFC#13)),
   (0x45072008#32, .ldh 1 9 3 4 1 6 (.post 8#13)),
   (0x49075000#32, .ldhu 1 9 3 4 1 6 (.pre 0x1000#13)),
   (0x4D071FFC#32, .ldb 1 9 3 4 1 6 (.disp 0x1FFC#13)),
   (0x51072008#32, .ldbu 1 9 3 4 1 6 (.post 8#13)),
   (0x55075000#32, .ldp 1 9 3 4 1 6 (.pre 0x1000#13)),
   (0x59071FFC#32, .lda 1 9 3 4 1 6 (.disp 0x1FFC#13)),
   (0x61077700#32, .st 1 9 3 4 1 6 (.index 11 2#2) false),
   (0x65077700#32, .sth 1 9 3 4 1 6 (.index 11 2#2) false),
   (0x69077700#32, .stb 1 9 3 4 1 6 (.index 11 2#2) false),
   (0x6D077700#32, .stp 1 9 3 4 1 6 (.index 11 2#2) false),
   (0x71077700#32, .sta 1 9 3 4 1 6 (.index 11 2#2) false)]

theorem test_decode_mem : ∀ p ∈ wordsMem, decodeEng 1 9 3 p.1 = some p.2 := by decide

theorem test_encode_mem : ∀ p ∈ wordsMem, encodeEng p.2 = some p.1 := by decide

/-- R228, R231, R233: words written out from the tables of fields. -/
def wordsTransfer : List (Word × Instr) :=
  [(0x80D67FFE#32, .br 1 9 3 3 5 4#3 0x7FFE#15),
   (0x84E8FFF0#32, .brz 1 9 3 3 5#3 0xFFF0#16),
   (0x88001234#32, .j 1 9 3 0x1234#16),
   (0x8C008001#32, .call 1 9 3 0x8001#16),
   (0x93000000#32, .jr 1 9 3 12),
   (0x93000001#32, .callr 1 9 3 12),
   (0x90000002#32, .ret 1 9 3),
   (0xA3FF0003#32, .loopi 1 9 3 1023#10 3#16),
   (0xA7C0FFFF#32, .loopr 1 9 3 15 0xFFFF#16),
   (0xA8000003#32, .lpop 1 9 3 3#2)]

theorem test_decode_transfer : ∀ p ∈ wordsTransfer, decodeEng 1 9 3 p.1 = some p.2 := by decide

theorem test_encode_transfer : ∀ p ∈ wordsTransfer, encodeEng p.2 = some p.1 := by decide

/-- R238: words written out from the tables of fields. -/
def wordsSystem : List (Word × Instr) :=
  [(0xB2C15001#32, .wfe 1 9 3 11 0x15#5),
   (0xB0000002#32, .endop 1 9 3 false),
   (0xB0000003#32, .rft 1 9 3 false),
   (0xB0001002#32, .endop 1 9 3 true),
   (0xB0001003#32, .rft 1 9 3 true),
   (0xB0000004#32, .brk 1 9 3)]

theorem test_decode_system : ∀ p ∈ wordsSystem, decodeEng 1 9 3 p.1 = some p.2 := by decide

theorem test_encode_system : ∀ p ∈ wordsSystem, encodeEng p.2 = some p.1 := by decide

/-- R240: words written out from the tables of fields. -/
def wordsMac : List (Word × Instr) :=
  [(0xC2960001#32, .mac 1 9 3 2 9 6),
   (0xC2960002#32, .msu 1 9 3 2 9 6),
   (0xC2960003#32, .macu 1 9 3 2 9 6),
   (0xC2960004#32, .mulac 1 9 3 2 9 6),
   (0xC3000005#32, .clrac 1 9 3 3),
   (0xC100DFC8#32, .acx 1 9 3 13 1 63#6),
   (0xC100DA09#32, .acxt 1 9 3 13 1 40#6),
   (0xC100D08C#32, .mfac 1 9 3 13 1 2#2),
   (0xC170004D#32, .mtac 1 9 3 1 7 1#2)]

theorem test_decode_mac : ∀ p ∈ wordsMac, decodeEng 1 9 3 p.1 = some p.2 := by decide

theorem test_encode_mac : ∀ p ∈ wordsMac, encodeEng p.2 = some p.1 := by decide

/-- R241, R261, R272: words written out from the tables of fields. -/
def wordsCop : List (Word × Instr) :=
  [(0xE1590000#32, .mfcp 1 9 3 false 5 0x19#6),
   (0xE1590001#32, .mtcp 1 9 3 false 5 0x19#6),
   (0xE0268002#32, .csave 1 9 3 false 9 5),
   (0xE0268003#32, .crst 1 9 3 false 9 5),
   (0xE9590000#32, .mfcp 1 9 3 true 5 0x19#6),
   (0xE9590001#32, .mtcp 1 9 3 true 5 0x19#6),
   (0xE8268002#32, .csave 1 9 3 true 9 5),
   (0xE8268003#32, .crst 1 9 3 true 9 5),
   (0xE41A5800#32, .sdft 1 9 3 0xA5#8 true),
   (0xE42D0000#32, .out 1 9 3 6 true false),
   (0xE43D8000#32, .cmul 1 9 3 3 1 2),
   (0xE44D8000#32, .cmac 1 9 3 3 1 2),
   (0xE4580000#32, .cclr 1 9 3 2),
   (0xE463C000#32, .clrs 1 9 3 0x3C#8),
   (0xEC100000#32, .begin 1 9 3),
   (0xEC200040#32, .upd 1 9 3 64#7),
   (0xEC300000#32, .fin 1 9 3),
   (0xEC400000#32, .drop 1 9 3)]

theorem test_decode_cop : ∀ p ∈ wordsCop, decodeEng 1 9 3 p.1 = some p.2 := by decide

theorem test_encode_cop : ∀ p ∈ wordsCop, encodeEng p.2 = some p.1 := by decide
/-- The worked example of R251: every word as the manual prints it. -/
theorem test_decode_example :
    [0x21440006#32, 0x21840004, 0x01558001, 0x05540050, 0x34540003, 0xC0000005, 0xA0080003, 0x4104A008, 0x04000000, 0xC0440001,
      0xC00060C8, 0xB0000002].map (decodeEng 1 9 3) =
    [some (.shifti 1 9 3 5 1 0 6), some (.shifti 1 9 3 6 1 0 4), some (.add 1 9 3 5 5 6), some (.addi 1 9 3 5 5 80),
      some (.movda 1 9 3 1 5), some (.clrac 1 9 3 0), some (.loopi 1 9 3 8 3), some (.ld 1 9 3 4 1 1 (.post 8)),
      some (.addi 1 9 3 0 0 0), some (.mac 1 9 3 0 4 4), some (.acx 1 9 3 6 0 3), some (.endop 1 9 3 false)] := by decide

/-- Words with a reserved field, an undefined major or function code, and those of CP2 and CP3 (R220, R242). -/
theorem test_undefined_words :
    ([0x00000000#32, 0x00000041, 0x00000018, 0x1C010000, 0x20000020, 0x34000014, 0x38001E00, 0x380F0000, 0x3C000003, 0x40006001,
      0x54400000, 0x5844A000, 0x80030000, 0x84300000, 0x90000003, 0xA0000003, 0xA0080000, 0xA8000000, 0xB0002002, 0xC0000A49,
      0xC00000CC, 0xE4001000, 0xEC200041, 0xF0000000, 0xFC000000].all fun w => decodeEng 1 9 3 w == none) = true := by decide

/-! ### States for the witnesses -/

/-- Creamery registers with every domain of every byre on. -/
def W.crm : Creamery :=
  { Creamery.zero with regs := (List.range 6).map fun b => (R.AON_PWR_STATE b, 0xAAAAA#32) }

/-- The state with `y` as byre 1, every domain on. -/
def W.with (y : Byre) : State := { State.reset with byres := State.reset.byres.set 1 y, crm := W.crm }

/-- Byre 1 with the code word `w` at word 0 of cluster 1 and thread 3 of engine 9 as `th`. -/
def W.code (w : Word) (th : Thr) : Byre :=
  { Byre.zero 1 with mem := Mem.stw [] (Byre.codeAddr 1 0) w, thr := [(75, th)] }

/-- A thread that runs. -/
def W.thr : Thr := { Thr.zero with released := true }

/-- Thread 3 of engine 9 of byre 1 can issue `w`. -/
def W.at (w : Word) : State := W.with (W.code w W.thr)

theorem test_ready_alu : ∀ p ∈ wordsAlu, Ready (W.at p.1) 1 9 3 p.2 := by unfold Ready; decide +kernel
theorem test_ready_imm : ∀ p ∈ wordsImm, Ready (W.at p.1) 1 9 3 p.2 := by unfold Ready; decide +kernel
theorem test_ready_addr : ∀ p ∈ wordsAddr, Ready (W.at p.1) 1 9 3 p.2 := by unfold Ready; decide +kernel
theorem test_ready_control : ∀ p ∈ wordsControl, Ready (W.at p.1) 1 9 3 p.2 := by unfold Ready; decide +kernel
theorem test_ready_mem : ∀ p ∈ wordsMem, Ready (W.at p.1) 1 9 3 p.2 := by unfold Ready; decide +kernel
theorem test_ready_transfer : ∀ p ∈ wordsTransfer, Ready (W.at p.1) 1 9 3 p.2 := by unfold Ready; decide +kernel
theorem test_ready_system : ∀ p ∈ wordsSystem, Ready (W.at p.1) 1 9 3 p.2 := by unfold Ready; decide +kernel
theorem test_ready_mac : ∀ p ∈ wordsMac, Ready (W.at p.1) 1 9 3 p.2 := by unfold Ready; decide +kernel
theorem test_ready_cop : ∀ p ∈ wordsCop, Ready (W.at p.1) 1 9 3 p.2 := by unfold Ready; decide +kernel

/-! ### Witnesses: engine instructions -/

/-- Byre 1 where `th`, thread 3 of engine 9, stands at the word of `i`, changed by `f`. -/
def W.run (i : Instr) (th : Thr) (f : Byre → Byre := id) : State := W.with (f (W.code ((encodeEng i).getD 0#32) th))

/-- What `Ready` asks, as a test. -/
def W.ready (s : State) (i : Instr) : Bool :=
  let y := s.byre 1
  let th := y.thread 9 3
  let w := y.codeWord 9 th.pc
  s.engOn 1 9 && y.mayIssue 9 3 && decodeEng 1 9 3 w == some i && !Byre.budgetSpent th &&
    !(y.parCheck 0 (Byre.codeAddr (clusterOf 9) th.pc.toNat)).1 && (Byre.slotViolation th w).isNone

theorem W.ready_spec (s : State) (i : Instr) (h : W.ready s i = true) : Ready s 1 9 3 i := by
  simp only [W.ready, Bool.and_eq_true, beq_iff_eq, Bool.not_eq_true', Option.isNone_iff_eq_none] at h
  obtain ⟨⟨⟨⟨⟨h1, h2⟩, h3⟩, h4⟩, h5⟩, h6⟩ := h
  exact ⟨h1, h2, h3, h4, h5, h6⟩

/-- The instruction may issue there (`Ready`), and the condition of a clause holds of the thread as the instruction finds it. -/
def W.meets (i : Instr) (th : Thr) (f : Byre → Byre) (c : Byre → Thr → Bool) : Bool :=
  W.ready (W.run i th f) i && c ((W.run i th f).byre 1) (((W.run i th f).byre 1).charged 9 3)

/-- A thread at task level. -/
def W.task : Thr := { W.thr with status := 1#6 }

/-- A thread with the loop level 0 open up to the word `le`, `lc` passes left. -/
def W.loop (le : BitVec 16) (lc : Word) : Thr := { W.thr with status := 4#6, le := W.thr.le.set 0 le, lc := W.thr.lc.set 0 lc }

/-- A thread whose segment 1 has BASE `base`, LIMIT 0x100 and permission `perm`; A6 is `off`. -/
def W.seg (base off : Word) (perm : BitVec 3) : Thr :=
  { W.thr with sgBase := W.thr.sgBase.set 1 base, sgLimit := W.thr.sgLimit.set 1 0x100, sgPerm := W.thr.sgPerm.set 1 perm, a := W.thr.a.set 6 off }

/-- Every clause of NextWord: a pending transfer, no loop end, the end of a level with passes left and with its last. -/
theorem witness_next_word :
    { W.thr with slot := some 7#16 }.slot = some 7#16 ∧ (W.thr.slot = none ∧ W.thr.ld = 0) ∧
    (W.loop 5 1).leAt 0 ≠ (W.loop 5 1).pc ∧
    ((W.loop 0 2).slot = none ∧ (W.loop 0 2).ld = (0 : Fin 3).val + 1 ∧ (W.loop 0 2).le[(0 : Fin 3)] = (W.loop 0 2).pc ∧
      (W.loop 0 2).lc[(0 : Fin 3)] ≠ 1#32) ∧ (W.loop 0 1).lc[(0 : Fin 3)] = 1#32 := by decide

/-- ControlRegisterMoves: the level allows the move, or does not; the value written has a reserved bit, or none. -/
theorem witness_control_registers :
    W.meets (.mfc 1 9 3 5 1) W.thr id (fun _ th => !th.status.getLsbD 0) ∧
    W.meets (.mfc 1 9 3 5 1) W.task id (fun _ th => th.status.getLsbD 0) ∧
    W.meets (.mtc 1 9 3 5 0) W.thr id (fun _ th => decide (th.d[5].toNat &&& 0x3F = th.d[5].toNat ∧ th.status.getLsbD 0 = false)) ∧
    W.meets (.mtc 1 9 3 5 0x10) W.task id (fun _ th => decide (th.d[5].toNat &&& 0xFFFF = th.d[5].toNat ∧ th.status.getLsbD 0 = true)) ∧
    W.meets (.mtc 1 9 3 5 0) W.task id (fun _ th => decide (th.d[5].toNat &&& 0x3F = th.d[5].toNat ∧ th.status.getLsbD 0 = true)) ∧
    W.meets (.mtc 1 9 3 5 0) { W.thr with d := W.thr.d.set 5 64#32 } id (fun _ th => decide (th.d[5].toNat &&& 0x3F ≠ th.d[5].toNat)) := by
  decide +kernel

/-- ContextInstructions: the other thread stands, or the one named is the thread itself. -/
theorem witness_context :
    W.meets (.getc 1 9 3 2 0 7 5) W.thr id (fun y th => !th.status.getLsbD 0 && !(y.thread 9 2).released) ∧
    W.meets (.putc 1 9 3 2 2 0x0F 5) W.thr id (fun y th => !(y.thread 9 2).released && decide (th.d[5].toNat < 65536)) ∧
    W.meets (.putc 1 9 3 2 2 0x00 5) W.thr id (fun _ th => decide (th.d[5].toNat &&& 0x3F = th.d[5].toNat)) ∧
    W.meets (.getc 1 9 3 3 0 7 5) W.thr id (fun _ th => !th.status.getLsbD 0) := by decide +kernel

/-- Transfers and HardwareLoops: a register target below 2¹⁶ or not, room for a level, a count of 0, three levels open, a body
that passes the level around it, and a pop of what is open or of more. -/
theorem witness_transfers :
    W.meets (.jr 1 9 3 6) W.thr id (fun _ th => decide (th.a[6].toNat < 65536)) ∧
    W.meets (.callr 1 9 3 6) (W.seg 0 65536 0) id (fun _ th => decide (65536 ≤ th.a[6].toNat)) ∧
    W.meets (.ret 1 9 3) { W.thr with a := W.thr.a.set 15 65536#32 } id (fun _ th => decide (65536 ≤ th.a[15].toNat)) ∧
    W.meets (.ret 1 9 3) W.thr id (fun _ th => decide (th.a[15].toNat < 65536)) ∧
    W.meets (.loopi 1 9 3 8 3) W.thr id (fun _ th => decide (th.ld < 3 ∧ th.pc.toNat + 3 ≤ 0xFFFF)) ∧
    W.meets (.loopr 1 9 3 5 3) W.thr id (fun _ th => decide (th.ld < 3 ∧ th.pc.toNat + 3 ≤ 0xFFFF ∧ th.d[5] = 0#32)) ∧
    W.meets (.loopi 1 9 3 8 3) { W.thr with status := 12#6, le := W.thr.le.set 2 5 } id (fun _ th => decide (th.ld = 3)) ∧
    W.meets (.loopi 1 9 3 8 3) (W.loop 2 5) id (fun _ th => decide (th.ld = 1 ∧ th.le[0].toNat < th.pc.toNat + 3)) ∧
    W.meets (.lpop 1 9 3 1) (W.loop 2 5) id (fun _ th => decide (1 ≤ th.ld)) ∧
    W.meets (.lpop 1 9 3 2) (W.loop 2 5) id (fun _ th => decide (th.ld < 2)) := by decide +kernel

/-- SystemInstructions: an event that the mask names or none, no operation, the two levels and slot marks of RFT, and DBG. -/
theorem witness_system :
    W.meets (.wfe 1 9 3 5 2) { W.thr with ev := 2#5 } id (fun _ th => th.ev &&& 2#5 != 0#5) ∧
    W.meets (.wfe 1 9 3 5 2) W.thr id (fun _ th => th.ev &&& 2#5 == 0#5) ∧
    W.meets (.endop 1 9 3 false) W.thr id (fun _ th => th.op == none) ∧
    W.meets (.rft 1 9 3 false) W.task id (fun _ th => th.status.getLsbD 0) ∧
    W.meets (.rft 1 9 3 false) W.thr id (fun _ th => !th.status.getLsbD 0 && !th.tstat.getLsbD 8) ∧
    W.meets (.rft 1 9 3 true) { W.thr with tstat := 256#9 } id (fun _ th => !th.status.getLsbD 0 && th.tstat.getLsbD 8) ∧
    W.meets (.brk 1 9 3) W.thr id (fun _ th => !th.status.getLsbD 5) ∧
    W.meets (.brk 1 9 3) W.thr (fun y => { y.set F.CHURN_BYRE_STATE Byre.stTEST with unlocked := true }) (fun _ th => th.status.getLsbD 5) := by
  decide +kernel

/-- UndefinedInstructionTraps: the thread stands at the word `w`, which no instruction has, with nothing before it. -/
def W.undefinedAt (w : Word) : Bool :=
  let s := W.at w
  let y := s.byre 1
  let th := y.thread 9 3
  s.engOn 1 9 && y.mayIssue 9 3 && y.codeWord 9 th.pc == w && (decodeEng 1 9 3 w).isNone && !Byre.budgetSpent th &&
    !(y.parCheck 0 (Byre.codeAddr (clusterOf 9) th.pc.toNat)).1 && (Byre.slotViolation th w).isNone

/-- An undefined word below major 0x38, and one of CP3. -/
theorem witness_undefined : W.undefinedAt 0x00000041 = true ∧ W.undefinedAt 0xF0000000 = true := by decide +kernel

/-- The byre with bank 0 of the vat owned by cluster 1. -/
def W.owned (y : Byre) : Byre := y.set (F.VAT_OWNER_OWNER 0) 2

/-- SegAligned, SegWithin and SegAllowed of a word in segment 1, as tests. -/
def W.aligned (off : Nat) : Bool := off % 4 == 0
def W.within (th : Thr) (off : Nat) : Bool := decide (off + 4 ≤ th.sgLimit[1].toNat)
def W.allowed (th : Thr) (store : Bool) : Bool := th.sgPerm[1].getLsbD (if store then 1 else 0) && (!th.status.getLsbD 0 || th.sgPerm[1].getLsbD 2)
def W.seg3 (th : Thr) (off : Nat) : Bool := W.aligned off && W.within th off && W.allowed th false && W.allowed th true

theorem W.seg_spec (th : Thr) (off : Nat) (h : W.seg3 th off = true) :
    SegAligned off 4 ∧ SegWithin th 1 off 4 ∧ SegAllowed th 1 false ∧ SegAllowed th 1 true := by
  simp only [W.seg3, W.aligned, W.within, W.allowed, Bool.and_eq_true, beq_iff_eq, decide_eq_true_eq, Bool.or_eq_true,
    Bool.not_eq_true'] at h
  obtain ⟨⟨⟨ha, hw⟩, hr, hr'⟩, hs, hs'⟩ := h
  exact ⟨ha, hw, ⟨hr, fun t => hr'.resolve_left (by simp [t])⟩, hs, fun t => hs'.resolve_left (by simp [t])⟩

/-- Loads and Stores: an access to scratch, to an owned bank, outside every range, to a bank of another owner, misaligned, past
LIMIT, not allowed. -/
theorem witness_loads : ∀ p ∈ [(W.seg 0 8 7, 0x8), (W.seg 0x02000000 8 7, 0x02000008), (W.seg 0x07000000 8 7, 0x07000008),
      (W.seg 0x02040000 8 7, 0x02040008)],
    W.meets (.ld 1 9 3 5 6 1 (.disp 0)) p.1 W.owned (fun _ th =>
      W.seg3 th (modeOffset th 6 (.disp 0)).toNat && decide (physical th 1 (modeOffset th 6 (.disp 0)).toNat = p.2)) := by
  decide +kernel

theorem witness_load_places :
    let y := (W.run (.ld 1 9 3 5 6 1 (.disp 0)) (W.seg 0 8 7) W.owned).byre 1
    (ReadsAt y 9 8 4 1 (9 * 0x20000 + 8) ∧ WritesAt y 9 8 4 1 (9 * 0x20000 + 8) ∧ ReadsAt y 9 0x02000008 4 0 8 ∧ WritesAt y 9 0x02000008 4 0 8) ∧
    (∀ p ∈ y.badPar, p.1 ≠ 1) ∧ (Outside 0x07000008 4 false ∧ Outside 0x07000008 4 true) ∧ y.bankOpen ((0x02040008 - 0x02000000) / 0x40000) (1 + 9 / 8) = false ∧
    (y.bankOpen 0 2 = true) := by
  refine ⟨⟨Or.inl ⟨by decide, rfl, rfl⟩, Or.inl ⟨by decide, rfl, rfl⟩,
    Or.inr (Or.inr (Or.inl ⟨by decide, by decide, ?_, rfl, rfl⟩)), Or.inr (Or.inl ⟨by decide, by decide, ?_, rfl, rfl⟩)⟩, ?_, ?_, ?_, ?_⟩
  all_goals first | decide +kernel | (unfold Outside; decide +kernel)

theorem witness_load_traps : ∀ p ∈ [(W.seg 0 9 7, 0), (W.seg 0 0x100 7, 1), (W.seg 0 8 4, 2)],
    W.meets (.st 1 9 3 5 6 1 (.disp 0) false) p.1 id (fun _ th =>
      let off := (modeOffset th 6 (.disp 0)).toNat
      if p.2 = 0 then !W.aligned off else W.aligned off && if p.2 = 1 then !W.within th off else
        W.within th off && !W.allowed th false && !W.allowed th true) := by
  decide +kernel

/-- EngineIoWords: SELF, TICK_K, TICK_SEC, a shared register and the slot table. -/
theorem witness_io : ∀ o ∈ [0x204, 0x20C, 0x210, 0x200, 0x220, 0x13C], ∀ i ∈ [Instr.ld 1 9 3 5 6 1 (.disp 0), .st 1 9 3 5 6 1 (.disp 0) false],
    W.meets i { W.seg (0x04000000#32 + BitVec.ofNat 32 o) 0 7 with status := 1#6 } id (fun _ th =>
      W.seg3 th (modeOffset th 6 (.disp 0)).toNat && th.status.getLsbD 0 && decide (
        physical th 1 (modeOffset th 6 (.disp 0)).toNat = 0x04000000 + o)) := by
  decide +kernel

/-! ### Witnesses: coprocessors -/

/-- The byre with every coprocessor on. -/
def W.gates (y : Byre) : Byre := (y.wr R.ROTA_CP_GATE_SEP 0xFFFFFFFF).wr R.ROTA_CP_GATE_STR 0xF

/-- A thread with both units enabled at both levels. -/
def W.cop : Thr := { W.thr with cpen := 0x303#10 }

/-- `Enabled` and `UnitClean` of thread 3 of engine 9, as a test: the unit is on and no word has a parity mark. -/
def W.unitOn (y : Byre) (u : Bool) : Bool :=
  let th := y.thread 9 3
  th.cpen.getLsbD ((if th.status.getLsbD 0 then 8 else 0) + if u then 1 else 0) &&
    (if u then (y.rd R.ROTA_CP_GATE_STR).getLsbD (9 / 8) else (y.rd R.ROTA_CP_GATE_SEP).getLsbD 9) &&
    y.badPar.isEmpty && y.softPar.isEmpty

theorem W.unit_spec (y : Byre) (u : Bool) (h : W.unitOn y u = true) : Enabled y 9 3 u ∧ UnitClean y 9 := by
  simp only [W.unitOn, Bool.and_eq_true, List.isEmpty_iff] at h
  obtain ⟨⟨⟨h1, h2⟩, h3⟩, h4⟩ := h
  exact ⟨⟨h1, h2⟩, fun a => by simp [Byre.parCheck, Byre.parBad, h3, h4]⟩

/-- The thread's separator with length 32, a window and phase 0. -/
def W.sepThr : Thr := { W.cop with sep := Sep.zero.setReg 0x10 32 }

/-- CoprocessorMoves: a unit that is off; each class of register, at supervisor level and at task level. -/
theorem witness_cop_moves :
    W.meets (.mfcp 1 9 3 false 5 0) W.thr id (fun y _ => !W.unitOn y false) ∧
    W.meets (.mtcp 1 9 3 true 5 0) W.thr id (fun y _ => !W.unitOn y true) ∧
    W.meets (.mfcp 1 9 3 false 5 0x10) W.sepThr W.gates (fun y th => W.unitOn y false && !th.sep.busy 0x10) ∧
    W.meets (.mfcp 1 9 3 false 5 0x17) W.cop W.gates (fun y _ => W.unitOn y false) ∧
    W.meets (.mtcp 1 9 3 false 5 0x12) W.cop W.gates (fun y th => W.unitOn y false && th.sep.pend.isEmpty) ∧
    W.meets (.mtcp 1 9 3 false 5 0x11) W.sepThr W.gates (fun y th => W.unitOn y false && th.sep.pend.isEmpty && decide (th.d[5].toNat < th.sep.len)) ∧
    W.meets (.mtcp 1 9 3 false 5 0x20) W.cop W.gates (fun y th =>
      W.unitOn y false && th.sep.pend.isEmpty && !th.status.getLsbD 0 && decide (th.d[5].toNat < 1024)) ∧
    W.meets (.mtcp 1 9 3 false 5 0x22) W.cop W.gates (fun y th => W.unitOn y false && th.sep.pend.isEmpty && !th.status.getLsbD 0) ∧
    W.meets (.mtcp 1 9 3 false 5 0x21) { W.cop with status := 1#6 } W.gates (fun y th =>
      W.unitOn y false && th.sep.pend.isEmpty && th.status.getLsbD 0) ∧
    W.meets (.mfcp 1 9 3 true 5 0x1D) W.cop W.gates (fun y _ =>
      W.unitOn y true && (y.engine 9).str.pend.isEmpty && (y.engine 9).str.poison.isEmpty) ∧
    W.meets (.mtcp 1 9 3 true 5 0x18) W.cop W.gates (fun y _ =>
      W.unitOn y true && (y.engine 9).str.pend.isEmpty && (y.engine 9).str.poison.isEmpty && !(y.engine 9).str.active) := by decide +kernel

/-- SeparatorOperations: each operation with its unit on, a length and a window, and no register it names busy. -/
theorem witness_separator :
    W.meets (.sdft 1 9 3 5 true) W.sepThr W.gates (fun y th => W.unitOn y false && decide (th.sep.view.len ≠ 0) &&
      !th.sep.anyBusy [0x10, 0x11, 0x16, 0, 2, 8, 10]) ∧
    W.meets (.out 1 9 3 2 true false) W.sepThr W.gates (fun y th => W.unitOn y false && decide (th.sep.view.win ≠ 0) &&
      !th.sep.anyBusy [0x10, 0x12, 0x13, 0x14, 0x15]) ∧
    W.meets (.cmul 1 9 3 0 1 2) W.sepThr W.gates (fun y th => W.unitOn y false && !th.sep.anyBusy [0x1A, 0x1B, 0x1C, 0x1D, 0x18, 0x19]) ∧
    W.meets (.cmac 1 9 3 0 1 2) W.sepThr W.gates (fun y th => W.unitOn y false && !th.sep.anyBusy [0x1A, 0x1B, 0x1C, 0x1D, 0x18, 0x19]) ∧
    W.meets (.cclr 1 9 3 1) W.sepThr W.gates (fun y th => W.unitOn y false && !th.sep.anyBusy [0x1A, 0x1B]) ∧
    W.meets (.clrs 1 9 3 5) W.sepThr W.gates (fun y th => W.unitOn y false && !th.sep.anyBusy [0x16]) := by decide +kernel

/-- The byre whose strainer of engine 9 has the window `w`. -/
def W.strainer (w : Str) (y : Byre) : Byre := let y := W.gates y; { y with eng := [(9, { y.engine 9 with str := w })] }

/-- StrainerOperations: each operation; a DROP of the owner's window with nothing queued. -/
theorem witness_strainer :
    W.meets (.begin 1 9 3) W.cop W.gates (fun y _ => W.unitOn y true) ∧ W.meets (.upd 1 9 3 16) W.cop W.gates (fun y _ => W.unitOn y true) ∧
    W.meets (.fin 1 9 3) W.cop W.gates (fun y _ => W.unitOn y true) ∧
    W.meets (.drop 1 9 3) W.cop (W.strainer { Str.zero with active := true, owner := 3 }) (fun y _ =>
      W.unitOn y true && (y.engine 9).str.pend.isEmpty && (y.engine 9).str.active && (y.engine 9).str.owner == 3) := by decide +kernel

/-- A queued operation of thread 3. -/
def W.strOp (op : Nat) : StrPend := ⟨op, 3, 16, List.replicate 64 0#8, List.replicate 12 0#8, 0⟩

/-- ResultCommits: a waiting result of the separator, none, and every kind of strainer operation at the head. -/
theorem witness_commits :
    let queued : Sep := { Sep.zero with pend := [⟨[(0x18, 5#32)], [(1, 3#80, 4#80)]⟩] }
    let at_ := fun th f => (W.with (f (W.code 0 th)))
    let str := fun (w : Str) (op : Nat) => at_ W.cop (W.strainer { w with pend := [W.strOp op] })
    ((at_ { W.cop with sep := queued } id).engOn 1 9 = true ∧ ((at_ { W.cop with sep := queued } id).byre 1 |>.thread 9 3).sep.pend = queued.pend ∧
      ((at_ W.cop id).byre 1 |>.thread 9 3).sep.pend = []) ∧
    (∀ op ∈ [1, 2, 3], (((str Str.zero op).byre 1).engine 9).str.pend = [W.strOp op] ∧ (((str Str.zero op).byre 1).engine 9).str.active = false ∧
      (((str Str.zero op).byre 1).engine 9).str.err = 0) ∧
    (∀ o ∈ [3, 4], ∀ op ∈ [2, 3], let w := (((str { Str.zero with active := true, owner := o } op).byre 1).engine 9).str
      w.active = true ∧ w.owner = o ∧ w.pend = [W.strOp op] ∧ w.done = false ∧ w.tail = [] ∧ w.err = 0) ∧
    ((str Str.zero 1).byre 1).badPar = [] ∧ ((str Str.zero 1).byre 1).keyHdr 0 0 / 2 ^ 31 % 2 = 0 := by decide +kernel

/-- CoprocessorImages: an aligned image within its segment in scratch, at supervisor level; and at task level. -/
theorem witness_images :
    (∀ i ∈ [Instr.csave 1 9 3 false 6 1, .csave 1 9 3 true 6 1, .crst 1 9 3 false 6 1, .crst 1 9 3 true 6 1],
      W.meets i { W.seg 0 0 7 with cpen := 0x303#10, sgLimit := (W.seg 0 0 7).sgLimit.set 1 0x1000 } W.gates (fun y th =>
        W.unitOn y false && W.unitOn y true && !th.status.getLsbD 0 && th.sep.pend.isEmpty && (y.engine 9).str.pend.isEmpty &&
        decide (th.a[6].toNat % 8 = 0 ∧ th.a[6].toNat + 384 ≤ th.sgLimit[1].toNat ∧ physical th 1 th.a[6].toNat = 0) &&
        th.sgPerm[1].getLsbD 0 && th.sgPerm[1].getLsbD 1) = true ∧
      W.meets i { W.cop with status := 1#6 } W.gates (fun y th => W.unitOn y false && W.unitOn y true && th.status.getLsbD 0) = true) ∧
    0 + 384 ≤ 0x20000 := by decide +kernel

/-! ### Witnesses: engines, rota, ingress -/

/-- The state whose byre 1 is the reset byre changed by `f`, every domain on. -/
def W.s (f : Byre → Byre) : State := W.with (f (Byre.zero 1))

/-- CoprocessorGates, EngineStartStop: nothing stops a management write, the byre is idle and its clusters are on. -/
theorem witness_engine_control : ∀ o ∈ [R.ROTA_CP_GATE_SEP, R.ROTA_CP_GATE_STR, R.ROTA_ENG_CTRL 9, R.ROTA_ING_CMD, R.ROTA_IND_DATA, R.ROTA_KEY_CMD,
      R.VAT_OWNER 5, R.PAIL_POOL_CFG 2, R.LOCK_ACQ 5, R.LOCK_REL 5],
    (W.s id).stop 1 .mp o true = none ∧ ((W.s id).byre 1).idle = true ∧ (W.s id).on 1 (domCL + 9 / 8) = true ∧ (W.s id).on 1 domFAB = true := by
  decide +kernel

/-- A byre with the ROTA_IND_DATA word readable and good, and the rota idle (IngressTables). -/
theorem witness_ind : (W.s id).stop 1 .mp R.ROTA_IND_DATA false = none ∧ (((W.s id).byre 1).parCheck 1 ((W.s id).byre 1).indKey).1 = false := by
  decide +kernel

/-- An entry of the operation list, as good as ready. -/
def W.ent : OpEnt := { seq := 1, cls := 1, id := 5, d1 := 0, entry := 64, home := 9, spill := 15, budget := 100, groups := 0,
                       preds := [0xFFFF, 0xFFFF, 0xFFFF, 0xFFFF], tick := ⟨0, 0⟩, info := 0, ready := some 0 }

/-- A thread with an operation whose budget is spent. -/
def W.spent (n : Nat) : Thr := { W.thr with op := some ⟨W.ent, n, 0, false⟩ }

/-- ThreadEvents: a wait whose event is latched, a spent budget, and an operation that ends. -/
theorem witness_thread_events :
    (let s := W.with (W.code 0 { W.thr with wait := some 2#5, ev := 3#5 })
     s.engOn 1 9 = true ∧ ((s.byre 1).thread 9 3).wait = some 2#5 ∧ ((s.byre 1).thread 9 3).ev &&& 2#5 ≠ 0#5) ∧
    (let s := W.with (W.code 0 (W.spent 0))
     s.engOn 1 9 = true ∧ (((s.byre 1).thread 9 3).op.map (·.left)) = some 0 ∧ (s.byre 1).mayIssue 9 3 = true) ∧
    W.meets (.endop 1 9 3 true) (W.spent 5) id (fun _ th => th.op.isSome && !th.status.getLsbD 1) = true := by decide +kernel

/-- OperationPlacement: nothing ready; one entry ready, its affinity engine good and a thread of it free. -/
theorem witness_placement :
    ((W.s id).byre 1).rota.ents.filter (·.ready.isSome) = [] ∧ (((W.s id).byre 1).parCheck spReady 0).1 = false ∧
    (let s := W.s fun y => { W.code 0 { W.thr with wait := some 1#5 } with rota := { y.rota with ents := [W.ent] } }
     let y := s.byre 1
     y.rota.ents.filter (·.ready.isSome) = [W.ent] ∧ (y.parCheck spAff 5).1 = false ∧
       ∃ a : Fin 32, (y.affinity W.ent).1 = a.val ∧ ∃ (t : Fin 8) (ts : List Nat), y.freeThreads (s.clusterOn 1) a = t.val :: ts) := by
  refine ⟨by decide +kernel, by decide +kernel, by decide +kernel, by decide +kernel, 9, by decide +kernel, 3, [], by decide +kernel⟩

/-- The ingress word 0 of operation `op` in bank 0 for a bound thread (R209). -/
def W.bound (op : Nat) : SMap Word := [(4 * op, 0x80800000#32), (4 * op + 2, 75#32)]

/-- IngressTables: the live bank, a well-formed entry and one with class 3; an empty queue; a frame held, one with a bad operation
and one for a bound thread. -/
theorem witness_ingress :
    (let y := (W.s fun y => y.set F.CHURN_BYRE_STATE Byre.stRUNNING).byre 1
     y.live = true ∧ y.bank = 0 ∧ y.st ≠ Byre.stFAULTED ∧ (W.s fun y => y.set F.CHURN_BYRE_STATE Byre.stRUNNING).stop 1 .mp R.ROTA_ING_CMD true = none) ∧
    ((W.s id).byre 1).live = false ∧ ((W.s id).byre 1).ingq = [] ∧
    (let y := (W.s fun y => { y with ingq := [(0, 64, 0x400, 0, 0)] }).byre 1
     y.ingq = [(0, 64, 0x400, 0, 0)] ∧ y.flag F.ROTA_STATUS_ING_HELD = false ∧ 0x3FF < 0x400) ∧
    (let y := (W.s fun y => { y with ingq := [(0, 64, 7, 0, 0)], rota := { y.rota with ing := W.bound 7 } }).byre 1
     y.ingq = [(0, 64, 7, 0, 0)] ∧ (y.parCheck spIng 7).1 = false ∧ y.ingWord y.bank 7 0 / 2 ^ 31 % 2 = 1 ∧ y.ingWord y.bank 7 0 / 2 ^ 23 % 2 = 1 ∧
       y.ingWord y.bank 7 2 % 256 = (9 : Fin 32) * 8 + (3 : Fin 8) ∧ (y.thread 9 3).post.length < 16 ∧ (y.parCheck spQueue 26).1 = false) ∧
    ((W.s fun y => y.put F.ROTA_STATUS_ING_HELD true).byre 1).flag F.ROTA_STATUS_ING_HELD = true := by decide +kernel

/-! ### Witnesses: vat, pails, locks, keys -/

/-- The state that `W.s` changes and its byre, with a Boolean condition. -/
def W.has (f : Byre → Byre) (c : State → Byre → Bool) : Bool := c (W.s f) ((W.s f).byre 1)

/-- VatBankOwners: an idle owner, a busy tanker channel, a pending handover, a retained bank, a bank that wakes, a locked write. -/
theorem witness_owners :
    W.has id (fun s y => (s.stop 1 .mp (R.VAT_OWNER 5) true).isNone && !y.inPool 5 && ownerCode 0x20 && !ownerCode 0x21 && !y.flag (F.VAT_OWNER_PEND 5)) ∧
    W.has (fun y => (y.set (F.VAT_OWNER_OWNER 5) 0x13).set (F.TNK_STATUS_STATE 3) 1) (fun _ y => y.bankOwner 5 == 0x10 + 3 && y.chanBusy 3) ∧
    W.has (fun y => y.put (F.VAT_OWNER_PEND 5) true) (fun s y => y.flag (F.VAT_OWNER_PEND 5) && s.on 1 domFAB && (List.range 16).all fun n => !y.chanBusy n) ∧
    W.has (fun y => (y.set (F.VAT_OWNER_OWNER 5) 0x20).put (F.VAT_OWNER_RET 5) true) (fun _ y => y.bankOwner 5 == 0x20 && y.flag (F.VAT_OWNER_RET 5)) ∧
    W.has (fun y => y.set (F.VAT_OWNER_OWNER 5) 1) (fun s y => y.bankOwner 5 != 0x20 && (s.stop 1 .mp (R.VAT_OWNER 5) true).isNone) ∧
    W.has (fun y => y.set F.CHURN_BYRE_STATE Byre.stRUNNING) (fun s _ => s.stop 1 .mp (R.VAT_OWNER 5) true == some .locked) ∧
    W.has (fun y => { y with wakeAt := [(5, 9)] }) (fun s y => s.on 1 domFAB && SMap.get (fun _ => 0) y.wakeAt 5 == 8 + 1) := by decide +kernel

/-- The byre with bank 5 in pool 3, its first pail at the head of the list. -/
def W.pool (y : Byre) : Byre :=
  { (((y.set (F.VAT_OWNER_OWNER 5) 0x30).set (F.PAIL_POOL_CFG_BASE_BANK 3) 5).set (F.PAIL_POOL_CFG_NBANKS 3) 1).put (F.PAIL_POOL_CFG_EN 3) true |>.set (F.PAIL_POOL_BOOK_TOTAL 3) 128 with
    poolHead := [(3, 0x140001)] }

/-- PailPools: a pool that may be enabled, with a bad range, one that is in use or not, and one that rebuilds. -/
theorem witness_pools :
    W.has (fun y => y.set (F.VAT_OWNER_OWNER 5) 0x20) (fun s y => (s.stop 1 .mp (R.PAIL_POOL_CFG 3) true).isNone && y.idle && !y.flag (F.PAIL_POOL_CFG_EN 3) &&
      y.bankOpen 5 0x20 && !y.inPool 5 && y.charge.isEmpty && decide (5 + 1 ≤ 48 ∧ 48 < 47 + 2)) ∧
    W.has W.pool (fun s y => (s.stop 1 .mp (R.PAIL_POOL_CFG 3) true).isNone && y.flag (F.PAIL_POOL_CFG_EN 3) &&
      (y.pailsOf 3).all (fun o => !y.pailUsed o) && !y.flag (F.PAIL_POOL_STAT_REBUILDING 3) &&
      decide (y.get (F.PAIL_POOL_CFG_BASE_BANK 3) + y.get (F.PAIL_POOL_CFG_NBANKS 3) ≤ 48)) ∧
    W.has (fun y => { W.pool y with charge := [(0x140000, 3)] }) (fun _ y => (y.pailsOf 3).any (y.pailUsed ·)) ∧
    W.has (fun y => (W.pool y).put (F.PAIL_POOL_STAT_REBUILDING 3) true) (fun s y => s.on 1 domFAB && y.flag (F.PAIL_POOL_STAT_REBUILDING 3) &&
      y.st != Byre.stFAULTED && (y.pailsOf 3).all fun o => !y.parBad 4 o) := by decide +kernel

/-- PailRequests: a request that pool 3 alone can serve, within quota or not; none that can; frees of an allocated pail, during a rebuild, of
a free pail, and of no pail. -/
theorem witness_pail_requests :
    W.has (fun y => (W.pool y).set (F.PAIL_QUOTA_LIMIT 2) 100) (fun s y => s.on 1 domFAB && decide (1000 ≤ pailSize 3) && y.poolServes 3 &&
      !y.flag (F.PAIL_POOL_CFG_EN 0) && !y.flag (F.PAIL_POOL_CFG_EN 1) && !y.flag (F.PAIL_POOL_CFG_EN 2) && y.head 3 == some 0x140000 &&
      !(y.parCheck 4 0x140000).1 && !(y.parCheck 0 0x140000).1 && !(y.parCheck 0 0x140004).1 &&
      decide (y.get (F.PAIL_USED_USED 2) + 16 ≤ y.get (F.PAIL_QUOTA_LIMIT 2))) ∧
    W.has (fun y => (W.pool y).set (F.PAIL_QUOTA_LIMIT 2) 3) (fun _ y => decide (y.get (F.PAIL_QUOTA_LIMIT 2) < y.get (F.PAIL_USED_USED 2) + 16)) ∧
    W.has id (fun _ y => (List.range 4).all fun q => !y.poolServes q) ∧
    W.has (fun y => { W.pool y with charge := [(0x140000, 3)] }) (fun _ y => y.pailPool 0x140000 == some 3 && !(y.parCheck 4 0x140000).1 &&
      SMap.get (fun _ => 0) y.canPail 0x140000 == 0 && !y.flag (F.PAIL_POOL_STAT_REBUILDING 3) && decide (y.get (F.PAIL_POOL_STAT_FREE 3) < 2 ^ 17 - 1) &&
      SMap.get (fun _ => 0) y.charge 0x140000 == 2 + 1) ∧
    W.has (fun y => { (W.pool y).put (F.PAIL_POOL_STAT_REBUILDING 3) true with charge := [(0x140000, 3)], poolScan := [(3, 9, 4)] })
      (fun _ y => y.pailUsed 0x140000 && decide (y.tu.clk < (y.scanOf 3).1) && !y.scanned 3 0x140000) ∧
    W.has W.pool (fun _ y => y.pailPool 0x140000 == some 3 && !y.pailUsed 0x140000 && (y.pailPool 0x140001).isNone && !y.flag F.PAIL_FREE_CAP_VALID) := by
  decide +kernel

/-- Locks: a thread with the right, a free lock and a held one of its own or of another; no right; the masters of the byre and of the creamery. -/
theorem witness_locks :
    W.has (fun y => y.wr (R.LOCK_GRP_RIGHTS (5 / 16)) 0xFFFFFFFF) (fun s y => s.on 1 domFAB && (y.rd (R.LOCK_GRP_RIGHTS (5 / 16))).getLsbD (9 / 8) &&
      !y.flag (F.LOCK_ACQ_HELD 5) && (y.rd (R.LOCK_GRP_RIGHTS (5 / 16))).getLsbD 4 && (y.rd (R.LOCK_GRP_RIGHTS (5 / 16))).getLsbD 5 &&
      (s.stop 1 .mp (R.LOCK_ACQ 5) true).isNone && (s.stop 1 .mp (R.LOCK_REL 5) true).isNone && !y.flag F.LOCK_ERR_CAP_VALID) ∧
    W.has (fun y => ((y.wr (R.LOCK_GRP_RIGHTS (5 / 16)) 0xFFFFFFFF).put (F.LOCK_ACQ_HELD 5) true).set (F.LOCK_ACQ_OWNER 5) 75) (fun _ y =>
      y.flag (F.LOCK_ACQ_HELD 5) && y.get (F.LOCK_ACQ_OWNER 5) == 75) ∧
    W.has (fun y => y.wr (R.LOCK_GRP_RIGHTS (5 / 16)) 0) (fun _ y => !(y.rd (R.LOCK_GRP_RIGHTS (5 / 16))).getLsbD (9 / 8)) ∧
    (let c := { W.crm with regs := SMap.set crmRst W.crm.regs (R.CRM_LOCK_GRP_RIGHTS 0) 7 }
     let s := { W.s id with crm := c }
     (s.shut .mp = false ∧ bit (c.rdN (R.CRM_LOCK_GRP_RIGHTS 0)) 0 = true) ∧ c.flag (F.CRM_LOCK_ACQ_HELD 5) = false) ∧
    (let c := { W.crm with regs := SMap.set crmRst W.crm.regs (R.CRM_LOCK_GRP_RIGHTS 0) 7 }
     let c := (c.put (F.CRM_LOCK_ACQ_HELD 5) true).set (F.CRM_LOCK_ACQ_OWNER 5) 0x100
     c.flag (F.CRM_LOCK_ACQ_HELD 5) = true ∧ c.get (F.CRM_LOCK_ACQ_OWNER 5) = 0x100) := by decide +kernel

/-- KeyStore: the bank is not live and the header is well formed, or not; and the live bank. -/
theorem witness_keys :
    W.has (fun y => y.wr R.ROTA_KEY_HDR 0xA0000000) (fun s y => (s.stop 1 .mp R.ROTA_KEY_CMD true).isNone && !y.live &&
      decide ((y.rd R.ROTA_KEY_HDR).toNat % 2 ^ 23 = 0 ∧ (y.rd R.ROTA_KEY_HDR).toNat / 2 ^ 29 % 4 = 1)) ∧
    W.has (fun y => y.wr R.ROTA_KEY_HDR 1) (fun _ y => decide ((y.rd R.ROTA_KEY_HDR).toNat % 2 ^ 23 ≠ 0)) ∧
    W.has (fun y => y.set F.CHURN_BYRE_STATE Byre.stRUNNING) (fun s y => (s.stop 1 .mp R.ROTA_KEY_CMD true).isNone && y.live && y.bank == 0) := by decide +kernel

/-! ### Witnesses: time -/

/-- The byre in time state `t`, its counter running. -/
def W.time (t : Nat) (y : Byre) : Byre := { y.set F.TIME_STATUS_STATE t with tu := { y.tu with stopped := false, watchdog := some 9 } }

/-- ServoRequests: every time state, the owner and another thread, and a watchdog that runs. -/
theorem witness_servo :
    (∀ t ∈ [Byre.tFREE, Byre.tACQ, Byre.tLOCKED, Byre.tHOLD],
      W.has (W.time t) (fun s y => (s.stop 1 .mp R.TIME_SERVO true).isNone && (s.stop 1 .mp R.TIME_STEP_NS true).isNone && y.tst == t) = true) ∧
    W.has (fun y => ((y.set F.TIME_SERVO_OWNER_ENGINE 9).set F.TIME_SERVO_OWNER_THREAD 3)) (fun s y =>
      s.on 1 domFAB && y.servoOwner 9 3 && y.tu.frozenAt.isNone && !y.servoOwner 9 4) ∧
    W.has (W.time 1) (fun s y => s.on 1 domTIME && !y.tu.stopped && y.tu.watchdog == some 9) := by decide +kernel

/-- TimeSteps: a step pending with no tick and with a tick running; both leap flags. -/
theorem witness_steps :
    W.has (fun y => (W.time 1 y).put F.TIME_STATUS_STEP_PEND true) (fun s y => s.on 1 domTIME && !y.tu.stopped && y.flag F.TIME_STATUS_STEP_PEND && y.tu.rate == 0) ∧
    W.has (fun y => let y := (W.time 1 y).put F.TIME_STATUS_STEP_PEND true; { y with tu := { y.tu with rate := 4000, genK := 7 } })
      (fun _ y => decide (0 < y.tu.rate ∧ y.tu.genK < y.tu.rate) && y.tu.frozenAt.isNone && y.flag F.TIME_STATUS_STEP_PEND) ∧
    W.has (fun y => (W.time 1 y).put F.TIME_UTC_LEAP61 true) (fun _ y => y.flag F.TIME_UTC_LEAP61) ∧
    W.has (fun y => (W.time 1 y).put F.TIME_UTC_LEAP59 true) (fun _ y => !y.flag F.TIME_UTC_LEAP61 && y.flag F.TIME_UTC_LEAP59) := by decide +kernel

/-- TimeUnit: the latching reads, no tick, the reference present and lost with the real-time clock set, and the PPS pins. -/
theorem witness_time_unit :
    W.has (W.time 1) (fun s y => (s.stop 1 .mp R.TIME_SEC_LO false).isNone && (s.stop 1 .mp R.TIME_MONO_LO false).isNone && s.on 1 domTIME && s.on 1 domFAB &&
      y.tu.rate == 0 && !y.tu.refFail) ∧
    (let s := { W.s (fun y => { y with tu := { y.tu with refFail := true } }) with crm := { W.crm with rtc := some (50000, 0) } }
     (s.byre 1).tu.refFail = true ∧ s.crm.rtcNow = some 50000 ∧ s.on 1 domTIME = true) ∧
    W.has (fun y => ((W.time 1 y).put F.TIME_PPS_OUT_EN true).put F.TIME_PPS_IN_EN true) (fun _ y => y.flag F.TIME_PPS_OUT_EN && !y.tu.stopped &&
      y.flag F.TIME_PPS_IN_EN && y.flag F.TIME_PPS_IN_EDGE != true && !y.flag F.TIME_STATUS_PPS_IN_MISSING) ∧
    W.has (fun y => { y with tu := { y.tu with ppsOut := true } }) (fun _ y => y.tu.ppsOut && !y.flag F.TIME_PPS_IN_EN) := by decide +kernel

/-! ### Witnesses: plans -/

/-- A plan at word 1, in its tick of second 5. -/
def W.plan : Plan :=
  { tick := ⟨5, 3⟩, bt := 5000750000, btMono := 0, nb := none, flip := 0, rate := 4000, pc := 1, loops := [], wait := .none, committed := true,
    overran := false, conserve := false }

/-- The byre in the plan `p`, whose next word holds the lanes `ls`, changed by `f`. -/
def W.word (p : Plan) (ls : List Nat) (f : Byre → Byre) : State :=
  W.s fun y =>
    let y := f (y.wr (R.CHURN_DISP (ls.headD 0 % 256)) 0x80000000)
    { y with ch := { y.ch with plan := some p },
             mem := ls.zipIdx.foldl (fun m x => Mem.stw m (Byre.laneAddr 0 (p.pc % 16384) x.2) (BitVec.ofNat 32 x.1)) y.mem }

/-- `AtWord`, and a condition of a clause, as a test. -/
def W.atWord (p : Plan) (ls : List Nat) (f : Byre → Byre) (c : Byre → Bool) : Bool :=
  let s := W.word p ls f
  let y := s.byre 1
  let w := p.pc % 16384
  s.on 1 domFAB && y.ch.plan == some p && p.wait == .none && !p.overran && !y.rota.stalled && y.rota.recq.isEmpty &&
    (p.committed || !y.pastThreshold p) && y.bank == 0 && y.badPar.isEmpty && bit (y.rdN (R.CHURN_DISP (y.lane y.bank w 0 % 256))) 31 &&
    decide (y.lane y.bank w 0 % 256 < 0x0F) && Byre.wordOk (y.lanes y.bank w) &&
    ((List.range 8).map (y.lane y.bank w) == (List.range 8).map (fun i => ls.getD i 0)) && c y

/-- A word of a legal opcode with no parity mark and no reserved field is fetched well. -/
theorem W.fetch_spec (y : Byre) (w : Nat) (h : y.badPar = []) (h1 : bit (y.rdN (R.CHURN_DISP (y.lane y.bank w 0 % 256))) 31 = true)
    (h2 : y.lane y.bank w 0 % 256 < 0x0F) (h3 : Byre.wordOk (y.lanes y.bank w) = true) : y.fetchCheck w = none := by
  have hp : ∀ sp a, y.parBad sp a = false := fun sp a => by simp [Byre.parBad, h]
  unfold Byre.fetchCheck
  have h4 : ¬ 0x0F ≤ y.lane y.bank w 0 % 256 := by omega
  have hf : ∀ l : List Nat, l.find? (fun _ => false) = none := fun l => by simp
  have ha : ∀ l : List Nat, (l.any fun _ => false) = false := fun l => by simp
  simp [hp, h1, h4, h3, hf, ha]

theorem W.atWord_spec (p : Plan) (ls : List Nat) (f : Byre → Byre) (c : Byre → Bool) (h : W.atWord p ls f c = true) :
    AtWord (W.word p ls f) 1 p (fun i => ls.getD i 0) (ls.getD 0 0 % 256) := by
  simp only [W.atWord, Bool.and_eq_true, beq_iff_eq, decide_eq_true_eq, Bool.or_eq_true, Bool.not_eq_true', List.isEmpty_iff] at h
  obtain ⟨⟨⟨⟨⟨⟨⟨⟨⟨⟨⟨⟨⟨h1, h2⟩, h3⟩, h4⟩, h5⟩, h6⟩, h7⟩, h8⟩, h9⟩, h10⟩, h11⟩, h12⟩, h13⟩, _⟩ := h
  refine ⟨h1, h2, h3, h4, h5, h6, h7, W.fetch_spec _ _ h9 h10 h11 h12, ?_, rfl⟩
  intro i hi
  have := congrArg (fun l => l.getD i 0) h13
  simpa [List.getD_eq_getElem?_getD, List.getElem?_map, List.getElem?_range hi] using this

/-- An entry of a recorder's group and of a press group. -/
def W.groupOn (y : Byre) : Byre := { y with grp := [(2, ⟨true, 0, 0, 0, 0⟩)] }

/-- PlanWords: every word, with the condition of each of its clauses. -/
theorem witness_words :
    W.atWord W.plan [0x00] id (fun _ => true) ∧ W.atWord W.plan [0x08, 4, 9] id (fun _ => true) ∧ W.atWord W.plan [0x01, 100] id (fun _ => true) ∧
    W.atWord W.plan [0x0D, 7] id (fun y => decide (y.evq.length < 64)) ∧ W.atWord W.plan [0x02, 2] id (fun y => !(y.group 2).on) ∧
    W.atWord W.plan [0x02, 2] W.groupOn (fun y => (y.group 2).on) ∧
    W.atWord W.plan [0x03, 5, 100, 9, 1, 0, 0, 64] id (fun y => decide (y.occPlain < 4080) && y.rdN R.CHURN_BADENG == 0) ∧
    W.atWord W.plan [0x04, 3, 0x40] (fun y => { (y.set (F.VAT_OWNER_OWNER 0) 0x13).wr (R.TNK_CTRL 3) 0 with mem := Mem.stw y.mem 0x40 0x80000000 }) (fun y =>
      y.descOpen 3 0x40 && (y.ldw 0x40).testBit 31 && !(y.chan 3).disabled && !(y.chan 3).armed && decide ((y.chan 3).held < 3) && (y.chan 3).st != 1) ∧
    W.atWord W.plan [0x04, 3, 0x40] (fun y => y.put (F.TNK_STATUS_SH_ARMED 3) true) (fun y => (y.chan 3).armed) ∧
    W.atWord W.plan [0x05, 0x10005, 2000000, 7] id (fun y => (y.result 7).kind == 0) ∧
    W.atWord W.plan [0x05, 0x10005, 2000000, 7] (fun y => { y with results := [(7, ⟨2, false, 0, 100, 0x140000⟩)] }) (fun y =>
      (y.result 7).kind == 2 && decide ((y.calOf 5).length < 256)) ∧
    W.atWord W.plan [0x05, 0x10021, 2000000, 7] (fun y => { y with results := [(7, ⟨1, true, 0, 0, 0⟩)] }) (fun y =>
      (y.result 7).kind == 1 && decide ((y.calOf 33).length < 256)) := by decide +kernel

theorem witness_words_more :
    W.atWord W.plan [0x07] (fun y => { y with mem := Mem.stw y.mem (Byre.laneAddr 0 0 0) 0x0E }) (fun y => !y.bindBad y.bank (y.get F.CHURN_STATUS_BINDING)) ∧
    W.atWord W.plan [0x0A, 0x0305] id (fun y => !y.bankAsleep 5 && !y.inPool 5 && !y.flag (F.VAT_OWNER_PEND 5) && (List.range 16).all fun n => !y.chanBusy n) ∧
    W.atWord W.plan [0x0A, 0x0305] (fun y => y.put (F.VAT_OWNER_WAKING 5) true) (fun y => y.bankAsleep 5) ∧
    W.atWord W.plan [0x0C, 2] id (fun y => !y.recording) ∧
    W.atWord W.plan [0x0C, 2] (fun y => (W.groupOn y).set F.DRAM_REC_STATE_STATE 1) (fun y => y.recording && (y.group 2).on) ∧
    W.atWord W.plan [0x06, 4] id (fun y => y.bookOk 2) ∧ W.atWord W.plan [0x06, 4] (fun y => y.set F.ROTA_TOKENS_FREE 5) (fun y => !y.bookOk 2) ∧
    W.atWord W.plan [0x0E] id (fun _ => true) ∧ W.atWord W.plan [0x0B, 0, 4] id (fun y => y.emu.isEmpty) := by decide +kernel

/-! ### Witnesses: commit, boundaries, tankers -/

/-- The byre with the plan `p`, or none, and its counter running. -/
def W.in (p : Option Plan) (y : Byre) : Byre := { y with ch := { y.ch with plan := p }, tu := { y.tu with stopped := false } }

/-- An entry that waits in the ready list or the recompute queue. -/
def W.many (n : Nat) : List OpEnt := List.replicate n { W.ent with cls := 0 }

/-- CommitAndOverrun: a plan that waits for its commit with its work done and a staged result or none; one that passes its overrun threshold; a
recompute request with room in the list and without; a stalled word; a wait; a pending plan. -/
theorem witness_commit :
    W.atWord W.plan [0x09] id (fun _ => true) ∧
    W.has (W.in (some { W.plan with wait := .commit })) (fun s y => s.on 1 domFAB && y.workDone ⟨5, 3⟩ && !y.pastThreshold W.plan && y.badPar.isEmpty &&
      y.softPar.isEmpty && (List.range 16).all (fun n => (y.chan n).st != 1) && y.results.isEmpty && y.staged.isEmpty) ∧
    W.has (fun y => { y with staged := [⟨7, ⟨1, true, 0, 0, 0⟩, 1, 5, ⟨5, 3⟩, some 0⟩] }) (fun _ y =>
      (y.staged.filter (fun x => x.tick == ⟨5, 3⟩)).length == 1 && y.staged.all fun g => decide (g.res.kind < 2)) ∧
    W.has (W.in (some { W.plan with committed := false, nb := some 5001000000 })) (fun s y => s.on 1 domFAB && !y.tu.stopped &&
      y.ch.plan == some { W.plan with committed := false, nb := some 5001000000 } && y.badPar.isEmpty && y.softPar.isEmpty) ∧
    W.has (fun y => { y with rota := { y.rota with recq := [W.ent] }, tu := { y.tu with genS := 9 } }) (fun _ y => y.rota.recq == [W.ent] && !y.rota.stalled &&
      !y.ch.halted && decide (y.now < y.nextBoundary) && decide (y.rerunsIn < 16)) ∧
    W.has (fun y => { y with rota := { y.rota with recq := [W.ent], ents := W.many 16 } }) (fun _ y => decide (16 ≤ y.rerunsIn)) ∧
    W.has (W.in (some { W.plan with wait := .dispatch })) (fun _ y => !y.rota.stalled && decide (y.occPlain < 4080)) ∧
    W.has (W.in (some { W.plan with wait := .ofs 70 })) (fun _ y => !y.tu.stopped && !y.rota.stalled) ∧
    W.has (fun y => let y := y.set F.CHURN_BYRE_STATE Byre.stRUNNING; { y with ch := { y.ch with pend := [W.plan] } }) (fun s y => s.on 1 domFAB &&
      y.ch.plan.isNone && y.ch.pend == [W.plan] && !y.ch.halted && y.plansRun && y.tu.frozenAt.isNone) := by decide +kernel

/-- The byre in state `st` at rate 4000, between the ticks 6 and 7 of second 9, its standby bank verified and of the same rate. -/
def W.ticking (st : Nat) (y : Byre) : Byre :=
  let y := (y.set F.CHURN_BYRE_STATE st).put F.CHURN_STATUS_VERIFIED1 true
  { y with tu := { y.tu with stopped := false, rate := 4000, genS := 9, genK := 7, genNs := 1750000, sec := 9, ns := 1600000, issued := true, cur := ⟨9, 6⟩ },
           mem := Mem.stw (Mem.stw y.mem (Byre.laneAddr 0 0 0) 4000) (Byre.laneAddr 1 0 0) 4000 }

/-- Boundaries: a boundary in RUNNING and in READY; an arm for a tick that is still to come, one without a verified bank, one where an arm stands; a
freeze in TEST with debug unlocked; and a FAULTED byre whose entry is due. -/
theorem witness_boundaries :
    (∀ st ∈ [Byre.stRUNNING, Byre.stREADY], W.has (W.ticking st) (fun s y => s.on 1 domTIME && !s.crm.up && decide (0 < y.tu.rate) && y.tu.frozenAt.isNone &&
      !y.tu.stopped && !y.flag F.TIME_STATUS_STEP_PEND && !y.tu.freezePend && y.ch.faultPend.isNone && !y.ch.halted && y.ch.arm.isNone && !y.ch.stopPend &&
      !y.ch.startPend && !y.flag F.CHURN_STATUS_DEGRADE_PEND && y.ch.plan.isNone && y.ch.pend.isEmpty && !(y.parCheck spTime 0).1 && y.st == st) = true) ∧
    W.has (fun y => ((W.ticking Byre.stRUNNING y).wr R.CHURN_ARM_SEC 10).set F.CHURN_ARM_K_K 0) (fun s y =>
      let arm : Tick := ⟨y.nearSec (y.rdN R.CHURN_ARM_SEC), y.get F.CHURN_ARM_K_K⟩
      (s.stop 1 .mp R.CHURN_ARM true).isNone && y.ch.plan.isNone && decide (y.now < y.nextBoundary) && y.verified y.stby && arm.k == 0 && y.live &&
        decide (arm.k < y.lane y.stby 0 0 % 16384) && decide (y.now < Byre.tickNs (y.lane y.stby 0 0 % 16384) arm) &&
        !(y.tu.issued && Tick.le arm y.tu.cur) && y.ch.pend.isEmpty && y.ch.arm.isNone) ∧
    ({ W.crm with up := true }.up = true ∧ W.crm.up = false) ∧
    W.has (fun y => { y with tu := { y.tu with genS := 9 } }) (fun s y => !y.verified y.stby && (s.stop 1 .mp R.CHURN_VERIFY true).isNone && decide (y.now < y.nextBoundary)) ∧
    W.has (fun y => let y := W.ticking Byre.stRUNNING y; { y with ch := { y.ch with arm := some ⟨9, 8⟩ } }) (fun _ y =>
      y.ch.arm.isSome && y.verified y.stby && y.lane y.stby 0 0 % 16384 == y.lane y.bank 0 0 % 16384) ∧
    (let s := { W.s (fun y => { y.set F.CHURN_BYRE_STATE Byre.stTEST with tu := { y.tu with genS := 9 } }) with crm := { W.crm with dbg := true } }
     s.on 1 domFAB = true ∧ s.crm.dbg = true ∧ (s.byre 1).st = Byre.stTEST ∧ (s.stop 1 .mp R.CHURN_CTRL true).isNone = true ∧
       (s.byre 1).ch.plan.isNone = true ∧ (s.byre 1).now < (s.byre 1).nextBoundary ∧ (s.byre 1).tu.frozenAt.isNone = true) ∧
    W.has (fun y => let y := y.set F.CHURN_BYRE_STATE Byre.stFAULTED; { y with ch := { y.ch with entryDue := true } }) (fun s y =>
      s.on 1 domFAB && !s.crm.up && y.ch.entryDue && y.st == Byre.stFAULTED && y.charge.isEmpty) := by decide +kernel

/-- The byre with channel 3 live on a descriptor that copies 64 bytes from 0x100 to 0x200 of bank 0, which the channel owns, and ends. -/
def W.copying (y : Byre) : Byre :=
  let y := ((y.set (F.VAT_OWNER_OWNER 0) 0x13).wr (R.TNK_CTRL 3) 0).set (F.TNK_STATUS_STATE 3) 1 |>.set (F.TNK_STATUS_HELD 3) 1
  (((y.wr (R.TNK_LIVE 3 0) 0x80000000).wr (R.TNK_LIVE 3 1) 64).wr (R.TNK_LIVE 3 2) 0x100).wr (R.TNK_LIVE 3 4) 0x200 |>.wr (R.TNK_LIVE 3 6) 1

theorem witness_copy : VatCopy (W.copying (Byre.zero 1)) 3 := by
  have hc : ((W.copying (Byre.zero 1)).chan 3).desc.src = 0x100 ∧ ((W.copying (Byre.zero 1)).chan 3).desc.dst = 0x200 ∧
      ((W.copying (Byre.zero 1)).chan 3).desc.len = 64 := by decide +kernel
  have ho : (W.copying (Byre.zero 1)).bankOpen 0 (0x10 + 3) = true := by decide +kernel
  have hp : (W.copying (Byre.zero 1)).badPar = [] ∧ (W.copying (Byre.zero 1)).softPar = [] := by decide +kernel
  refine ⟨by decide +kernel, by decide +kernel, by decide +kernel, by decide +kernel, by decide +kernel, by decide +kernel, by decide +kernel,
    by decide +kernel, by decide +kernel, by decide +kernel, by decide +kernel, ?_, ?_, by decide +kernel⟩
  · intro a ha
    have : a / 0x40000 = 0 := by
      obtain ⟨h1, h2, h3⟩ := hc
      rw [show ((3 : Fin 16) : Nat) = 3 from rfl, h1, h2, h3] at ha
      omega
    rw [this]; exact ho
  · intro a _ _
    simp [Byre.parCheck, Byre.parBad, hp.1, hp.2]

/-- Tankers: the states of a channel that the clauses ask for, a doorbell's next descriptor, and a creamery channel. -/
theorem witness_tankers :
    W.has W.copying (fun s y => s.on 1 domFAB && (s.stop 1 .mp (R.TNK_CTRL 3) true).isNone && (s.stop 1 .mp (R.TNK_SH 3 0) true).isNone && !y.live &&
      (y.chan 3).st == 1 && (y.chan 3).liveAt == 0 && !(y.chan 3).armed && !(y.chan 3).disabled && ((y.chan 3).live 6).testBit 0 &&
      decide (1 ≤ (y.chan 3).held)) ∧
    W.has (fun y => (W.copying y).wr (R.TNK_SH 3 0) 0x80000000) (fun _ y => ((y.chan 3).sh 0).testBit 31 && decide ((y.chan 3).held < 3)) ∧
    W.has id (fun _ y => (y.chan 3).disabled && (y.chan 3).st != 1 && (y.chan 3).st != 2) ∧
    W.has (fun y => y.put (F.TNK_STATUS_SH_ARMED 3) true) (fun _ y => (y.chan 3).armed) ∧
    W.has (fun y => y.set F.CHURN_BYRE_STATE Byre.stRUNNING) (fun _ y => y.live) ∧
    W.has (fun y => { ((W.copying y).set (F.TNK_STATUS_STATE 3) 2).wr (R.TNK_LATCH 3) 0x40 with
        mem := Mem.stw (Mem.stw y.mem (0x40 + 24) 0x80) 0x80 0x80000000 }) (fun _ y => (y.chan 3).st == 2 && (y.chan 3).rd 0x48 == 0x40 && y.descOpen 3 0x40 &&
      y.ldw (0x40 + 24) % 2 == 0 && y.ldw (0x40 + 24) / 8 % 2 ^ 21 * 8 == 0x80 && y.descOpen 3 0x80 && y.badPar.isEmpty && y.softPar.isEmpty &&
      (y.ldw 0x80).testBit 31 && decide ((y.chan 3).held < 3)) := by decide +kernel

/-- The creamery with its tanker 2 live on a descriptor that copies 64 bytes of SRAM, and ends. -/
def W.crmCopying : Creamery :=
  [(R.CRM_TNK_STATUS 2, 0x21#32), (R.CRM_TNK_LIVE 2 0, 0x81100000), (R.CRM_TNK_LIVE 2 1, 64), (R.CRM_TNK_LIVE 2 2, 0x100), (R.CRM_TNK_LIVE 2 4, 0x200),
    (R.CRM_TNK_LIVE 2 6, 1)].foldl (fun c x => { c with regs := SMap.set crmRst c.regs x.1 x.2 }) W.crm

theorem witness_creamery_tanker :
    let q := W.crmCopying.chan 2
    (W.crmCopying.tnkBad 2 false = false ∧ q.st = 1 ∧ q.liveAt = 0 ∧ q.armed = false ∧ (q.live 6).testBit 0 = true ∧ 1 ≤ q.held) ∧
      (q.desc.evt = false ∧ q.desc.rsv = false ∧ q.desc.sp = 1 ∧ q.desc.dp = 1 ∧ q.desc.sm = 0 ∧ q.desc.dm = 0) ∧
      (q.desc.len = 64 ∧ q.desc.src = 0x100 ∧ q.desc.dst = 0x200) ∧ ({ W.s id with crm := W.crmCopying } : State).shut .mp = false := by decide +kernel

/-! ### Witnesses: results, launches, GOOSE -/

/-- Byre 1 with thread 3 of engine 9 as `th`. -/
def W.thr9 (th : Thr) (y : Byre) : Byre := { y with thr := [(75, th)] }

/-- A thread in an operation of class `cls`, with a result of RES_W0 `w0` for slot `slot` waiting. -/
def W.res (cls slot : Nat) (w0 : Word) : Thr :=
  { W.thr with op := some ⟨{ W.ent with cls := cls }, 9, 0, false⟩, resSlot := BitVec.ofNat 32 slot, resW0 := w0 }

/-- ResultStaging: no operation, one of class 2, a slot past 1,023, a reserved bit, a pail that is not held, a pin's level, a held pail; and the
latch of a subscription. -/
theorem witness_staging :
    W.has (W.thr9 W.thr) (fun s y => s.engOn 1 9 && (y.thread 9 3).op.isNone) ∧
    W.has (W.thr9 (W.res 2 5 0)) (fun _ y => (y.thread 9 3).op.any (·.ent.cls == 2)) ∧
    W.has (W.thr9 (W.res 1 1024 0)) (fun _ y => (y.thread 9 3).op.any (·.ent.cls != 2) && decide (1023 < (y.thread 9 3).resSlot.toNat)) ∧
    W.has (W.thr9 (W.res 1 1023 8)) (fun _ y => decide ((y.thread 9 3).resSlot.toNat ≤ 1023) && (y.thread 9 3).resW0.toNat / 2 ^ 3 % 2 ^ 5 != 0) ∧
    W.has (W.thr9 (W.res 1 5 0x00640002)) (fun _ y => (y.thread 9 3).resW0.toNat % 4 == 2 && (y.thread 9 3).resW0.toNat / 2 ^ 16 % 2 ^ 12 == 100 &&
      !(y.pailPool 0x140000).isSome) ∧
    W.has (W.thr9 (W.res 1 5 5)) (fun _ y => (y.thread 9 3).resW0.toNat % 4 == 1 && (y.thread 9 3).resW0.toNat / 2 ^ 3 % 2 ^ 5 == 0) ∧
    W.has (fun y => { W.thr9 (W.res 1 5 0x00640002) (W.pool y) with charge := [(0x140000, 1)] }) (fun _ y => (y.pailPool 0x140000).isSome && y.pailUsed 0x140000) ∧
    W.has id (fun _ y => decide (2047 ≤ 2047) && !(y.parCheck spSub 2047).1) := by decide +kernel

/-- The byre with an entry at the head of calendar `g`, its counter running. -/
def W.calAt (g : Nat) (c : CalEnt) (y : Byre) : Byre := { y with cal := [(g, [c])], tu := { y.tu with stopped := false } }

/-- LaunchesAndPins: a port that is down or up with its instant ahead, an output pin with its level, a pulse, an input pin that changes. -/
theorem witness_launches :
    W.has (W.calAt 3 ⟨2000000, 0x140000, 0, 100, true, false, 0⟩) (fun s y => s.on 1 domFAB && !y.tu.stopped && (y.calOf 3).length == 1 &&
      !(y.parCheck spCal 3).1 && !y.portUp 3) ∧
    W.has (fun y => (W.calAt 3 ⟨2000000, 0x140000, 0, 100, true, false, 0⟩ y).put (F.SW_PORT_STATUS_LINK 3) true) (fun _ y => y.portUp 3 && (y.pairOf 3).isNone &&
      (List.range 24).all (fun p => (y.lineAt p).tx.isNone) && decide (y.now + y.lineNs 3 8 ≤ 2000000 ∧ (y.lineAt 3).free + y.lineNs 3 8 ≤ 2000000) &&
      y.badPar.isEmpty && y.softPar.isEmpty) ∧
    W.has (fun y => (W.calAt 37 ⟨2000000, 0, 0, 0, true, false, 0⟩ y).set (F.CAL_PIN_CFG_MODE 5) 2) (fun _ y => (y.calOf (32 + 5)).length == 1 &&
      !(y.parCheck spCal 37).1 && y.get (F.CAL_PIN_CFG_MODE 5) == 2) ∧
    W.has (W.calAt 37 ⟨2000000, 0, 0, 0, true, false, 0⟩) (fun _ y => y.get (F.CAL_PIN_CFG_MODE 5) != 2) ∧
    W.has (fun y => { y with pinEnd := [(5, 9)], tu := { y.tu with stopped := false } }) (fun _ y => SMap.get (fun _ => 0) y.pinEnd 5 == 8 + 1) ∧
    W.has (fun y => let y := (y.set (F.CAL_PIN_CFG_MODE 5) 1).put (F.CAL_PIN_CFG_RISE 5) true; { y with tu := { y.tu with stopped := false, sec := 1 } })
      (fun _ y => let z := y.advance 100; y.get (F.CAL_PIN_CFG_MODE 5) == 1 && !y.flag (F.CAL_PIN_STATUS_LEVEL 5) && y.flag (F.CAL_PIN_CFG_RISE 5) &&
        !y.flag (F.CAL_PIN_CFG_FALL 5) && decide (y.caps.length < 64) && !(y.parCheck spQueue 25).1 && decide (8 * y.get (F.CAL_PIN_FILT_FILT 5) ≤ z.now) &&
        decide ((10 : Int) ≤ ((z.now - 8 * y.get (F.CAL_PIN_FILT_FILT 5) : Nat) : Int) - y.pinDly 5)) ∧
    W.has (fun y => { (y.set (F.CAL_PIN_CFG_MODE 5) 1).put (F.CAL_PIN_CFG_RISE 5) true with caps := List.replicate 64 (0, true, 0) })
      (fun _ y => decide (64 ≤ y.caps.length)) := by decide +kernel

/-- The state of a publication whose frame lies in a pail. -/
def W.pub : PubSt := ⟨1, 7, 0, 0x140000, 100, 500, 1000, false⟩

/-- The byre in RUNNING, its counter running, with that publication 4 and subscription 7 LIVE. -/
def W.goose (y : Byre) : Byre :=
  { y.set F.CHURN_BYRE_STATE Byre.stRUNNING with tu := { y.tu with stopped := false }, pubSt := [(4, some W.pub)], subSt := [(7, ⟨1, 0, 3, 4, 1000⟩)] }

/-- A frame of input `i` in the pail at 0x140000. -/
def W.frame (i len : Nat) : Frame :=
  ⟨0x140000, 0, len, i, 0, 0, none, false, 0, 0, 0, 0, 0, 0, 0, 0, 0, 0, 0, false, false, 0, 0, false⟩

/-- GooseTimers, SubscriptionExpiry: a publication without a state, one that runs with room at input 24, with its pail on a line, with the input
full, with a frame that waits; a LIVE subscription and one that is not. -/
theorem witness_goose :
    W.has W.goose (fun s y => s.on 1 domFAB && !y.tu.stopped && (y.pubState 5).isNone && y.pubState 4 == some W.pub && !W.pub.stopped && Byre.runs y.st &&
      (List.range 24).all (fun p => (y.lineAt p).tx.isNone) && y.retxq.isEmpty && !y.pubSending 0x140000 && decide (y.inLen 24 < 64)) ∧
    W.has (fun y => { W.goose y with inq := [{ W.frame 24 60 with keep := true }] }) (fun _ y => y.pubSending 0x140000) ∧
    W.has (fun y => { W.goose y with inq := List.replicate 64 { W.frame 24 60 with pail := 0 }, retxq := [(4, W.frame 24 60)] }) (fun _ y =>
      decide (64 ≤ y.inLen 24) && !y.pubSending 0x140000 && y.retxq == [((4#8).toNat, W.frame 24 60)]) ∧
    W.has W.goose (fun _ y => (y.subState 7).st == 1 && decide ((y.subState 7).deadline < 2 ^ 48 * 1000000000 - 1) && (y.subState 8).st != 1 &&
      decide (y.evq.length < 64)) := by decide +kernel

/-- GooseTables: a good entry, one with a reserved bit, the live bank and another, and states to read. -/
theorem witness_goose_tables :
    W.has (fun y => ((y.wr (R.CAL_PUB_DATA 8) 0x10064).wr (R.CAL_PUB_DATA 9) 1).wr (R.CAL_PUB_DATA 10) 0x101) (fun s y =>
      (s.stop 1 .mp R.CAL_PUB_CMD true).isNone && (s.stop 1 .mp R.CAL_SUB_CMD true).isNone && !y.live &&
        Byre.pubOk ((y.rdN (R.CAL_PUB_DATA 0)).testBit 31) (fun i => y.rdN (R.CAL_PUB_DATA i)) && y.rdN (R.CAL_SUB_DATA 0) == 0) ∧
    W.has (fun y => (y.wr (R.CAL_PUB_DATA 11) 1).wr (R.CAL_SUB_DATA 2) 1) (fun _ y =>
      !Byre.pubOk ((y.rdN (R.CAL_PUB_DATA 0)).testBit 31) (fun i => y.rdN (R.CAL_PUB_DATA i)) && y.rdN (R.CAL_SUB_DATA 2) != 0) ∧
    W.has W.goose (fun s y => y.live && y.bank == 0 && (s.stop 1 .mp R.CAL_PUB_CMD true).isNone && y.pubState 4 == some W.pub &&
      decide (W.pub.stNum < 2 ^ 32 ∧ W.pub.sqNum < 2 ^ 32 ∧ W.pub.pail < 2 ^ 24) && decide ((y.subState 7).st < 4 ∧ (y.subState 7).verdict < 16)) := by
  decide +kernel

/-! ### Witnesses: ports, switch, skimmer -/

/-- The byre whose port 3 is up and takes frames of up to 1,522 bytes. -/
def W.port (y : Byre) : Byre := (y.put (F.SW_PORT_STATUS_LINK 3) true).set (F.SW_PORT_CTRL_MAX_FRAME 3) 1522

/-- A frame of `n` bytes with the Ethertype `et`. -/
def W.ether (et n : Nat) : List Byte := List.replicate 12 1#8 ++ [BitVec.ofNat 8 (et / 256), BitVec.ofNat 8 et] ++ List.replicate (n - 14) 5#8

/-- FrameReception: a port that is down, a runt, an oversize frame, a pause frame, a good one with room in the queue and without. -/
theorem witness_reception :
    W.has id (fun s y => s.on 1 (portDom 3) && s.on 1 domFAB && !(y.advance 100).portUp 3) ∧
    W.has W.port (fun _ y => let z := y.advance 100; z.portUp 3 && z.copies.isEmpty && !(z.parCheck spQueue 3).1 && z.get (F.SW_PORT_CTRL_MAX_FRAME 3) == 1522 &&
      decide ((W.ether 0x800 59).length + 4 < 64 ∧ 1522 < (W.ether 0x800 1519).length + 4) && (l2 (W.ether 0x8808 60)).et == 0x8808) ∧
    W.has (fun y => W.port (W.pool y) |>.set (F.PAIL_QUOTA_LIMIT 3) 100) (fun _ y => let z := y.advance 100; (l2 (W.ether 0x800 60)).et != 0x8808 &&
      (z.alloc 3 60).1 == some 0x140000 && decide (z.inLen 3 < z.inDepth 3)) ∧
    W.has (fun y => W.port (W.pool y) |>.set (F.SW_PORT_CTRL_IN_QDEPTH 3) 0) (fun _ y => decide ((y.advance 100).inDepth 3 ≤ (y.advance 100).inLen 3)) := by decide +kernel

/-- PortLinks: a port that may not come up, one whose conditions have not held for UP_MS, and for UP_MS; each loss that ends a link and one that
does not. -/
theorem witness_links :
    W.has (fun y => (y.put (F.SW_PORT_CTRL_ADMIN_UP 3) false).put (F.SW_PORT_STATUS_LINK 3) true) (fun s y => let z := y.advance 100;
      s.on 1 (portDom 3) && !z.flag (F.SW_PORT_CTRL_ADMIN_UP 3) && z.portUp 3) ∧
    W.has (fun y => ((y.put (F.SW_PORT_CTRL_ADMIN_UP 3) true).set (F.SW_PORT_CTRL_LINE 3) 1).set F.SW_LINK_TIMING_UP_MS 2) (fun _ y => let z := y.advance 100;
      z.flag (F.SW_PORT_CTRL_ADMIN_UP 3) && z.get (F.SW_PORT_CTRL_LINE 3) == 1 && !z.portUp 3 &&
      decide (1999999 < z.get F.SW_LINK_TIMING_UP_MS * 1000000 ∧ z.get F.SW_LINK_TIMING_UP_MS * 1000000 ≤ 2000000)) ∧
    W.has (fun y => ((y.put (F.SW_PORT_STATUS_LINK 3) true).set (F.SW_PORT_CTRL_LINE 3) 4).set F.SW_LINK_TIMING_DOWN_US 10) (fun _ y => let z := y.advance 100;
      z.portUp 3 && z.get (F.SW_PORT_CTRL_LINE 3) == 4 && decide (z.get F.SW_LINK_TIMING_DOWN_US * 1000 ≤ 10000 ∧ ¬z.get F.SW_LINK_TIMING_DOWN_US * 1000 ≤ 9999)) ∧
    W.has (fun y => ((y.put (F.SW_PORT_STATUS_LINK 3) true).set (F.SW_PORT_CTRL_LINE 3) 2).put (F.SW_PORT_CTRL_ANEG_EN 3) true) (fun _ y =>
      y.portUp 3 && y.flag (F.SW_PORT_CTRL_ANEG_EN 3) && y.get (F.SW_PORT_CTRL_LINE 3) == 2) := by decide +kernel

/-- A frame that waits in a priority queue of port 3. -/
def W.tx : Tx := ⟨0x140000, 0, 5, 100, 0, 0, 6, false, none, false, false⟩

/-- A copy whose cells have all left the core, for output `o`. -/
def W.copy (o lost : Nat) : Copy := ⟨9, W.frame 5 60, o, 0, 0, 0, 5, 1, 1, 1, lost, W.ether 0x800 60, []⟩

/-- SwitchOutputs: nothing to send, the head of a queue; no copy, one that has lost cells, one for a port that is down, for a port with room and
without, and for the host; a credit that the total allows, or not. -/
theorem witness_outputs :
    W.has id (fun s y => s.on 1 (portDom 3) && s.on 1 domFAB && (List.range 24).all (fun p => (y.lineAt p).tx.isNone) && !(y.advance 100).portUp 3) ∧
    W.has (fun y => { W.port y with outq := [(3 * 8 + 6, [W.tx])] }) (fun _ y => let z := y.advance 100; z.portUp 3 && decide ((z.lineAt 3).free ≤ z.now) &&
      !z.guarded 3 && z.outQ 3 6 == [W.tx] && (z.outQ 3 7).isEmpty && z.badPar.isEmpty && z.softPar.isEmpty) ∧
    (∀ o ∈ [3, 27], ∀ l ∈ [0, 1], W.has (fun y => { y with copies := [W.copy o l] }) (fun s y => y.retxq.isEmpty && y.copies.all (fun c => c.got == c.cells) &&
      (y.copies.find? fun c => c.out == o && c.fr.input == 5) == some (W.copy o l) && (W.copy o l).mode == 0 && !y.portUp 3 &&
      (y.copies.find? fun c => c.out == 4 && c.fr.input == 5).isNone && (SMap.get (fun _ => []) s.crm.hostRx 1).isEmpty) = true) ∧
    W.has (fun y => { (W.port (W.pool y)).set (F.PAIL_QUOTA_LIMIT 27) 100 with copies := [W.copy 3 0] }) (fun _ y => y.portUp 3 &&
      decide ((y.outQ 3 0).length < y.qDepth 3 0)) ∧
    W.has (fun y => (y.set (F.SW_CREDIT_TOTAL 5) 64).set (F.SW_CREDIT_FREE 5) 64) (fun s y => (s.stop 1 .mp (R.SW_CREDIT 5) true).isNone &&
      decide (((List.range 32).map fun j => if j = 5 then 100 else y.get (F.SW_CREDIT_TOTAL j)).sum ≤ 8192 ∧ y.get (F.SW_CREDIT_FREE 5) + 100 < 2 ^ 11)) := by
  decide +kernel

/-- TallyRing: no record, a record and room in the ring, a full ring in either mode. -/
theorem witness_tally :
    W.has id (fun s y => y.tallyQ.isEmpty && s.on 1 domFAB && s.engOn 1 9 && decide (y.get F.SW_TALLY_CTRL_SIZE_LOG2 ≤ 24)) ∧
    (∀ k ∈ [5, 1], ∀ md ∈ [false, true], W.has (fun y => { ((((y.put F.SW_TALLY_CTRL_EN true).set F.SW_TALLY_CTRL_SIZE_LOG2 4).set F.SW_TALLY_RD_RD k).put
        F.SW_TALLY_CTRL_MODE md).set (F.VAT_OWNER_OWNER 0) (0x10 + y.get F.SW_TALLY_CTRL_TANKER) with tallyQ := [[1#8]] }) (fun _ y => y.tallyQ == [[1#8]] && y.flag F.SW_TALLY_CTRL_EN &&
      y.tallyTarget (y.tallySlot (y.get F.SW_TALLY_WR_WR)) && !(y.parCheck spQueue 24).1 && y.flag F.SW_TALLY_CTRL_MODE == md &&
      decide ((y.get F.SW_TALLY_WR_WR + 1) % 16 = y.get F.SW_TALLY_RD_RD) == (k == 1)) = true) := by decide +kernel

/-- SkimmerTable: the live bank and another, a legal entry and one with a reserved bit. -/
theorem witness_skim_table :
    W.has id (fun s y => (s.stop 1 .mp R.SKIM_ENT_CMD true).isNone && !y.live && y.rdN (R.SKIM_ENT_ACT 0) == 0 && y.rdN (R.SKIM_ENT_ACT 1) == 0) ∧
    W.has (fun y => y.wr (R.SKIM_ENT_ACT 1) 0x10000000) (fun _ y => decide (2 ^ 28 ≤ y.rdN (R.SKIM_ENT_ACT 1))) ∧
    W.has (fun y => y.set F.CHURN_BYRE_STATE Byre.stRUNNING) (fun s y => (s.stop 1 .mp R.SKIM_ENT_CMD true).isNone && y.live && y.bank == 0) := by decide +kernel

/-- The byre with a frame of input 5 in the vat, and the default action sending it to the outputs `dest`. -/
def W.skimming (dest : Nat) (y : Byre) : Byre :=
  { ((y.wr (R.SKIM_DEF 0 0) 0).wr (R.SKIM_DEF 0 1) (BitVec.ofNat 32 dest)).wr (R.SKIM_DEF 0 2) 0 with
    inq := [W.frame 5 60], mem := Mem.put y.mem 0x140000 (W.ether 0x1234 60) }

/-- FrameClassification: no frame of the input; a frame without lookup, learning or fragment, with outputs and without; a fragment's entry. -/
theorem witness_classification :
    (∀ d ∈ [0, 0x18], W.has (W.skimming d) (fun s y =>
      let f := W.frame 5 60
      let bs := y.frameBytes f
      let a := (y.skimAction (skimKey bs 60 5 false (y.lanB 5))).1
      s.on 1 domFAB && y.copies.isEmpty && y.badPar.isEmpty && y.softPar.isEmpty && (y.inq.find? fun f => f.input == 5 && f.stage == 0) == some f &&
        (y.inq.find? fun f => f.input == 6 && f.stage == 0).isNone && y.retxq.isEmpty && (l2 (bs.take 128)).hsr.isNone && (y.pairOf 5).isNone &&
        !Byre.ptpDrop bs (parse bs 60) && (parse bs 60).frag == 0 && a.1 / 2 ^ 11 % 2 == 0 && a.1 / 2 ^ 14 % 4 == 0 && a.1 / 2 ^ 16 % 4 == 0 &&
        a.1 / 2 ^ 24 % 2 == 0 && a.2.1 % 2 ^ 28 == d && (y.inq.find? fun g => g.input == 5 && g.stage != 3) == some f) = true) ∧
    W.has id (fun _ y => (SMap.get (fun _ => none) y.frag 7).isNone) := by decide +kernel

/-- The byre with a frame at the head of the in-line queue whose entry names `alg` and key slot 2, of header `hdr`. -/
def W.authing (alg hdr : Nat) (y : Byre) : Byre :=
  { W.gates y with inq := [{ W.frame 5 60 with stage := 1, alg := alg, slot := 2 }], keys := if hdr = 0 then [] else [(0x40, BitVec.ofNat 32 hdr)] }

/-- InlineAuthentication: an empty queue, no strainer open, a slot without a key, another algorithm, the entry's algorithm. -/
theorem witness_authentication :
    W.has id (fun s y => s.on 1 domFAB && y.authHead.isNone && y.retxq.isEmpty) ∧
    W.has (fun y => (W.authing 1 0 y).wr R.ROTA_CP_GATE_STR 0) (fun s y => y.authHead.isSome && !s.strOpen 1 && !y.flag F.ROTA_AUTH_FAIL_CAP_VALID) ∧
    W.has (W.authing 1 0) (fun s y => s.strOpen 1 && (y.keyParity 0 2 [0]).1.isNone && (y.keyParity 0 2 [1, 2]).1.isNone && !(y.keyHdr y.bank 2).testBit 31) ∧
    W.has (W.authing 1 0xC0000000) (fun _ y => (y.keyHdr y.bank 2).testBit 31 && y.keyHdr y.bank 2 / 2 ^ 29 % 4 != 1) ∧
    W.has (W.authing 1 0xA0000000) (fun _ y => (y.keyHdr y.bank 2).testBit 31 && y.keyHdr y.bank 2 / 2 ^ 29 % 4 == 1) := by decide +kernel

/-! ### Witnesses: exact match, press -/

/-- With no entry in the exact-match memory no key has a candidate, whatever its bucket. -/
theorem W.no_candidates (y : Byre) (h : y.emu = []) (k : EmuEnt) : y.emuCands k = [] := by
  have hz : ∀ l, (y.emuAt l).kt = 0 := fun l => by simp [Byre.emuAt, h, EmuEnt.kt, EmuEnt.zero, bits]
  simp [Byre.emuCands, hz]

/-- ExactMatchCommands: an illegal entry, a legal one in an empty memory, the live bank; locations at both ends of the range. -/
theorem witness_exact_match :
    W.has id (fun s y => (s.stop 1 .mp R.EMU_CMD true).isNone && (s.stop 1 .mp R.EMU_NOTE2 true).isNone && !y.emuEnt.ok && !y.live && y.emu.isEmpty &&
      y.badPar.isEmpty && y.softPar.isEmpty && y.notes.isEmpty && y.get F.EMU_CMD_LOC == 0) ∧
    W.has (fun y => y.wr (R.EMU_ENT 0) 1) (fun _ y => y.emuEnt.ok && !y.emuFuture y.emuEnt) ∧
    W.has (fun y => (y.wr (R.EMU_ENT 0) 1).set F.CHURN_BYRE_STATE Byre.stRUNNING) (fun s y => y.live && y.emuEnt.ok && !y.emuFuture y.emuEnt &&
      (s.stop 1 .mp R.EMU_CMD true).isNone) ∧ (66559 < (66560#17).toNat ∧ (66559#17).toNat ≤ 66559) ∧
    W.has (fun y => { y with notes := [(1, 2, 3, 1), (4, 5, 6, 2)] }) (fun _ y => y.notes.tail == [(4, 5, 6, 2)]) := by decide +kernel

/-- PressTables: a legal entry of each table and an illegal one; the live bank; an index that names no entry. -/
theorem witness_press_tables :
    W.has id (fun s y => (s.stop 1 .mp R.PRESS_CFG_CMD true).isNone && !y.live && Byre.streamOk (fun n => y.rdN (R.PRESS_CFG_DATA n)) &&
      Byre.templateOk 0x102) ∧
    W.has (fun y => y.wr (R.PRESS_CFG_DATA 0) 2) (fun _ y => Byre.groupOk (fun n => y.rdN (R.PRESS_CFG_DATA n))) ∧
    W.has (fun y => y.wr (R.PRESS_CFG_DATA 7) 1) (fun _ y => !Byre.streamOk (fun n => y.rdN (R.PRESS_CFG_DATA n))) ∧
    W.has (fun y => y.set F.CHURN_BYRE_STATE Byre.stRUNNING) (fun s y => y.live && y.bank == 0 && (s.stop 1 .mp R.PRESS_CFG_CMD true).isNone) ∧
    (¬((2#2 : BitVec 2) = 0#2 ∨ (2#2 : BitVec 2) = 1#2 ∧ 64 < 8 ∨ (2#2 : BitVec 2) = 2#2 ∧ 1 ≤ 64 ∧ 64 < 64)) := by decide +kernel

/-- A sampled-value frame with one ASDU of one value, smpCnt 5. -/
def W.savBytes : List Byte :=
  List.replicate 12 1#8 ++ [0x88, 0xBA, 0x40, 0x00, 0x00, 0x28, 0, 0, 0, 0, 0x60, 0x1E, 0x80, 0x01, 0x01, 0xA2, 0x19, 0x30, 0x17, 0x82, 0x02, 0x00, 0x05,
    0x83, 0x04, 0, 0, 0, 1, 0x85, 0x01, 0x02, 0x87, 0x08, 0, 0, 0, 9, 0, 0, 0, 0]

/-- The byre with that frame at the head of the press queue, stream 5 of group 1 with one value, template 1, rate 4000. -/
def W.pressing (tmpl : Nat) (y : Byre) : Byre :=
  { y with
    pressq := [{ W.frame 5 54 with index := 5, act0 := tmpl * 2 ^ 18, stamp := 5001250100 }], mem := Mem.put y.mem 0x140000 W.savBytes
    ptab := [(40, 0x103#32), (0x8008, 0x9#32), (0x8009, 0x100#32), (0x800A, 0x40#32), (0x8101, 0x102#32)]
    grp := [(1, ⟨true, 0, 0, 0, 0⟩)], tu := { y.tu with rate := 4000, issued := true, cur := ⟨5, 5⟩, sec := 5 } }

/-- PressSamples, frames: no frame; one whose template is of no sampled values; one whose sample is placed, and its smpCnt beyond the rate. -/
theorem witness_press_frames :
    W.has id (fun s y => s.on 1 domFAB && y.pressq.isEmpty) ∧
    W.has (W.pressing 2) (fun _ y => y.pressq.length == 1 && y.st != Byre.stFAULTED && (y.tableParity 5 [(spTemplate, 2), (spStream, 5)]).isNone &&
      (y.badWords (Byre.pailWords 0x140000 0 54)).1.isEmpty && y.pTemplate y.bank 2 % 4 == 0) ∧
    W.has (W.pressing 1) (fun _ y =>
      let f := { W.frame 5 54 with index := 5, act0 := 2 ^ 18, stamp := 5001250100 }
      let bs := y.frameBytes f
      let p : Sample := ⟨5, 5, 2, 5001250100, none, 5, pairsBE 1 [0, 0, 0, 9, 0, 0, 0, 0], some (0x140000, 46)⟩
      y.pressq == [f] && y.pTemplate y.bank (actTemplate f) % 4 == 2 && (l2 bs).et == 0x88BA && (y.pStream y.bank 5 0).testBit 0 &&
        parseSav bs == some [(5, 1, 2, 46, [0, 0, 0, 9, 0, 0, 0, 0])] && y.nVal y.bank 5 == 1 && y.pTemplate y.bank 1 / 2 ^ 8 % 32 == 1 && y.pStream y.bank 5 4 == 0 &&
        decide (5 < y.tu.rate) && y.members y.bank 5 == [(1, 0)] && y.tu.issued &&
        decide (Byre.tickNo y.tu.rate (y.identity p) ≤ Byre.tickNo y.tu.rate y.tu.cur) && !y.lateIn 1 (y.identity p) && (y.recAt 1 (y.identity p) 5).isNone) ∧
    W.has (fun y => let y := W.pressing 1 y; { y with tu := { y.tu with rate := 5 }, ptab := SMap.set (fun _ => 0#32) y.ptab 44 7 }) (fun _ y =>
      decide (y.tu.rate ≤ 5) && y.pStream y.bank 5 4 != 0 && (1 : Nat) != y.pStream y.bank 5 4) := by decide +kernel

/-- A thread whose press port is free and holds the words `ws`. -/
def W.porter (ws : List Nat) : Thr :=
  { W.thr with ppStat := 0xFFFFFFFF, pp := (ws.zipIdx.filter (·.1 ≠ 0)).map fun x => (4 * x.2, BitVec.ofNat 32 x.1) }

/-- PressSamples, threads: a request for a stream that is not in use, one that is placed, an extension with a reserved bit, without an open
snapshot, and with one. -/
theorem witness_press_port :
    W.has (W.thr9 (W.porter [7])) (fun s y => s.engOn 1 9 && (y.thread 9 3).ppStat == 0xFFFFFFFF && (y.tableParity 5 [(spStream, 7)]).isNone &&
      !(y.pStream y.bank 7 0).testBit 0 && y.ppWord 9 3 0 == 7) ∧
    W.has (fun y => W.thr9 (W.porter [0x10005, 0x01020005, 1250100, 5]) (W.pressing 1 y)) (fun _ y =>
      let p : Sample := ⟨5, 5, 2, 5001250100, none, 1, [(0, 0)], none⟩
      y.st != Byre.stFAULTED && y.ppWord 9 3 0 / 2 ^ 26 == 0 && (y.pStream y.bank 5 0).testBit 0 && y.nVal y.bank 5 == 1 && y.nearSec 5 == 5 &&
        y.members y.bank 5 == [(1, 0)] && decide (Byre.tickNo y.tu.rate (y.identity p) ≤ Byre.tickNo y.tu.rate y.tu.cur) && !y.lateIn 1 (y.identity p) &&
        (y.recAt 1 (y.identity p) 5).isNone) ∧
    W.has (W.thr9 (W.porter [0x04010001, 0, 0, 0, 0, 1])) (fun _ y => (y.ppWord 9 3 0).testBit 26 && y.ppWord 9 3 0 / 2 ^ 27 == 0 && y.ppWord 9 3 5 != 0) ∧
    W.has (W.thr9 (W.porter [0x04010001])) (fun _ y => (y.ppWord 9 3 0).testBit 26 && (y.openSnap 1).isNone) ∧
    W.has (fun y => let y := W.thr9 (W.porter [0x04010001]) (W.pressing 1 y)
        { y with fresh := [⟨1, 0x40000, false, 0, ⟨5, 5⟩⟩], ptab := SMap.set (fun _ => 0#32) y.ptab 0x800B 64,
                 ch := { y.ch with plan := some { W.plan with tick := ⟨5, 5⟩, committed := false } } }) (fun _ y =>
      y.openSnap 1 == some ⟨1, 0x40000, false, 0, ⟨5, 5⟩⟩ && decide (0 + 8 * 1 ≤ y.gPhLen y.bank 1)) := by decide +kernel

/-- SealPasses: no request, and one of a group without a seal area in use. -/
theorem witness_seals :
    W.has id (fun s y => s.on 1 domFAB && y.sealq.isEmpty) ∧
    W.has (fun y => let y := W.pressing 1 y; { y with sealq := [⟨1, ⟨5, 5⟩, false, 0, 4000, ⟨5, 5⟩, 9⟩] }) (fun _ y => y.sealq.length == 1 && y.st != Byre.stFAULTED &&
      (y.tableParity 5 ((spGroup, 1) :: (y.groupMembers 0 1).map fun m => (spStream, m.1))).isNone && !y.gExpEn 0 1 && y.recs.isEmpty) := by decide +kernel

/-! ### Witnesses: Tugus -/

/-- A can of channel `vc`, of TYPE `typ`, from node `src` to node `dst`. -/
def W.can (vc typ src dst : Nat) (payload : List Byte) : Can :=
  { dst := dst, vc := vc, hops := 0, giveup := false, typ := typ, src := src, herd := 1, lseq := 0, tqok := false, launch := 0, payload := payload }

/-- The byre whose link 0 is in state `st`, otherwise as `k`, with credits on every channel. -/
def W.link (st : Nat) (k : TugLink) (y : Byre) : Byre :=
  let y := (List.range 4).foldl (fun y v => y.set (F.TUG_LINK_TX_CRED_AVAIL 0 v) 3) (y.set (F.TUG_LINK_STATUS_STATE 0) st)
  { y with tug := [(0, k)] }

/-- LinkInitAndEcho: a link that is down, in INIT before and after its eighth word, ACTIVE with and without an echo to answer. -/
theorem witness_link_start :
    W.has id (fun s y => s.on 1 (portDom 22) && s.on 1 domFAB && y.linkSt 0 != 1 && y.linkSt 0 != 2 && (y.tugAt 0).echoDue.isEmpty) ∧
    (∀ n ∈ [6, 7, 8], W.has (W.link 1 { Byre.tugZero with initGot := true, initSent := n, tot := [1, 2, 3, 4] }) (fun _ y => y.linkSt 0 == 1 && (y.tugAt 0).initGot &&
      (y.tugAt 0).initSent == n && (y.tugAt 0).tot == [1, 2, 3, 4]) = true) ∧
    W.has (W.link 2 { Byre.tugZero with echoDue := [(1, 2)] }) (fun _ y => y.linkSt 0 == 2 && (y.tugAt 0).echoDue == [(1, 2)]) := by decide +kernel

/-- A can in the retry buffer that has failed `n` times. -/
def W.retry (n : Nat) : Retry := { can := W.can 1 0x10 8 16 [], fails := n, at_ := 5 }

/-- LinkTransmission: a can to send again, a can that waits with credit, nothing to send, and a can sent whose failure is its first or second. -/
theorem witness_link_sends :
    W.has (W.link 2 { Byre.tugZero with retry := [W.retry 0] }) (fun s y => s.on 1 (portDom 22) && y.linkSt 0 == 2 && !y.flag (F.TUG_LINK_STATUS_PEER 0) &&
      (y.tugAt 0).retry[(y.tugAt 0).sent]? == some (W.retry 0)) ∧
    W.has (fun y => { W.link 2 Byre.tugZero y with canq := [(1, [⟨W.can 1 0x10 8 16 [], none, 0⟩])] }) (fun _ y => (y.tugAt 0).retry.isEmpty && (y.canQ 0 1).length == 1 &&
      y.get (F.TUG_LINK_TX_CRED_AVAIL 0 1) == 3 && decide (y.get (F.TUG_LINK_TX_CRED_OUT 0 1) < 127) && (y.canQ 0 0).isEmpty) ∧
    W.has (W.link 2 Byre.tugZero) (fun _ y => (List.range 4).all (fun v => (y.canQ 0 v).isEmpty) && decide (3 + y.get (F.TUG_LINK_TX_CRED_OUT 0 1) < 128)) ∧
    (∀ n ∈ [0, 1], W.has (W.link 2 { Byre.tugZero with retry := [W.retry n], sent := 1 }) (fun _ y => (y.tugAt 0).sent == 1 && (y.tugAt 0).retry == [W.retry n]) = true) := by
  decide +kernel

/-- The image of a control can for node 1 with a good CRC. -/
def W.image (vc typ : Nat) : List Byte := canBytes (W.can vc typ 8 1 [])

/-- CanReception: a wrong CRC, a right one; a link without credits and with credits; a control can for the own node, an echo request, a bad kind. -/
theorem witness_can_reception :
    (leNat ((List.replicate 244 1#8 |>.drop 240).take 4) ≠ crc32c (List.replicate 240 1#8)) ∧
    (∀ p ∈ [(1, 0x10), (0, 1), (2, 0x99)], leNat (((W.image p.1 p.2).drop 240).take 4) = crc32c ((W.image p.1 p.2).take 240) ∧
      (canOf (W.image p.1 p.2)).vc = p.1 ∧ (canOf (W.image p.1 p.2)).lseq = 0 ∧ canOk (W.image p.1 p.2) = decide (p.1 < 2) ∧ (canOf (W.image p.1 p.2)).dst = 1) ∧
    W.has (W.link 2 Byre.tugZero) (fun s y => s.on 1 (portDom 22) && y.linkSt 0 == 2 && (y.tugAt 0).rxSeq == 0 && (y.tugAt 0).tot.getD 1 0 == 0 && y.ownNode == 1) ∧
    W.has (W.link 2 { Byre.tugZero with tot := [4, 4, 4, 4] }) (fun _ y => y.get (F.TUG_LINK_RX_CRED_HELD 0 1) + y.get (F.TUG_LINK_RX_CRED_RET_PEND 0 1) == 0 &&
      (y.tugAt 0).tot.getD 1 0 == 4 && y.ctlRx.isEmpty) ∧
    W.has (W.link 2 { Byre.tugZero with rxSeq := 7 }) (fun _ y => (y.tugAt 0).rxSeq == 7) := by decide +kernel

/-- CansAndShares: an illegal control can, one for the own node, for a node with no route, by a link with room and without; heads of the queues;
the tunnel on and off; share entries; a pail that may be sent. -/
theorem witness_cans :
    W.has id (fun s y => (s.stop 1 .mp R.TUG_CTL_TX_CMD true).isNone && (s.stop 1 .mp R.TUG_CTL_RX_STATUS true).isNone && (s.stop 1 .mp R.TUG_SHR_CMD true).isNone &&
      y.rdN (R.TUG_CTL_TX_DATA 0) / 2 ^ 17 % 4 != 1 && y.ctlRx.isEmpty && !y.live && y.rdN (R.TUG_SHR_DATA 0) == 0) ∧
    (∀ d ∈ [1, 0x1000], W.has (fun y => y.wr (R.TUG_CTL_TX_DATA 0) (BitVec.ofNat 32 (0x10020000 + d))) (fun _ y => y.rdN (R.TUG_CTL_TX_DATA 0) / 2 ^ 24 == 0x10 &&
      y.rdN (R.TUG_CTL_TX_DATA 0) / 2 ^ 17 % 4 == 1 && y.rdN (R.TUG_CTL_TX_DATA 0) % 2 ^ 17 == d && y.rdN (R.TUG_CTL_TX_DATA 1) == 0 && y.ownNode == 1 &&
      (d == 1 || y.routeOf d == 0)) = true) ∧
    W.has (fun y => y.wr (R.TUG_ROUTE_AREA 0) 0xFFFF5555) (fun _ y => y.routeOf 0x1000 == 0 + 1 && (y.canQ 0 1).isEmpty) ∧
    W.has (fun y => { y with ctlRx := [([], some 0), ([], none)] }) (fun _ y => y.ctlRx.length == 2 && decide (y.get (F.TUG_LINK_RX_CRED_RET_PEND 0 1) < 127)) ∧
    W.has (fun y => y.set F.TUG_TUN_EP_EP 75) (fun s y => s.engOn 1 9 && y.isTunEp 9 3 && !y.flag F.TUG_TUN_CFG_TUN_EN) ∧
    W.has (fun y => (y.set F.TUG_TUN_EP_EP 75).put F.TUG_TUN_CFG_TUN_EN true) (fun _ y => y.flag F.TUG_TUN_CFG_TUN_EN) ∧
    W.has (fun y => y.wr (R.TUG_SHR_DATA 2) 1) (fun _ y => y.rdN (R.TUG_SHR_DATA 2) % 8 != 0) ∧
    W.has (fun y => y.set F.CHURN_BYRE_STATE Byre.stRUNNING) (fun s y => y.live && y.bank == 0 && (s.stop 1 .mp R.TUG_SHR_CMD true).isNone) ∧
    W.has (fun y => { W.thr9 { W.thr with sendLen := 60 } (W.pool y) with charge := [(0x140000, 32)] }) (fun s y => s.on 1 domFAB && y.sendRoom && (y.sendCheck 9 3 0x140000).1) ∧
    W.has (fun y => { y with inq := List.replicate 64 (W.frame 24 60) }) (fun _ y => !y.sendRoom) := by decide +kernel

/-- The state whose byre 1 has role `role` in a herd, its firmware running, with the can `c` at the head of its receive queue. -/
def W.herdAt (role : Nat) (h : Herd) (c : Can) (f : Byre → Byre) : State :=
  let s := W.s fun y => { f ((y.put F.TUG_NODE_EN true).set F.TUG_NODE_ROLE role |>.set F.TUG_NODE_HERD 1) with ctlRx := [(canBytes c, some 0)], herd := h }
  { s with crm := { W.crm with up := true } }

def W.herdMeets (role : Nat) (h : Herd) (c : Can) (f : Byre → Byre) (p : Byre → Can → Bool) : Bool :=
  let s := W.herdAt role h c f
  let y := s.byre 1
  let d := canOf (canBytes c)
  s.crm.up && s.on 1 domFAB && y.role == role && d.typ == c.typ && d.src == c.src && (y.ctlRx == [(canBytes c, some 0)]) && p y d

def W.herd0 (st : Nat) : Herd := { st := st, joinAt := 0, beatAt := 0, sentAt := 0, answered := false, members := [] }

/-- HerdCans: each can, accepted and not; with no can at all nothing is asked (`ctlRx = []`). -/
theorem witness_herd_cans :
    W.herdMeets 3 (W.herd0 0) (W.can 1 0x10 8 1 []) id (fun y d => d.herd == y.ownHerd && !y.herd.members.contains d.src) ∧
    W.herdMeets 3 { W.herd0 0 with members := [8] } (W.can 1 0x10 8 1 []) id (fun y d => y.herd.members.contains d.src) ∧
    W.herdMeets 3 (W.herd0 0) { W.can 1 0x10 8 1 [] with herd := 2 } id (fun y d => d.herd != y.ownHerd) ∧
    (∀ p ∈ [0, 1], let pl := BitVec.ofNat 8 p :: List.replicate 7 0#8
      W.herdMeets 1 (W.herd0 Byre.hJOINING) (W.can 1 0x11 0 1 pl) id (fun y d => d.src == y.mgr && y.herd.st == Byre.hJOINING &&
        leNat (d.payload.take 1) == p) = true) ∧
    W.herdMeets 1 (W.herd0 Byre.hMEMBER) (W.can 1 0x11 9 1 []) id (fun y d => d.src != y.mgr && y.herd.st != Byre.hJOINING) ∧
    W.herdMeets 3 (W.herd0 0) (W.can 1 0x12 8 1 []) id (fun _ _ => true) ∧
    W.herdMeets 1 (W.herd0 Byre.hMEMBER) (W.can 1 0x13 0 1 []) id (fun y d => d.src == y.mgr && y.herd.st == Byre.hMEMBER) ∧
    W.herdMeets 1 (W.herd0 Byre.hISOLATED) (W.can 1 0x13 9 1 []) id (fun y d => d.src != y.mgr) := by decide +kernel

/-! ### Witnesses: the DRAM controller, the recorder, the management bus, the host -/

/-- The byre whose DRAM controller is in state `st`. -/
def W.dram (st : Nat) (y : Byre) : Byre := y.set F.DRAM_STATUS_STATE st

/-- DramController: every state of the controller with and without a pending speed, a byre that is locked, and the training words. -/
theorem witness_dram :
    (∀ st ∈ [drREADY, drTRAINING, drLOADING, drRETAINED, drFAILED], W.has (W.dram st) (fun s y => (s.stop 1 .mp R.DRAM_CMD true).isNone && y.idle && s.on 1 domDRM &&
      s.on 1 domFAB && y.get F.DRAM_STATUS_STATE == st && !y.flag F.DRAM_STATUS_PEND) = true) ∧
    W.has (fun y => (W.dram drTRAINING y).put F.DRAM_STATUS_PEND true) (fun _ y => y.flag F.DRAM_STATUS_PEND && y.get F.DRAM_STATUS_STATE == drTRAINING) ∧
    W.has (fun y => y.set F.CHURN_BYRE_STATE Byre.stRUNNING) (fun s y => s.on 1 domFAB && !y.idle && !s.shut .mp && State.reaches .mp (State.byreAddr 1 R.DRAM_CMD)) ∧
    W.has id (fun s _ => (s.stop 1 .mp R.DRAM_TRAIN_DATA false).isNone && (s.stop 1 .mp R.DRAM_TRAIN_DATA true).isNone) ∧
    (1#2 ≠ 3#2 ∧ (0#2 : BitVec 2) ≠ 1#2) := by decide +kernel

/-- RecorderCommands: each state of the recorder, a trigger of an engine and of the management processor; no late entry and one; a staging buffer to drain. -/
theorem witness_recorder :
    (∀ st ∈ [rcIDLE, rcARMED, rcPOST, rcFROZEN], W.has (fun y => y.set F.DRAM_REC_STATE_STATE st) (fun s y => s.engOn 1 9 && s.on 1 domFAB &&
      (s.stop 1 .mp R.DRAM_REC_CMD true).isNone && y.get F.DRAM_REC_STATE_STATE == st && y.lateq.isEmpty) = true) ∧
    W.has (fun y => { y.set F.DRAM_REC_STATE_STATE rcARMED with lateq := [(1, ⟨5, 3⟩, 9, [1#8])] }) (fun _ y =>
      y.lateq == [(1, ⟨5, 3⟩, 9, [1#8])] && y.get F.DRAM_REC_STATE_STATE == rcARMED) ∧
    W.has (fun y => let y := W.dram drREADY y; { y with rcd := { y.rcd with stage := [(0, [1#8]), (8, [2#8])] } }) (fun s y => s.on 1 domFAB && s.on 1 domDRM &&
      y.dst == drREADY && decide (2 ≤ y.rcd.stage.length)) := by decide +kernel

/-- ByreViewAccess: a byre whose domain is off and one where it is on, a misaligned register, a bank of another owner, one of the host window, a
register without effect of its own, an RC register, and the management SRAM. -/
theorem witness_view :
    (State.reset.shut .mp = false ∧ State.reset.shut .jtag = true ∧ { State.reset with crm := { State.reset.crm with dbg := true, mode := 3 } }.shut .jtag = false ∧ State.reset.on 1 domFAB = false) ∧
    W.has id (fun s _ => !s.shut .mp && s.on 1 domFAB && (byreReg ((R.EMU_ENT 0 + 2) / 4 * 4)).isSome && decide ((R.EMU_ENT 0 + 2) % 4 ≠ 0) &&
      decide (0xC00000 ≤ R.EMU_ENT 0 + 2) && decide (R.CHURN_COMMIT_MAX < 0xD00000)) ∧
    W.has (fun y => y.set (F.VAT_OWNER_OWNER 5) 1) (fun _ y => !y.bankOpen 5 0x20 && decide (5 * 0x40000 < 0xC00000)) ∧
    W.has (fun y => { y.set (F.VAT_OWNER_OWNER 5) 0x20 with hostWr := (7, []) }) (fun _ y => y.bankOpen 5 0x20 && decide (y.hostWr.1 ≠ y.tu.clk)) ∧
    (0x400000 ≤ (0x7FFFFC#32).toNat ∧ (0x7FFFFC#32).toNat < 0x800000) := by decide +kernel

/-- Byre 1 as the host sees it while the firmware runs, with page 3 of the window on bank 5 of byre 1. -/
def W.hostSees (en : Bool) (on : Bool) (f : Byre → Byre) : State :=
  let s := W.s f
  let c := ((if on then W.crm else Creamery.zero).set (F.CRM_HWIN_MAP_BYRE 3) 1).set (F.CRM_HWIN_MAP_BANK 3) 5
  { s with crm := { c.put (F.CRM_HWIN_MAP_EN 3) en with up := true } }

/-- HostAccess and OctetCounters: a host that is not let in; one that is, with the page off, on a byre without domain, on a bank of
another owner and on one of the host window; an octet counter. -/
theorem witness_host :
    State.reset.hostOk = false ∧
    (let s := W.hostSees false true id
     s.hostOk = true ∧ s.crm.flag (F.CRM_HWIN_MAP_EN 3) = false) ∧
    (let s := W.hostSees true false id
     s.hostOk = true ∧ s.crm.flag (F.CRM_HWIN_MAP_EN 3) = true ∧ s.crm.get (F.CRM_HWIN_MAP_BYRE 3) = 1 ∧ s.on 1 domFAB = false) ∧
    (∀ own ∈ [1, 0x20], let s := W.hostSees true true (fun y => y.set (F.VAT_OWNER_OWNER 5) own)
     s.on 1 domFAB = true ∧ s.crm.get (F.CRM_HWIN_MAP_BANK 3) = 5 ∧ (s.byre 1).bankOpen 5 0x20 = decide (own = 0x20)) ∧
    W.has id (fun s _ => [R.SW_PORT_CNT_TX_OCT_LO 23, R.SW_PORT_CNT_RX_OCT_LO 0].all fun o => (s.stop 1 .mp o false).isNone) := by decide +kernel

/-! ### Witnesses: the mailbox commands -/

/-- Bytes of a payload: each value in that many bytes, little-endian. -/
def W.pay (l : List (Nat × Nat)) : List Byte := l.flatMap fun p => leBytes p.2 p.1

/-- A request of the command `code` with that payload. -/
def W.req (code : Nat) (p : List Byte) : List Byte := W.pay [(code, 2), (9, 2), (p.length, 4), (7, 4), (99, 4)] ++ p

/-- The firmware runs in a part of lifecycle FIELD, byre 1 is in state `st` and mailbox 0 holds the request, whose turn it is. -/
def W.mb (code st : Nat) (p : List Byte) (f : Byre → Byre := id) (g : Creamery → Creamery := id) : State :=
  let s := W.s fun y => f (y.set F.CHURN_BYRE_STATE st)
  { s with crm := g { W.crm with up := true, mode := 3, otp := [(0, 7)], mb := [(0, { State.mbZero with run := 1, req := W.req code p })] } }

/-- It is the command's turn, and `c` holds of the state, its request and byre 1. -/
def W.dueIn (s : State) (code : Nat) (c : State → Req → Byre → Bool) : Bool :=
  s.ready 0 code && !(s.mb 0).gone && s.late (s.request 0) == 0 && c s (s.request 0) (s.byre 1)

theorem W.due_spec (s : State) (code : Nat) (c) (h : W.dueIn s code c = true) : Due s 0 code := by
  simp only [W.dueIn, Bool.and_eq_true, Bool.not_eq_true', beq_iff_eq] at h
  exact ⟨⟨h.1.1.1, h.1.1.2⟩, h.1.2⟩

/-- The state `W.mb` answers the command in its turn, and `c` holds. -/
def W.due (code st : Nat) (p : List (Nat × Nat)) (c : State → Req → Byre → Bool) (f : Byre → Byre := id) (g : Creamery → Creamery := id) : Bool :=
  W.dueIn (W.mb code st (W.pay p) f g) code c

/-- The command names byre 1. -/
def W.named (s : State) (q : Req) : Bool := State.reqByre q == some 1 && (SMap.get (fun _ => none) s.crm.policy 1).isNone

/-- As `W.named`, in the form that `W.due` asks. -/
def W.namedY (s : State) (q : Req) (_ : Byre) : Bool := W.named s q

/-- What R410 to R415 and R427 ask of a request that is rung, acknowledged or aborted. -/
def W.rung (g : Mbox → Mbox) (st : Nat) (bs : List Byte) : State :=
  let c := { W.crm with up := true, mode := 3, mem := Mem.write [] (State.reqAddr 0) bs, mb := [(0, g State.mbZero)] }
  { W.s id with crm := c.set (F.CRM_MB_STATUS_STATE 0) st }

/-- The check that fails first for a request, without one that does. -/
def W.rings (s : State) (k : Option (Nat × Nat)) : Bool :=
  let q := reqOf (Mem.read s.crm.mem (State.reqAddr 0) 4096)
  s.hostOk && s.crm.get (F.CRM_MB_STATUS_STATE 0) == 0 && (s.mb 0).run == 0 && !(s.mb 0).gone && s.serves 0 && (s.mb 0).key != some q.key &&
    (s.onCrm fun c => c.tick 0).checks 0 q == k

/-- Ring: no host; a ring outside IDLE; a request that fails each check or none; one that the store already answers. -/
theorem witness_ring :
    State.reset.hostOk = false ∧
    (let s := W.rung id 1 []
     s.hostOk && s.crm.get (F.CRM_MB_STATUS_STATE 0) != 0) ∧
    W.rings (W.rung id 0 (W.pay [(0x101, 2), (9, 2), (5000, 4)])) (some (1, 3)) ∧
    W.rings (W.rung id 0 (W.pay [(0x101, 2), (9, 2), (0, 4), (0, 4), (5, 4)])) (some (2, 4)) ∧
    W.rings (W.rung id 0 (W.pay [(0x999, 2), (9, 2)])) (some (3, 2)) ∧
    W.rings (W.rung id 0 (W.pay [(0x105, 2), (9, 2)])) (some (6, 6)) ∧
    W.rings (W.rung id 0 (W.pay [(0x201, 2), (9, 2)])) none ∧
    (let s := W.rung (fun m => { m with key := some (0x201, 9, 0, 0, 0), resp := [1#8] }) 0 (W.pay [(0x201, 2), (9, 2)])
     (s.mb 0).key == some (reqOf (Mem.read s.crm.mem (State.reqAddr 0) 4096)).key && (s.mb 0).run == 0 && s.serves 0) := by decide +kernel

/-- AckAndAbort and Turns: an ACK in DONE and elsewhere; an ABORT before the command executes, and while it waits on hardware; a command whose
turn it is not, and one that its byre's state refuses. -/
theorem witness_turns :
    (∀ p ∈ [(0, 0), (2, 0), (1, 1), (1, 3)], let s := W.rung (fun m => { m with run := p.2 }) p.1 []
      s.hostOk = true ∧ s.crm.get (F.CRM_MB_STATUS_STATE 0) = p.1 ∧ (s.mb 0).run = p.2 ∧ (s.mb 0).gone = false) ∧
    (W.mb 0x304 2 (W.pay [(1, 4)])).ready 0 0x305 = false ∧
    (let s := W.mb 0x304 1 (W.pay [(1, 4)])
     s.ready 0 0x304 = true ∧ (s.mb 0).gone = false ∧ s.late (s.request 0) = 7) := by decide +kernel

/-- HostPortReset, HostPointers, ExportEnd and HostLocks: a coalescing limit that waits, and one of 0; a transfer without a ring and with one, with each kind of
descriptor; a lock that is free, and one that the host holds. -/
theorem witness_host_port :
    (let c := (W.crm.set (F.CRM_EXP_COAL_COAL_US 3) 7)
     { c with coal := [(3, (1, 2))] }.get (F.CRM_EXP_COAL_COAL_US 3) = 7 ∧ W.crm.get (F.CRM_EXP_COAL_COAL_US 3) = 0 ∧ State.reset.hostOk = false) ∧
    (∀ en ∈ [false, true],
      let c := (((W.crm.put (F.CRM_EXP_CFG_EN 3) en).set (F.CRM_EXP_CFG_BYRE 3) 1).set (F.CRM_EXP_CFG_STREAM 3) 5).set (F.CRM_EXP_CFG_SIZE_LOG2 3) 4
      let c := c.set (F.CRM_EXP_TAIL_TAIL 3) 2
      let x : Xfer := ⟨5, [1#8], 1, false⟩
      let s := { W.s id with crm := { c with up := true, staging := [(1, [x])] } }
      s.stagingOf 1 = [x] ∧ s.ringOf 1 5 = (if en then some 3 else none) ∧ c.get (F.CRM_EXP_HEAD_HEAD 3) ≠ c.get (F.CRM_EXP_TAIL_TAIL 3) ∧
        c.flag (F.CRM_EXP_CFG_ERR 3) = false) ∧
    (∀ p ∈ [(0, 4096), (2 ^ 31, 63), (2 ^ 31, 64)], let ds := W.pay [(0x1000, 8), (p.2, 4), (p.1, 4), (0, 16)]
      bit (leNat ((ds.drop 12).take 4)) 31 = decide (p.1 ≠ 0) ∧ leNat ((ds.drop 8).take 4) = p.2) ∧
    (∀ held ∈ [false, true],
      let c := (W.crm.set (F.CRM_LOCK_GRP_RIGHTS_MASTERS 0) 4).put (F.CRM_LOCK_ACQ_HELD 5) held |>.set (F.CRM_LOCK_ACQ_OWNER 5) 0x102
      let s := { W.s id with crm := { c with up := true } }
      s.hostOk = true ∧ bit (s.crm.rdN (R.CRM_LOCK_GRP_RIGHTS (5 / 16))) 2 = true ∧ s.crm.flag (F.CRM_LOCK_ACQ_HELD 5) = held ∧
        s.crm.get (F.CRM_LOCK_ACQ_OWNER 5) = 0x102) := by decide +kernel

/-! ### Witnesses: the commands of each group -/

/-- Every row of the command table executes in some state of its byre, at its turn, with nothing that stops it: code, state of byre 1. -/
theorem witness_due :
    ([(0x101, 2), (0x102, 2), (0x104, 2), (0x105, 2), (0x201, 2), (0x202, 2), (0x203, 2), (0x204, 2), (0x205, 2), (0x206, 2), (0x207, 2), (0x302, 2), (0x303, 1),
      (0x304, 2), (0x305, 3), (0x307, 1), (0x308, 2), (0x309, 4), (0x402, 2), (0x404, 3), (0x405, 2), (0x407, 2), (0x506, 2), (0x601, 2), (0x707, 2), (0x804, 2),
      (0x904, 2), (0xA05, 2), (0xB01, 2), (0xB06, 2), (0xC01, 2), (0xC03, 2), (0xD03, 2), (0xD08, 2), (0xD0A, 2), (0xE01, 2), (0xE03, 2), (0xE04, 2)].all fun p =>
      W.due p.1 p.2 [(1, 4)] fun s q _ => W.named s q) = true := by decide +kernel

/-- SystemCommands: an alarm that has no register, and one to clear. -/
theorem witness_system_commands :
    (∀ o ∈ [(15, 0x70), (0, 0x71), (0, 0x70)], W.due 0x103 2 [(1, 1), (o.1, 3), (o.2, 4), (1, 4)] (fun s q _ => W.named s q && q.at_ 1 1 == o.1 && q.at_ 4 4 == o.2 &&
      q.at_ 8 4 == 1 && (byreReg (blockBase 0 + 0x70)).isSome) = true) := by decide +kernel

/-- SessionCommands: an open that is barred, one whose key is not the holder's, a claim without its pin, and of a part that is not UNCLAIMED; a full chain
of keys. -/
theorem witness_sessions :
    W.due 0x202 2 [] (fun s _ _ => decide (s.crm.clk < s.crm.barred)) id (fun c => { c with barred := 9 }) ∧
    W.due 0x202 2 [(2, 1)] (fun s q _ => (s.nonceOf 0).isSome && q.at_ 0 1 == 2 && s.roleOpens 2 && decide (s.crm.barred ≤ s.crm.clk) && decide (s.crm.installer ≠ some (q.bytes 4 64)) &&
      decide (s.openCount < 16)) id (fun c => { c with nonce := [(0, some (List.replicate 16 1#8, 5))] }) ∧
    W.due 0x205 2 [] (fun s _ _ => s.crm.lifecycle != Creamery.lcUNCLAIMED) ∧
    W.due 0x205 2 [] (fun s q _ => (s.nonceOf 0).isSome && s.crm.lifecycle == Creamery.lcUNCLAIMED && !s.crm.flag F.AON_PFAIL_STAT_PFAIL &&
      decide (s.crm.otpBytes 0x50 32 = List.replicate 32 0#8) && (q.bytes 0 64).isEmpty) id
      (fun c => { c with otp := [(0, 3)], nonce := [(0, some (List.replicate 16 1#8, 5))] }) ∧
    (∀ n ∈ [255, 256], W.due 0x206 2 [] (fun s _ _ => s.crm.installer.isSome && s.crm.chain.length == n) id (fun c => { c with chain := List.replicate n [1#8] }) = true) := by
  decide +kernel

/-- ByreStates: a released byre without microcode; a start with a verified bank and without. -/
theorem witness_byre_states :
    W.due 0x303 1 [(1, 4)] (fun s q _ => W.named s q && (s.ucodeVer 1).isNone) ∧
    (∀ v ∈ [false, true], W.due 0x304 2 [(1, 4)] (fun s q y => W.named s q && y.verified y.bank == v) (fun y => y.put F.CHURN_STATUS_VERIFIED0 v) = true) ∧
    W.due 0x305 3 [(1, 4)] W.namedY ∧ W.due 0x308 2 [(1, 4)] W.namedY ∧ W.due 0x309 4 [(1, 4)] W.namedY ∧ W.due 0x302 6 [(1, 4)] W.namedY := by decide +kernel

/-- ByreService: a byre whose domain is off and on; a buffer; a channel out of range, one at rest; counters of a block and of none. -/
theorem witness_byre_service :
    W.due 0x301 2 [(1, 4)] (fun s q _ => W.named s q && s.on 1 domFAB) ∧
    W.dueIn { W.mb 0x301 0 (W.pay [(1, 4)]) with crm := { (W.mb 0x301 0 (W.pay [(1, 4)])).crm with regs := [] } } 0x301 (fun s q _ => W.named s q && !s.on 1 domFAB) ∧
    W.due 0x306 2 [(1, 4), (0x1000, 8), (64, 4), (0, 4)] (fun s q _ => W.named s q && q.at_ 4 8 % 8 == 0 && q.at_ 12 4 == 64) ∧
    (∀ ch ∈ [15, 16], W.due 0x30A 2 [(1, 1), (ch, 3)] (fun s q y => W.named s q && q.at_ 1 1 == ch && (y.chan 15).st != 1) = true) ∧
    (∀ p ∈ [(14, 0), (15, 0), (4, 255)], W.due 0x30B 2 [(1, 1), (p.1, 1), (p.2, 2)] (fun s q _ => W.named s q && q.at_ 1 1 == p.1 && q.at_ 2 1 == p.2) = true) := by
  decide +kernel

/-- ScheduleCommands: an arm whose K is out of range, one of a bank that is not verified, one for a later tick; a cancel; a slot without a package, one that
starts by itself and one that does not. -/
theorem witness_schedules :
    (∀ p ∈ [(16384, false), (0, false), (0, true)], W.dueIn (W.mb 0x403 3 (W.pay [(1, 4), (10, 6), (p.1, 2)]) (fun y => (W.ticking 3 y).put F.CHURN_STATUS_VERIFIED1 p.2)) 0x403
      (fun s q y => W.named s q && s.crm.up && decide (y.now < y.nextBoundary) && q.at_ 10 2 == p.1 && y.verified y.stby == p.2 && y.ch.arm.isNone && y.ch.plan.isNone &&
        decide (y.lane y.stby 0 0 % 16384 = 4000) && decide (y.now < Byre.tickNs 4000 ⟨y.nearSec 10, 0⟩) && y.nearSec 10 == 10 && y.tu.issued && !Tick.le ⟨10, 0⟩ y.tu.cur) = true) ∧
    W.due 0x401 2 [(1, 4), (0x1000, 8), (64, 4), (0, 4)] (fun s q _ => W.named s q && q.at_ 4 8 % 8 == 0 && imgForm 3 (List.replicate 64 0#8) != 0) ∧
    W.due 0x408 3 [(1, 1), (7, 3), (10, 6), (0, 2)] (fun s q _ => W.named s q && q.at_ 1 1 == 7 && q.at_ 10 2 == 0 && (s.package 1 7).isEmpty) ∧
    (∀ a ∈ [0, 8], W.due 0x409 2 [(1, 1), (7, 3)] (fun s q _ => W.named s q && q.at_ 1 1 == 7 && SMap.get (fun _ => 0) s.crm.autostart 1 == a) id
      (fun c => { c with autostart := if a = 0 then [] else [(1, a)] }) = true) := by decide +kernel

/-- The words of a configuration command that write to its registers what byre 1 holds in them. -/
def W.cfg (code sel : Nat) : List (Nat × Nat) :=
  [(1, 1), (sel, 3)] ++ (cfgRegs code (min sel ((selMax code).getD 0))).map fun o => ((Byre.zero 1).rdN o, 4)

/-- ConfigurationCommands: each with words that are legal and its selector at its greatest, and one beyond; herd_node with and without a device ID. -/
theorem witness_configuration :
    ([(0x504, 0), (0x505, 21), (0x602, 0), (0x604, 0), (0x605, 0), (0x606, 23), (0x702, 23), (0x703, 10), (0x704, 0), (0x705, 15), (0x902, 0), (0x903, 0), (0x906, 0),
      (0xA01, 0)].all fun p => W.due p.1 2 (W.cfg p.1 p.2) fun s q y => W.named s q && q.at_ 1 1 == p.2 && !y.wordsBad (cfgWords q) &&
        (p.1 != 0x702 || bit (q.at_ 4 4) 26 == y.flag (F.SW_PORT_CTRL_LOOPBACK 23))) ∧
    ([(0x505, 22), (0x606, 24), (0x702, 24), (0x703, 11), (0x705, 16)].all fun p => W.due p.1 2 (W.cfg p.1 p.2) fun s q _ => W.named s q &&
        (selMax p.1).any (· < q.at_ 1 1)) ∧
    ([none, some 0, some 5].all fun d => W.due 0x901 2 (W.cfg 0x901 0) (fun s q y => W.named s q && bits (q.at_ 4 4) 13 0 == 0 && s.crm.devId == d &&
      !y.wordsBad (cfgWords q)) id (fun c => { c with devId := d })) := by decide +kernel

/-- TableCommands: entries to write, none and too many, one without a key; an entry to read and one out of range; types to delete; notes; a copy that is
allowed and one that is not; a key to write, a slot that may be and 255. -/
theorem witness_tables :
    ([(1, 0x8000), (0, 0), (114, 0)].all fun p => W.due 0x501 2 [(1, 1), (p.1, 3), (0, 4), (p.2 * 2 ^ 16, 32)] fun s q _ => W.named s q && q.at_ 1 1 == p.1) ∧
    ([(0, 0), (1, 66559), (1, 66560)].all fun p => W.due 0x502 2 [(1, 1), (p.1, 3), (p.2, 4), (0, 8)] fun s q _ => W.named s q && q.at_ 1 1 == p.1 && q.at_ 4 4 == p.2) ∧
    ([0, 3].all fun k => W.due 0x503 2 [(1, 1), (k, 3)] fun s q y => W.named s q && q.at_ 1 1 == k && (y.emuParity (y.emu.map (·.1))).1.isEmpty) ∧
    W.due 0x506 2 [(1, 4)] (fun s q _ => W.named s q) ∧
    ([(false, 4, true), (true, 4, true), (false, 4, false)].all fun p =>
      W.dueIn (let s := W.mb 0x507 2 (W.pay [(1, 1), (4, 1), (1, 2), (0, 6), (7, 2), (0, 12), (3, 2), (0, 18)]) (fun y => y.put F.EMU_CTRL_MK1 p.1)
        { s with crm := { s.crm with regs := if p.2.2 then s.crm.regs else [(R.AON_PWR_STATE 1, 0xAAAAA#32)] } }) 0x507 fun s q y => W.named s q && q.at_ 1 1 == 4 &&
        y.flag F.EMU_CTRL_MK1 == p.1 && s.on 2 domFAB == p.2.2 && !(s.byre 2).flag F.EMU_CTRL_MK1 && q.at_ 2 1 == 1 && q.at_ 10 2 == 7) ∧
    ([254, 255].all fun k => (W.due 0x508 2 [(1, 1), (k, 1), (3, 2), (2 ^ 29, 4), (9, 72)] fun s q _ => W.named s q && q.at_ 1 1 == k && q.at_ 4 4 == 2 ^ 29) &&
      [0x509, 0x50A].all fun c => W.due c 2 [(1, 1), (k, 3)] fun s q _ => W.named s q && q.at_ 1 1 == k) := by decide +kernel

/-- ExportCommands: the coarse clock at its last nanosecond and beyond; a frame that is too short, one without a pail, one with; a ring to set up, one that
runs, one whose stream is bound, and bad arguments; a ring to stop; pages in and out of range. -/
theorem witness_export :
    ([999999999, 1000000000].all fun ns => W.due 0x603 2 [(5, 6), (ns, 4)] fun _ q _ => q.at_ 6 4 == ns) ∧
    ([13, 14, 2044, 2045].all fun l => W.due 0x706 2 [(1, 4), (l, 2), (0, 46)] fun s q y => W.named s q && q.at_ 4 2 == l && (y.alloc 35 14).1.isNone) ∧
    (W.due 0x706 2 [(1, 4), (40, 2), (0, 42)] (fun s q y => W.named s q && (y.alloc 35 40).1 == some 0x140000 && decide ((y.alloc 35 40).2.coreTo.inLen 27 < (y.alloc 35 40).2.coreTo.inDepth 27))
      fun y => (W.pool y).set (F.PAIL_QUOTA_LIMIT 35) 100) ∧
    (W.due 0x706 2 [(1, 4), (40, 2), (0, 42)] (fun _ _ y => (y.alloc 35 40).1 == some 0x140000 && decide ((y.alloc 35 40).2.coreTo.inDepth 27 ≤ (y.alloc 35 40).2.coreTo.inLen 27))
      fun y => { (W.pool y).set (F.PAIL_QUOTA_LIMIT 35) 100 with inq := List.replicate 64 (W.frame 27 60) }) ∧
    ([(31, 4, 4096, 1), (31, 12, 0, 256), (32, 4, 0, 1), (3, 3, 0, 1), (3, 13, 0, 1), (3, 4, 4095, 1), (3, 4, 0, 0), (3, 4, 0, 257)].all fun p =>
      W.due 0x801 2 [(p.1, 1), (1, 1), (5, 1), (p.2.1, 1), (p.2.2.1, 8), (p.2.2.2, 2), (9, 10)] fun s q _ => q.at_ 0 1 == p.1 && q.at_ 3 1 == p.2.1 && q.at_ 4 8 == p.2.2.1 &&
        q.at_ 12 2 == p.2.2.2 && !s.crm.flag (F.CRM_EXP_CFG_EN p.1) && (s.ringOf 1 5).isNone) ∧
    ([3, 4].all fun r => W.due 0x801 2 [(r, 1), (1, 1), (5, 1), (4, 1), (0, 8), (1, 2), (9, 10)] (fun s q _ => q.at_ 0 1 == r && s.crm.flag (F.CRM_EXP_CFG_EN r) == decide (r = 3) &&
      s.ringOf 1 5 == some 3) id fun c => ((c.put (F.CRM_EXP_CFG_EN 3) true).set (F.CRM_EXP_CFG_BYRE 3) 1).set (F.CRM_EXP_CFG_STREAM 3) 5) ∧
    ([0x802, 0x803].all fun c => [3, 32].all fun r => W.due c 2 [(r, 1)] (fun s q _ => q.at_ 0 1 == r && s.crm.flag (F.CRM_EXP_CFG_EN 3) && s.crm.get (F.CRM_EXP_CFG_BYRE 3) == 1) id
      fun c => (c.put (F.CRM_EXP_CFG_EN 3) true).set (F.CRM_EXP_CFG_BYRE 3) 1) ∧
    ([(255, 5, 47), (256, 5, 47), (255, 6, 47), (255, 5, 48)].all fun p => W.due 0x804 2 [(p.1, 2), (p.2.1, 1), (p.2.2, 1), (1, 1)] fun _ q _ => q.at_ 0 2 == p.1 && q.at_ 2 1 == p.2.1 &&
      q.at_ 3 1 == p.2.2) := by decide +kernel

/-- StatusCommands: selectors in and out of range; an epoch of a byre that is no root, one whose K is out of range, too soon, and in time; a recorder in
each state, with its tanker free or busy. -/
theorem witness_status :
    ([(0x701, 23), (0x701, 24), (0x805, 7), (0x805, 8), (0x904, 0), (0xA05, 0), (0x601, 0)].all fun p => W.due p.1 2 [(1, 1), (p.2, 3)] fun s q _ => W.named s q && q.at_ 1 1 == p.2) ∧
    ([(1, 9, 0), (3, 9, 16384), (3, 0, 0), (3, 9, 0)].all fun p => W.due 0x905 2 [(1, 4), (p.2.1, 6), (p.2.2, 2)] (fun s q y => W.named s q && y.role == p.1 && q.at_ 10 2 == p.2.2 &&
      decide (Byre.tickNs (max 1 (y.lane y.stby 0 0 % 16384)) ⟨q.at_ 4 6, q.at_ 10 2⟩ < y.now + 500000000) == decide (p.2.1 = 0)) fun y =>
        { (y.put F.TUG_NODE_EN true).set F.TUG_NODE_ROLE p.1 with herd := { W.herd0 0 with members := [8] } }) ∧
    ([rcIDLE, rcARMED, rcFROZEN].all fun st => [0xA02, 0xA03, 0xA04].all fun c => W.due c 2 [(1, 4)] (fun s q y => W.named s q && y.get F.DRAM_REC_STATE_STATE == st &&
      !y.chanBusy 0 && !(y.chan 0).disabled && y.get F.DRAM_REC_CTRL_EXP_TANKER == 0) fun y => (y.set F.DRAM_REC_STATE_STATE st).wr (R.TNK_CTRL 0) 0) ∧
    W.due 0xA03 2 [(1, 4)] (fun _ _ y => y.get F.DRAM_REC_STATE_STATE == rcFROZEN && y.chanBusy 0) (fun y => (y.set F.DRAM_REC_STATE_STATE rcFROZEN).set (F.TNK_STATUS_STATE 0) 1) := by
  decide +kernel

/-- Engine 9 has been started, or not. -/
def W.started (b : Bool) (y : Byre) : Byre := { y with eng := [(9, { y.engine 9 with on := b })] }

/-- PowerCommands: a domain that is none, one while the sequencer is busy, one already there, an illegal one, RETAIN to ON, ON to RETAIN with every kind of
answer; a voltage that is allowed and one that is not; a speed in READY and behind another. -/
theorem witness_power_commands :
    ([(10, 2), (9, 2)].all fun p => W.due 0xB02 2 [(1, 1), (p.1, 1), (p.2, 2)] fun s q _ => W.named s q && q.at_ 1 1 == p.1 && q.at_ 2 1 == p.2 && !s.crm.flag F.AON_PWR_RESULT_BUSY &&
      (p.1 == 10 || s.crm.dom 1 9 == 2)) ∧
    W.due 0xB02 2 [(1, 1), (9, 1), (2, 2)] (fun s _ _ => s.crm.flag F.AON_PWR_RESULT_BUSY) id (fun c => c.put F.AON_PWR_RESULT_BUSY true) ∧
    W.due 0xB02 2 [(1, 1), (0, 1), (0, 2)] (fun s q _ => W.named s q && s.crm.dom 1 0 == 2 && !depOk fun k => if k = 0 then 0 else s.crm.dom 1 k) ∧
    ([0, 1].all fun d => W.due 0xB02 2 [(1, 1), (9, 1), (2, 2)] (fun s q _ => W.named s q && s.crm.dom 1 9 == d && depOk fun k => if k = 9 then 2 else s.crm.dom 1 k) id
      fun c => { c with regs := [(R.AON_PWR_STATE 1, BitVec.ofNat 32 (0x2AAAA + d * 0x40000))] }) ∧
    ([(0, false, none), (0, true, some (0x11, 0, false)), (0x11, true, some (0x11, 0, true))].all fun p => W.due 0xB02 2 [(1, 1), (3, 1), (1, 2)] (fun s q y => W.named s q &&
      s.crm.dom 1 3 == 2 && (depOk fun k => if k = 3 then 1 else s.crm.dom 1 k) && askBlocks (y.refuses 3) p.1 (domBlocks 3) 0 == p.2.2) (W.started p.2.1)) ∧
    ([0, 800].all fun mv => W.due 0xB03 2 [(1, 1), (1, 1), (mv, 2)] fun s q _ => W.named s q && q.at_ 2 2 == mv && s.voltOk 1 1 mv == decide (mv = 800) && !s.crm.flag (F.AON_VSTAT_BUSY 1)) ∧
    W.due 0xB03 2 [(1, 1), (1, 1), (800, 2)] (fun s _ _ => s.voltOk 1 1 800 && s.crm.flag (F.AON_VSTAT_BUSY 1)) id (fun c => c.put (F.AON_VSTAT_BUSY 1) true) ∧
    ([(drREADY, false), (drTRAINING, true)].all fun p => W.due 0xB04 2 [(1, 1), (1, 3)] (fun s q y => W.named s q && q.at_ 1 1 == 1 && s.on 1 domDRM &&
      y.get F.DRAM_STATUS_STATE == p.1 && y.flag F.DRAM_STATUS_PEND == p.2) fun y => (W.dram p.1 y).put F.DRAM_STATUS_PEND p.2) ∧
    W.due 0xB06 2 [(9000, 2), (0, 2)] (fun _ q _ => q.at_ 0 4 == 9000) := by decide +kernel

/-- AuditCommands and DiagnosisCommands: a log with records to export and a first record that is out of it; words to read and write; debug locked, open and
withdrawn, a thread halted or not; a freeze and a release; scratch words; fuses that are legal and not. -/
theorem witness_service :
    ([0, 4, 6, 8].all fun k => W.due 0xC02 2 [(k, 4), (0, 4), (0x1000, 8), (64, 8)] (fun s q _ => q.at_ 0 4 == k && q.at_ 8 8 % 8 == 0 && q.at_ 16 4 == 64 && s.crm.audit.next == 7 &&
      (s.crm.audit.recs.head?).elim 0 (·.seq) == 4) id fun c => { c with audit := { c.audit with recs := (List.range 3).map fun i => ⟨i + 4, List.replicate 48 1#8, some (List.replicate 16 2#8)⟩, next := 7 } }) ∧
    ([(0x140000, 1), (0x140000, 1020), (0x140000, 1021), (0x140000, 0), (0x140001, 1), (0xFFFFFC, 2)].all fun p => W.due 0xD01 2 [(1, 4), (p.1, 4), (p.2, 2)] (fun s q y => W.named s q &&
      q.at_ 4 4 == p.1 && q.at_ 8 2 == p.2 && y.bankOpen 5 0x20) fun y => y.set (F.VAT_OWNER_OWNER 5) 0x20) ∧
    ([0x140000, 0x140001, 0x1000000, R.EMU_ENT 7].all fun o => W.due 0xD02 2 [(1, 4), (o, 4), (9, 4)] (fun s q y => W.named s q && q.at_ 4 4 == o && y.bankOpen 5 0x20 && decide (y.hostWr.1 ≠ y.tu.clk)) fun y =>
      { y.set (F.VAT_OWNER_OWNER 5) 0x20 with hostWr := (7, []) }) ∧
    ([0, 1].all fun k => W.due 0xD03 2 [] (fun s _ _ => (s.crm.otpWord 0xA8).toNat == k) id fun c => { c with otp := if k = 0 then c.otp else [(0, 7), (0xA8, 1)] }) ∧
    ([false, true].all fun dbg => [false, true].all fun h => [0xD04, 0xD05].all fun c => W.due c 4 [(1, 1), (9, 1), (3, 2)] (fun s q y => W.named s q && q.at_ 1 1 == 9 && q.at_ 2 1 == 3 &&
      s.crm.dbg == dbg && s.on 1 (domCL + clusterOf 9) && (y.engine 9).on && (y.thread 9 3).halted == h && !(y.thread 9 3).termDue) (fun y => W.started true (W.thr9 { W.thr with halted := h } y)) fun c => { c with dbg := dbg }) ∧
    W.due 0xD05 4 [(1, 1), (9, 1), (3, 2)] (fun _ _ y => (y.thread 9 3).halted && (y.thread 9 3).termDue) (W.thr9 { W.thr with halted := true, termDue := true }) (fun c => { c with dbg := true }) ∧
    ([false, true].all fun dbg => [0, 1].all fun k => W.due 0xD06 4 [(1, 1), (k, 3)] (fun s q y => W.named s q && s.crm.dbg == dbg && q.at_ 1 1 == k && y.st == Byre.stTEST &&
      y.tu.frozenAt.isNone && decide (y.now < y.nextBoundary)) (fun y => { y with tu := { y.tu with genS := 9 } }) fun c => { c with dbg := dbg }) ∧
    ([(0, 0), (0, 1020), (0, 1021), (0x7FFF, 1), (0x7FFF, 2)].all fun p => W.due 0xD07 2 [(1, 1), (9, 3), (p.1, 4), (p.2, 2)] fun s q y => W.named s q && q.at_ 1 1 == 9 &&
      q.at_ 4 4 == p.1 && q.at_ 8 2 == p.2 && y.badPar.isEmpty && y.softPar.isEmpty) ∧
    ([(0, 7, false), (0, 15, false), (0xA8, 1, false), (0, 3, false), (4, 1, false), (0, 15, true)].all fun p => W.due 0xD09 2 [(p.1, 4), (p.2.1, 4)] (fun s q _ => q.at_ 0 4 == p.1 && q.at_ 4 4 == p.2.1 &&
      s.crm.flag F.AON_PFAIL_STAT_PFAIL == p.2.2 && (s.crm.otpWord 0).toNat == 7) id fun c => c.put F.AON_PFAIL_STAT_PFAIL p.2.2) ∧
    ([0, 7].all fun l => W.due 0xD0A 2 [(0, 4)] (fun s _ _ => (s.crm.lifecycle == Creamery.lcMAKER) == decide (l = 1)) id fun c => { c with otp := [(0, BitVec.ofNat 32 l)] }) := by decide +kernel

/-- FirmwareCommands: an image, and the trial state that refuses it; a slot to activate; an SVN to commit. -/
theorem witness_firmware :
    ([false, true].all fun t => [0xE02, 0xE03, 0xE04].all fun c => W.due c 2 (if c = 0xE02 then [(0x1000, 8), (64, 8)] else []) (fun s q _ => s.crm.trial == t && s.crm.mode == 3 &&
      (c != 0xE02 || (q.at_ 0 8 % 8 == 0 && q.at_ 8 4 == 64)) && !s.crm.flag F.AON_PFAIL_STAT_PFAIL && (s.crm.fwCheck (List.replicate 64 0#8)).isSome) id fun c => { c with trial := t }) ∧
    W.due 0xE04 2 [] (fun s _ _ => s.crm.flag F.AON_PFAIL_STAT_PFAIL) id (fun c => c.put F.AON_PFAIL_STAT_PFAIL true) := by decide +kernel

/-! ### Witnesses: the herd's timers and epochs, power, resets, the queue -/

/-- HerdTimers: each role, in each state of the membership. -/
theorem witness_herd_timers :
    ([1, 2, 3].all fun r => [Byre.hNONE, Byre.hJOINING, Byre.hMEMBER, Byre.hISOLATED].all fun h => [false, true].all fun a =>
      W.herdMeets r { W.herd0 h with answered := a } (W.can 1 0x13 0 1 []) id fun y _ => y.role == r && y.herd.st == h && y.herd.answered == a && y.evq.isEmpty) = true := by decide +kernel

/-- HerdCans: an announced epoch that is live already, one that is armed, and a report that differs or not. -/
theorem witness_herd_epochs :
    ([0, 7].all fun e => W.herdMeets 1 (W.herd0 0) (W.can 1 0x20 0 1 (W.pay [(e, 2), (10, 6), (0, 2)]))
      (fun y => let y := W.ticking Byre.stRUNNING y; { y with mem := Mem.stw y.mem (Byre.laneAddr 1 0 2) 7 }) fun y d =>
        (y.liveEpoch == e) == decide (e = 0) && leNat (d.payload.take 2) == e && (e == 0 || (y.lane y.stby 0 2 % 65536 == e && y.verified y.stby && y.ch.arm.isNone && y.live &&
          y.lane y.stby 0 0 % 16384 == 4000 && y.lane y.bank 0 0 % 16384 == 4000 && leNat ((d.payload.drop 2).take 6) == 10 && y.nearSec 10 == 10 &&
          decide (y.now < Byre.tickNs 4000 ⟨10, 0⟩) && decide (y.now < y.nextBoundary) && y.ch.plan.isNone && !Tick.le ⟨10, 0⟩ y.tu.cur))) ∧
    ([0, 1].all fun k => W.herdMeets 3 (W.herd0 0) (W.can 1 0x21 8 1 (W.pay [(0, 2), (k, 1)])) id fun y d => leNat ((d.payload.drop 2).take 1) == k && y.evq.isEmpty) := by decide +kernel

/-- A creamery whose firmware runs. -/
def W.crmUp (g : Creamery → Creamery) : State := { W.s id with crm := g { W.crm with up := true, mode := 3 } }

/-- The dependencies of R486 for byre 1 with domain `d` in the state `tgt`. -/
def W.deps (s : State) (d tgt : Nat) : Bool := depOk fun k => if k = d then tgt else s.crm.dom 1 k

/-- The state with the cluster domain 1 of byre 1 in state `d`. -/
def W.dom3 (d : Nat) : State := W.crmUp fun c => { c with regs := [(R.AON_PWR_STATE 1, BitVec.ofNat 32 (0xAAAAA - 0x80 + d * 0x40))] }

/-- PowerSequencer: a master that does not reach it; a request while BUSY; one already met, illegal, OFF to ON without power, RETAIN to ON, ON to RETAIN with
each answer; a handshake that waits or not; a wake input that is not enabled, one that ends a handshake, one that wakes the byre. -/
theorem witness_power :
    (State.reset.shut .jtag = true ∧ (W.crmUp id).shut .bar0 = false ∧ (W.crmUp id).shut .mp = false ∧ (W.crmUp id).crm.shake = none) ∧
    (W.crmUp fun c => c.put F.AON_PWR_RESULT_BUSY true).crm.flag F.AON_PWR_RESULT_BUSY = true ∧
    ([0, 1, 2].all fun d => let s := W.dom3 d
      s.crm.dom 1 3 == d && W.deps s 3 2 && (d == 2 || W.deps s 3 1) && !s.crm.flag F.AON_PWR_RESULT_BUSY && s.crm.get (F.AON_WAKE_CFG_EN 1) == 0 && !s.crm.flag (F.AON_VSTAT_PGOOD 1) &&
        (SMap.get (fun _ => none) s.crm.policy 1).isNone) ∧
    !W.deps (W.dom3 2) 0 0 ∧
    ([(0, false, none), (0, true, some (0x11, 0, false)), (0x11, true, some (0x11, 0, true))].all fun p =>
      W.has (W.started p.2.1) fun _ y => askBlocks (y.refuses 3) p.1 (domBlocks 3) 0 == p.2.2 && W.deps (W.dom3 2) 3 1) ∧
    ([none, some ⟨1, 3, 1, 0x11, 5⟩].all fun h => let s := W.crmUp fun c => { (c.set (F.AON_WAKE_CFG_EN 1) 1).set (F.AON_WAKE_CFG_DOMAINS 1) 255 with shake := h }
      s.crm.shake == h && bit (s.crm.get (F.AON_WAKE_CFG_EN 1)) 0 && (bit (s.crm.get (F.AON_WAKE_CFG_POL 1)) 0 == false) && bit (s.crm.get (F.AON_WAKE_CFG_DOMAINS 1)) 3 && s.on 1 domFAB) ∧
    (let s := W.crmUp fun c => (({ c with regs := [(R.AON_PWR_STATE 1, 0x6#32)] }).set (F.AON_WAKE_CFG_EN 1) 1).set (F.AON_WAKE_CFG_DOMAINS 1) 2
     s.crm.shake == none && s.crm.dom 1 domTIME == 2 && s.crm.dom 1 domFAB == 1 && s.crm.get (F.AON_WAKE_CFG_DOMAINS 1) == 2 && bit (s.crm.get (F.AON_WAKE_CFG_EN 1)) 0 &&
       (SMap.get (fun _ => none) s.crm.policy 1).isNone) := by decide +kernel

/-- Supplies: a request while BUSY, one the rail does not accept, one it does; a request that waits, and none; a byre with a domain on and one with none; PFAIL raised or not. -/
theorem witness_supplies :
    ([false, true].all fun b => let s := W.crmUp fun c => c.put (F.AON_VSTAT_BUSY 1) b
      s.crm.flag (F.AON_VSTAT_BUSY 1) == b && !s.shut .mp && s.voltOk 1 1 800 && !s.voltOk 1 1 0 && !s.voltOk 1 1 901) ∧
    ([none, some ⟨1, 800, 5⟩].all fun r => let s := W.crmUp fun c => { c with vreq := if r.isSome then [(1, r)] else [] }
      SMap.get (fun _ => none) s.crm.vreq 1 == r && s.anyOn 1) ∧
    !State.reset.anyOn 1 ∧
    ([false, true].all fun h => let s := W.crmUp fun c => (c.put F.AON_PFAIL_CFG_EN true).put F.AON_PFAIL_STAT_PFAIL h
      s.crm.flag F.AON_PFAIL_CFG_EN && s.crm.flag F.AON_PFAIL_STAT_PFAIL == h && decide ((5000#16).toNat < s.crm.get F.AON_PFAIL_CFG_THRESH_MV) &&
        decide ((12000#16).toNat ≥ s.crm.get F.AON_PFAIL_CFG_THRESH_MV + 250)) := by decide +kernel

/-- Resets: a creamery that is held, one of a BLANK part, one that boots without a good image, and on trial before and after its third attempt; a watchdog that runs
or not; firmware that may start; debug locked and unlocked. -/
theorem witness_resets :
    (let s := W.crmUp id
     s.crm.mode = 3 ∧ State.reset.crm.mode = 0 ∧ State.reset.crm.porHeld = false ∧ State.reset.crm.crmClkLost = false ∧
       bits (State.reset.crm.rdN R.AON_PWR_STATE_CRM) 1 0 = 2 ∧ State.reset.crm.lifecycle ≠ Creamery.lcBLANK) ∧
    { State.reset.crm with otp := [] }.lifecycle = Creamery.lcBLANK ∧
    (let c := State.reset.crm
     c.trial = false ∧ (c.fwCheck (c.fwImage c.prefer)).isNone = false ∧ (c.fwCheck (c.fwImage (1 - c.prefer))).isNone = false) ∧
    (∀ k ∈ [0, 2, 3], { State.reset.crm with trial := true, attempts := k }.attempts = k) ∧
    (let s := { State.reset with crm := { State.reset.crm with mode := 3 } }
     s.crm.up = false ∧ s.crm.lifecycle ≠ Creamery.lcRETIRED ∧ s.crm.autostart = [] ∧ s.crm.policy = [] ∧ s.crm.dbg = false) ∧
    { State.reset.crm with dbg := true }.dbg = true := by decide +kernel

/-- StepTakesTheFront: a state with a command in front, one with none whose management processor is still, and one where it runs. -/
theorem witness_queue :
    ({ State.reset with pending := [.nop 1] }.pending = [.nop 1] ∧ State.reset.pending = [] ∧ State.reset.crm.mode ≠ 3) ∧
    (let s := W.crmUp fun c => { c with mp := { c.mp with released := true } }
     s.pending = [] ∧ s.crm.mode = 3 ∧ s.crm.mp.released = true ∧ s.crm.mp.halted = false) := by decide +kernel

/-- EngineIsolation: the word of an instruction, a thread that can issue it, one that cannot, and one whose next word is another. -/
theorem witness_isolation :
    (let s := W.at 0x21440006
     decodeEng 1 9 3 0x21440006 = some (atRest (.shifti 1 9 3 5 1 0 6)) ∧ s.engOn 1 9 = true ∧ ((s.byre 1).thread 9 3).canIssue = true ∧
       (s.byre 1).codeWord 9 ((s.byre 1).thread 9 3).pc = 0x21440006) ∧
    ((W.with (W.code 0x21440006 Thr.zero)).byre 1 |>.thread 9 3).canIssue = false ∧ State.reset.engOn 1 9 = false := by decide +kernel

/-- ByresAreSeparate and FusesAndQueue: a command that reaches one byre, and a fuse that is blown. -/
theorem witness_separate :
    ¬severalByres (.nop 1) ∧ (∃ s', exec (.nop 1) State.reset = .next s') ∧ (SMap.get (fun _ => 0#32) (W.crmUp fun c => { c with otp := [(0, 7)] }).crm.otp 0).getLsbD 2 = true := by
  refine ⟨by simp [severalByres], ⟨_, rfl⟩, by decide +kernel⟩

/-! ### Ill-formed commands -/

/-- For each check of WellFormed, a command that it refuses. -/
theorem test_ill_formed :
    ([.portUp 1 2 ⟨0, 0⟩ 3, .portDown 1 2 ⟨0, 0⟩ 7 false, .mfc 1 9 3 5 0x3F, .mtc 1 9 3 5 0x3F, .getc 1 9 3 5 3 0 0, .putc 1 9 3 5 3 0 0, .getc 1 9 3 5 0 16 0,
      .ldp 1 9 3 5 1 1 (.disp 0), .stp 1 9 3 5 1 1 (.disp 0) false, .lda 1 9 3 1 1 1 (.post 4), .sta 1 9 3 1 1 1 (.pre 4) false, .br 1 9 3 1 2 6 4, .brz 1 9 3 1 7 4,
      .loopi 1 9 3 0 3, .loopi 1 9 3 8 0, .loopr 1 9 3 1 0, .lpop 1 9 3 0, .acxt 1 9 3 1 0 41, .mfac 1 9 3 1 0 3, .mtac 1 9 3 0 1 3, .upd 1 9 3 0, .upd 1 9 3 65,
      .exportEndMark 1 0 (some (List.replicate 31 0#8)), .powerStatus 0 (List.replicate 107 0#8), .tempRead 0 (List.replicate 13 0#8)].all fun i => !Instr.wellFormed i) = true := by
  decide +kernel

/-- At the bound of each check, a command that it takes. -/
theorem test_well_formed :
    ([.portUp 1 2 ⟨0, 0⟩ 2, .portDown 1 2 ⟨0, 0⟩ 6 false, .ldp 1 9 3 14 1 1 (.disp 0), .lda 1 9 3 1 1 1 (.disp 4), .br 1 9 3 1 2 5 4, .loopi 1 9 3 1 1, .lpop 1 9 3 1,
      .acxt 1 9 3 1 0 40, .mfac 1 9 3 1 0 2, .upd 1 9 3 1, .upd 1 9 3 64, .exportEndMark 1 0 none, .exportEndMark 1 0 (some (List.replicate 32 0#8)),
      .powerStatus 0 (List.replicate 108 0#8)].all Instr.wellFormed) = true := by decide +kernel

/-! ### Results that the manual prints -/

/-- The worked example of 08_engine_isa.md: AC0 of 19,500,000 rounds to 2,437,500. -/
theorem test_acx_example : acxVal 19500000#72 3 = 2437500#32 ∧ acxVal (-1 : BitVec 72) 1 = 0#32 ∧ acxVal (2 ^ 40 : BitVec 72) 0 = 0x7FFFFFFF#32 := by decide

/-- The sums of the same example: the eight products of 1,000, −1,000, 2,000, −2,000, 500, −500, 0 and 3,000 with themselves. -/
theorem test_energy_example : ([1000, -1000, 2000, -2000, 500, -500, 0, 3000].map fun x : Int => x * x).sum = 19500000 := by decide

/-- Addresses that 01_architecture.md works out: the press registers of byre 3 and bank 7 of the vat of byre 0. -/
theorem test_addresses : State.byreAddr 3 (blockBase 5) = 0x13C50000 ∧ State.byreAddr 0 (7 * 0x40000) = 0x101C0000 := by decide

/-- The check value of CRC-32C (R409): that of the nine digits is 0xE3069283. -/
theorem test_crc32c : crc32c ([1, 2, 3, 4, 5, 6, 7, 8, 9].map fun k => BitVec.ofNat 8 (0x30 + k)) = 0xE3069283 := by decide +kernel

/-- SHA-256 (R453) of the three letters abc, as FIPS 180-4 prints it: its first and last words. -/
theorem test_sha256 : (let h := sha256 [0x61#8, 0x62#8, 0x63#8]
    h.take 4 ++ h.drop 28) = [0xBA#8, 0x78#8, 0x16#8, 0xBF#8, 0xF2#8, 0x00#8, 0x15#8, 0xAD#8] := by decide +kernel

/-- The worked example of 03_churn_schedules.md: at 4,800 ticks per second tick 2,402 of a second starts 500,416,666 ns into it. -/
theorem test_tick_example : Byre.tickNs 4800 ⟨0, 2402⟩ = 500416666 ∧ Byre.tickNs 4800 ⟨0, 2403⟩ - Byre.tickNs 4800 ⟨0, 2402⟩ = 208334 := by decide

end Sys2Proof.Machine
end

section
/-!
SUPPORT. Bits of a number, bytes of a word, registers read after a write, and what recording a bus error does to the creamery (R28, R29).
-/

namespace Sys2Proof.Machine

/-! ### Bits of a number -/

theorem bit_eq_testBit (v i : Nat) : bit v i = v.testBit i := by
  unfold bit
  rw [Nat.testBit_eq_decide_div_mod_eq]
  rfl

theorem testBit_bits (v hi lo j : Nat) : (bits v hi lo).testBit j = (decide (j < hi + 1 - lo) && v.testBit (lo + j)) := by
  unfold bits
  rw [Nat.testBit_mod_two_pow, Nat.testBit_div_two_pow, Nat.add_comm j]

/-- A field put into a number stands between what is below it and what is above it. -/
theorem insBits_eq (old hi lo v : Nat) :
    insBits old hi lo v =
      2 ^ lo * (2 ^ (hi + 1 - lo) * (old / 2 ^ lo / 2 ^ (hi + 1 - lo)) + v % 2 ^ (hi + 1 - lo)) + old % 2 ^ lo := by
  have hlow : 2 ^ lo * (old / 2 ^ lo) + old % 2 ^ lo = old := Nat.div_add_mod ..
  have hmid := Nat.div_add_mod (old / 2 ^ lo) (2 ^ (hi + 1 - lo))
  have hsplit := congrArg (2 ^ lo * ·) hmid
  simp only [Nat.mul_add] at hsplit
  unfold insBits bits
  rw [Nat.mul_add, Nat.mul_comm _ (2 ^ lo), Nat.mul_comm _ (2 ^ lo)]
  omega

/-- A field put into a number has its bits, and every other bit is as before. -/
theorem testBit_insBits (old hi lo v j : Nat) :
    (insBits old hi lo v).testBit j = if lo ≤ j ∧ j < hi + 1 then v.testBit (j - lo) else old.testBit j := by
  rw [insBits_eq, Nat.testBit_two_pow_mul_add _ (Nat.mod_lt _ (Nat.two_pow_pos _)),
    Nat.testBit_two_pow_mul_add _ (Nat.mod_lt _ (Nat.two_pow_pos _)), Nat.testBit_mod_two_pow, Nat.testBit_mod_two_pow,
    Nat.testBit_div_two_pow, Nat.testBit_div_two_pow]
  by_cases hlow : j < lo
  · rw [if_pos hlow, if_neg (by omega), decide_eq_true hlow, Bool.true_and]
  · by_cases hin : j < hi + 1
    · rw [if_neg hlow, if_pos (by omega), if_pos (by omega)]
      simp [show j - lo < hi + 1 - lo by omega]
    · rw [if_neg hlow, if_neg (by omega), if_neg (by omega)]
      congr 1
      omega

/-- The bits of a field are what was put into it. -/
theorem bits_insBits_self (old hi lo v : Nat) : bits (insBits old hi lo v) hi lo = v % 2 ^ (hi + 1 - lo) := by
  apply Nat.eq_of_testBit_eq
  intro j
  rw [testBit_bits, testBit_insBits, Nat.testBit_mod_two_pow, Nat.add_sub_cancel_left]
  by_cases h : j < hi + 1 - lo
  · rw [if_pos (by omega)]
  · simp [h]

/-- The bits of a field are as before where another field was put. -/
theorem bits_insBits_ne {hi lo hi' lo' : Nat} (old v : Nat) (h : hi' < lo ∨ hi < lo') :
    bits (insBits old hi lo v) hi' lo' = bits old hi' lo' := by
  apply Nat.eq_of_testBit_eq
  intro j
  rw [testBit_bits, testBit_bits, testBit_insBits]
  by_cases hj : j < hi' + 1 - lo'
  · rw [if_neg (by omega)]
  · simp [hj]

/-- The bits of a word are those of the number it was made of. -/
theorem bits_mod_word {hi : Nat} (v lo : Nat) (h : hi < 32) : bits (v % 2 ^ 32) hi lo = bits v hi lo := by
  apply Nat.eq_of_testBit_eq
  intro j
  rw [testBit_bits, testBit_bits, Nat.testBit_mod_two_pow]
  by_cases hj : j < hi + 1 - lo
  · simp [show lo + j < 32 by omega]
  · simp [hj]

/-! ### Bytes of a word -/

theorem leNat_lt (bs : List Byte) : leNat bs < 256 ^ bs.length := by
  induction bs with
  | nil => simp [leNat]
  | cons b bs ih =>
    have hb := b.isLt
    rw [leNat, List.length_cons, Nat.pow_succ]
    omega

@[simp] theorem length_leBytes (n v : Nat) : (leBytes n v).length = n := by
  induction n generalizing v with
  | zero => rfl
  | succ n ih => simp [leBytes, ih]

/-- A number is read back from its little-endian bytes (R5). -/
theorem leNat_leBytes (n v : Nat) : leNat (leBytes n v) = v % 256 ^ n := by
  induction n generalizing v with
  | zero => simp [leBytes, leNat, Nat.mod_one]
  | succ n ih =>
    rw [leBytes, leNat, ih, BitVec.toNat_ofNat, Nat.pow_succ' (m := 256), Nat.mod_mul]

/-! ### Registers -/

namespace Byre

theorem rdN_lt (y : Byre) (o : Nat) : y.rdN o < 2 ^ 32 := (y.rd o).isLt

theorem rd_wrN (y : Byre) (o v o' : Nat) : (y.wrN o v).rd o' = if o' = o then BitVec.ofNat 32 v else y.rd o' := rd_wr ..

theorem ofNat_rdN (y : Byre) (o : Nat) : BitVec.ofNat 32 (y.rdN o) = y.rd o := BitVec.ofNat_toNat ..

end Byre

namespace Creamery

theorem rdN_lt (c : Creamery) (a : Nat) : c.rdN a < 2 ^ 32 := (SMap.get crmRst c.regs a).isLt

theorem rdN_wrN (c : Creamery) (a v a' : Nat) : (c.wrN a v).rdN a' = if a' = a then v % 2 ^ 32 else c.rdN a' := by
  unfold rdN wrN
  rw [SMap.get_set]
  split
  · exact BitVec.toNat_ofNat ..
  · rfl

@[simp] theorem rdN_wrN_self (c : Creamery) (a v : Nat) : (c.wrN a v).rdN a = v % 2 ^ 32 := by rw [rdN_wrN, if_pos rfl]

theorem rdN_wrN_ne (c : Creamery) {a a' : Nat} (v : Nat) (h : a' ≠ a) : (c.wrN a v).rdN a' = c.rdN a' := by
  rw [rdN_wrN, if_neg h]

theorem rdN_put_ne (c : Creamery) {f : Fld} {a : Nat} (x : Bool) (h : a ≠ f.off) : (c.put f x).rdN a = c.rdN a :=
  rdN_wrN_ne _ _ h

@[simp] theorem rdN_raise (c : Creamery) (n a : Nat) : (c.raise n).rdN a = c.rdN a := rfl

end Creamery

/-! ### A recorded bus error (R28, R29) -/

/-- The field of CRM_BUS_ERR that holds a cause. -/
abbrev BusErr.fld (e : BusErr) : Fld := ⟨R.CRM_BUS_ERR, e.bit, e.bit⟩

namespace Creamery

theorem rdN_busErr_ne (c : Creamery) (e : BusErr) (m : Master) (w : Bool) (a : Nat) {a' : Nat}
    (h : a' < R.CRM_BUS_ERR ∨ R.CRM_BUS_ERR_CNT < a') : (c.busErr e m w a).rdN a' = c.rdN a' := by
  unfold busErr
  dsimp only
  split <;> simp (disch := lia) only [rdN_put_ne, rdN_raise, rdN_wrN_ne]

/-- The count goes up and stays at its highest value (R29). -/
theorem rdN_busErr_cnt (c : Creamery) (e : BusErr) (m : Master) (w : Bool) (a : Nat) :
    (c.busErr e m w a).rdN R.CRM_BUS_ERR_CNT = min (c.rdN R.CRM_BUS_ERR_CNT + 1) 0xFFFFFFFF := by
  have hn := c.rdN_lt R.CRM_BUS_ERR_CNT
  have hcount : (if c.rdN R.CRM_BUS_ERR_CNT = 0xFFFFFFFF then c.rdN R.CRM_BUS_ERR_CNT else c.rdN R.CRM_BUS_ERR_CNT + 1) % 2 ^ 32 =
      min (c.rdN R.CRM_BUS_ERR_CNT + 1) 0xFFFFFFFF := by split <;> omega
  unfold busErr
  dsimp only
  split <;> simp (disch := lia) only [rdN_put_ne, rdN_raise, rdN_wrN_ne, rdN_wrN_self, hcount]

/-- The bit of the cause is set, whatever was held before (R28). -/
theorem flag_busErr (c : Creamery) (e : BusErr) (m : Master) (w : Bool) (a : Nat) : (c.busErr e m w a).flag e.fld = true := by
  have hbit : e.bit < 6 := by cases e <;> decide
  have hmod : 1 % 2 ^ (e.bit + 1 - e.bit) = 1 := by cases e <;> decide
  have hset : ∀ old, bits (insBits old e.bit e.bit 1 % 2 ^ 32) e.bit e.bit = 1 := fun old => by
    rw [bits_mod_word _ _ (by omega), bits_insBits_self, hmod]
  unfold flag get busErr
  dsimp only
  split
  · simp only [put, set, rdN_wrN_self]
    rw [bits_mod_word _ _ (by omega), bits_insBits_ne _ _ (.inl hbit), hset]
    rfl
  · simp (disch := lia) only [rdN_raise, rdN_wrN_ne, rdN_wrN_self, hset]
    rfl

end Creamery

end Sys2Proof.Machine
end

section
/-!
SUPPORT. What the management bus does with an access to a byre view: what stops it, how it is recorded, and where it goes (R10, R25 to R29).
-/

namespace Sys2Proof.Machine

/-! ### Byres after a step (R13, R14) -/

namespace State

@[simp] theorem withCrm_byre (s : State) (c : Creamery) (b : Fin 6) : ({ s with crm := c } : State).byre b = s.byre b := rfl

/-- Of the byre that a step changes, the events alone may leave it for the event queue. -/
theorem drain_byre_self (s : State) (b : Fin 6) : (s.drain b).byre b = { s.byre b with evq := ((s.drain b).byre b).evq } := by
  unfold drain
  split
  · rw [withCrm_byre, setByre_byre_self]
  · rfl

theorem onByre_byre_self (s : State) (b : Fin 6) (f : Byre → Byre) :
    (s.onByre b f).byre b = { f (s.byre b) with evq := ((s.onByre b f).byre b).evq } := by
  have h := drain_byre_self (s.setByre b (f (s.byre b))) b
  rw [setByre_byre_self] at h
  exact h

theorem onByre_regs (s : State) (b : Fin 6) (f : Byre → Byre) : ((s.onByre b f).byre b).regs = (f (s.byre b)).regs := by
  rw [onByre_byre_self]

theorem onByre_octHi (s : State) (b : Fin 6) (f : Byre → Byre) : ((s.onByre b f).byre b).octHi = (f (s.byre b)).octHi := by
  rw [onByre_byre_self]

/-! ### Refused accesses (R28) -/

/-- The access has changed no byre and is recorded with that cause (R28, R29). -/
def Recorded (e : BusErr) (s s' : State) : Prop :=
  s'.byres = s.byres ∧ s'.crm.flag e.fld = true ∧
    s'.crm.rdN R.CRM_BUS_ERR_CNT = min (s.crm.rdN R.CRM_BUS_ERR_CNT + 1) 0xFFFFFFFF

theorem busErr_open {s : State} {m : Master} (e : BusErr) (w : Bool) (a : Nat) (h : s.shut m = false) :
    s.busErr e m w a = s.onCrm fun c => c.busErr e m w a := by
  unfold busErr
  rw [h]
  rfl

theorem recorded_busErr {s : State} {m : Master} (e : BusErr) (w : Bool) (a : Nat) (h : s.shut m = false) :
    Recorded e s (s.busErr e m w a) := by
  rw [busErr_open e w a h]
  exact ⟨rfl, s.crm.flag_busErr e m w a, s.crm.rdN_busErr_cnt e m w a⟩

theorem recorded_readErr {s : State} {m : Master} (e : BusErr) (a : Nat) (h : s.shut m = false) :
    Recorded e s (s.readErr e m a) := recorded_busErr e false a h

/-- What stops an access of the management processor, or of JTAG with its port open, to a byre view: the domain, then what the byre
itself has against it (R17, R28). -/
theorem stop_off {s : State} {b : Fin 6} {m : Master} (off : Nat) (w : Bool) (hm : m = .mp ∨ m = .jtag) (hs : s.shut m = false)
    (hd : s.on b domFAB = false) : s.stop b m off w = some .domainOff := by
  unfold stop
  obtain rfl | rfl := hm <;> simp [hs, hd, reaches]

theorem stop_on {s : State} {b : Fin 6} {m : Master} (off : Nat) (w : Bool) (hm : m = .mp ∨ m = .jtag) (hs : s.shut m = false)
    (hd : s.on b domFAB = true) : s.stop b m off w = (s.byre b).mgmtErr off w := by
  unfold stop
  obtain rfl | rfl := hm <;> simp [hs, hd, reaches]

theorem mgmtWrite_stopped {s : State} {b : Fin 6} {m : Master} {off : Nat} {e : BusErr} (f : Byre → Byre)
    (h : s.stop b m off true = some e) : s.mgmtWrite b m off f = s.busErr e m true (byreAddr b off) := lockedWrite_stopped _ f h

theorem mgmtRead_stopped {s : State} {b : Fin 6} {m : Master} {off : Nat} {e : BusErr} (f : Byre → Byre × Nat)
    (h : s.stop b m off false = some e) : s.mgmtRead b m off f = s.readErr e m (byreAddr b off) := by
  unfold mgmtRead
  rw [h]
  rfl

theorem mgmtRead_taken {s : State} {b : Fin 6} {m : Master} {off : Nat} {f : Byre → Byre × Nat} {y' : Byre} {v : Nat}
    (h : s.stop b m off false = none) (hf : f (s.byre b) = (y', v)) :
    s.mgmtRead b m off f = (s.onByre b fun _ => y').readAs v := by
  unfold mgmtRead
  rw [h]
  simp only [hf]
  rfl

@[simp] theorem readAs_byres (s : State) (v : Nat) : (s.readAs v).byres = s.byres := rfl
@[simp] theorem readAs_byre (s : State) (v : Nat) (b : Fin 6) : (s.readAs v).byre b = s.byre b := rfl
@[simp] theorem readAs_busRd (s : State) (v : Nat) : (s.readAs v).busRd = BitVec.ofNat 32 v := rfl

end State

/-! ### What a byre has against an access (R19, R26 to R28) -/

namespace Byre

theorem mgmtErr_vat (y : Byre) {off : Nat} (w : Bool) (h : off < 0xC00000) :
    y.mgmtErr off w = if y.bankOpen (off / 0x40000) 0x20 then none else some .notOwner := by
  have hk : off / 0x40000 < 48 := by omega
  have hshut : (y.bankOwner (off / 0x40000) != 0x20 || y.flag (F.VAT_OWNER_RETAINED (off / 0x40000)) ||
      y.flag (F.VAT_OWNER_WAKING (off / 0x40000))) = !y.bankOpen (off / 0x40000) 0x20 := by
    unfold bankOpen bankAsleep
    rw [decide_eq_true hk, Bool.true_and, Bool.not_and, Bool.not_not, Bool.or_assoc]
    rfl
  unfold mgmtErr
  simp only [if_pos h, hshut]
  cases y.bankOpen (off / 0x40000) 0x20 <;> rfl

theorem mgmtErr_misaligned (y : Byre) {off : Nat} (w : Bool) (hlo : 0xC00000 ≤ off) (hhi : off < 0xD00000)
    (hr : (byreReg (off / 4 * 4)).isSome = true) (ha : off % 4 ≠ 0) : y.mgmtErr off w = some .align := by
  unfold mgmtErr
  rw [if_neg (by omega), if_pos hhi, if_neg (by simpa [Option.isSome_iff_ne_none] using hr), if_pos (by simpa using ha)]

/-- An aligned access to a register of the map is refused only as a write that R19 does not allow. -/
theorem mgmtErr_reg (y : Byre) {off : Nat} (w : Bool) (hlo : 0xC00000 ≤ off) (hhi : off < 0xD00000)
    (hr : (byreReg off).isSome = true) (ha : off % 4 = 0) :
    y.mgmtErr off w = if w && y.live && !y.r19ok off then some .locked else none := by
  have hword : off / 4 * 4 = off := by omega
  unfold mgmtErr
  rw [if_neg (by omega), if_pos hhi, hword, if_neg (by simpa [Option.isSome_iff_ne_none] using hr), if_neg (by simpa using ha)]

theorem mgmtErr_reg_read (y : Byre) {off : Nat} (hlo : 0xC00000 ≤ off) (hhi : off < 0xD00000)
    (hr : (byreReg off).isSome = true) (ha : off % 4 = 0) : y.mgmtErr off false = none := mgmtErr_reg y false hlo hhi hr ha

end Byre

/-! ### Accesses to a byre view (R10, R25) -/

namespace State

theorem toNat_byreAddr (b : Fin 6) {off : Nat} (h : off < 0x1000000) :
    (BitVec.ofNat 32 (byreAddr b off)).toNat = byreAddr b off := by
  have hb := b.isLt
  rw [BitVec.toNat_ofNat, Nat.mod_eq_of_lt]
  unfold byreAddr
  omega

theorem viaHost_mgmt {s : State} {m : Master} (f : State → State) (hm : m = .mp ∨ m = .jtag) (hs : s.shut m = false) :
    s.viaHost m f = f s := by
  unfold viaHost
  obtain rfl | rfl := hm <;> simp [hs, isHost]

theorem busWrite_byreAddr (s : State) (b : Fin 6) {m : Master} {off : Nat} (v : Nat) (hm : m = .mp ∨ m = .jtag)
    (h : off < 0x1000000) : s.busWrite m (byreAddr b off) v = s.regWrite b m off v := by
  have hb := b.isLt
  have hview : (byreAddr b off - 0x10000000) / 0x1000000 = b := by unfold byreAddr; omega
  have hoff : byreAddr b off % 0x1000000 = off := by unfold byreAddr; omega
  have hlo : 0x10000000 ≤ byreAddr b off := by unfold byreAddr; omega
  have hhi : byreAddr b off < 0x16000000 := by unfold byreAddr; omega
  have hr : reaches m (byreAddr b off) = true := by obtain rfl | rfl := hm <;> rfl
  have hne : m ≠ .bar0 := by obtain rfl | rfl := hm <;> decide
  unfold busWrite
  rw [if_neg hne, hr, if_neg (by decide), if_neg (by omega), if_neg (by omega), if_neg (by omega), if_neg (by omega),
    if_neg (by omega), dif_pos ⟨hlo, hhi⟩]
  simp only [hview, hoff]

theorem busRead_byreAddr (s : State) (b : Fin 6) {m : Master} {off : Nat} (hm : m = .mp ∨ m = .jtag)
    (h : off < 0x1000000) : s.busRead m (byreAddr b off) = s.regRead b m off := by
  have hb := b.isLt
  have hview : (byreAddr b off - 0x10000000) / 0x1000000 = b := by unfold byreAddr; omega
  have hoff : byreAddr b off % 0x1000000 = off := by unfold byreAddr; omega
  have hlo : 0x10000000 ≤ byreAddr b off := by unfold byreAddr; omega
  have hhi : byreAddr b off < 0x16000000 := by unfold byreAddr; omega
  have hr : reaches m (byreAddr b off) = true := by obtain rfl | rfl := hm <;> rfl
  unfold busRead
  rw [hr, if_neg (by decide), if_neg (by omega), if_neg (by omega), if_neg (by omega), if_neg (by omega),
    if_neg (by omega), if_neg (by omega), if_neg (by omega), dif_pos ⟨hlo, hhi⟩]
  simp only [hview, hoff]

end State

theorem exec_registerWrite_mgmt {s : State} {m : Master} (a v : Word) (hm : m = .mp ∨ m = .jtag) (hs : s.shut m = false) :
    exec (.registerWrite m a v) s = .next (s.busWrite m a.toNat v.toNat) :=
  congrArg Host.Outcome.next (State.viaHost_mgmt _ hm hs)

theorem exec_rcRead_mgmt {s : State} {m : Master} (a : Word) (hm : m = .mp ∨ m = .jtag) (hs : s.shut m = false) :
    exec (.rcRead m a) s = .next (s.busRead m a.toNat) :=
  congrArg Host.Outcome.next (State.viaHost_mgmt _ hm hs)

theorem exec_registerWrite_byreAddr {s : State} {m : Master} (b : Fin 6) {off : Nat} (v : Word) (hm : m = .mp ∨ m = .jtag)
    (hs : s.shut m = false) (h : off < 0x1000000) :
    exec (.registerWrite m (BitVec.ofNat 32 (State.byreAddr b off)) v) s = .next (s.regWrite b m off v.toNat) := by
  rw [exec_registerWrite_mgmt _ v hm hs, State.toNat_byreAddr b h, State.busWrite_byreAddr s b _ hm h]

theorem exec_rcRead_byreAddr {s : State} {m : Master} (b : Fin 6) {off : Nat} (hm : m = .mp ∨ m = .jtag)
    (hs : s.shut m = false) (h : off < 0x1000000) :
    exec (.rcRead m (BitVec.ofNat 32 (State.byreAddr b off))) s = .next (s.regRead b m off) := by
  rw [exec_rcRead_mgmt _ hm hs, State.toNat_byreAddr b h, State.busRead_byreAddr s b hm h]

namespace State

/-! ### Reads and writes of a byre view -/

theorem regRead_stopped {s : State} {b : Fin 6} {m : Master} {off : Nat} {e : BusErr} (h : s.stop b m off false = some e) :
    s.regRead b m off = s.readErr e m (byreAddr b off) := mgmtRead_stopped _ h

theorem regRead_mem {s : State} {b : Fin 6} {m : Master} {off : Nat} (h : s.stop b m off false = none)
    (hoff : off < 0xC00000 ∨ 0xD00000 ≤ off) :
    s.regRead b m off = (s.onByre b fun _ => s.byre b).readAs ((s.byre b).ldw (off / 4 * 4)) :=
  mgmtRead_taken h (if_pos hoff)

theorem regRead_reg {s : State} {b : Fin 6} {m : Master} {off : Nat} {y' : Byre} {v : Nat} (h : s.stop b m off false = none)
    (hlo : 0xC00000 ≤ off) (hhi : off < 0xD00000) (hf : (s.byre b).regRead m (s.cls b) off = (y', v)) :
    s.regRead b m off = (s.onByre b fun _ => y').readAs v :=
  mgmtRead_taken h ((if_neg (by omega)).trans hf)

theorem regWrite_mem (s : State) (b : Fin 6) (m : Master) {off : Nat} (v : Nat) (hoff : off < 0xC00000 ∨ 0xD00000 ≤ off) :
    s.regWrite b m off v = s.mgmtWrite b m off fun y => y.memWrite m (off / 4 * 4) v := by
  unfold regWrite
  rw [if_pos hoff]

theorem regWrite_misaligned (s : State) (b : Fin 6) (m : Master) {off : Nat} (v : Nat) (hlo : 0xC00000 ≤ off)
    (hhi : off < 0xD00000) (ha : off % 4 ≠ 0) : s.regWrite b m off v = s.mgmtWrite b m off id := by
  unfold regWrite
  rw [if_neg (by omega), if_pos ha]

end State

end Sys2Proof.Machine
end

section
/-!
SUPPORT. What a byre makes of an access that nothing stops: words of its memories, registers that read as stored, latches and RC registers.
-/

namespace Sys2Proof.Machine

/-! ### Words of the vat and of the management SRAM -/

/-- A word written whole is read back. -/
theorem leNat_read_write_word (m : Mem) (a v : Nat) : leNat (Mem.read (Mem.write m a (leBytes 4 v)) a 4) = v % 2 ^ 32 := by
  have h := Mem.read_write (leBytes 4 v) m a
  rw [length_leBytes] at h
  rw [h]
  exact leNat_leBytes 4 v

theorem leNat_read_lt (m : Mem) (a : Nat) : leNat (Mem.read m a 4) < 2 ^ 32 := by
  have h := leNat_lt (Mem.read m a 4)
  rw [Mem.length_read] at h
  exact h

theorem Byre.ldw_eq (y : Byre) (a : Nat) : y.ldw a = leNat (Mem.read y.mem a 4) := by
  unfold Byre.ldw Mem.ldw
  rw [BitVec.toNat_ofNat, Nat.mod_eq_of_lt (leNat_read_lt ..)]

theorem Byre.ldw_lt (y : Byre) (a : Nat) : y.ldw a < 2 ^ 32 := BitVec.isLt _

namespace Byre

/-- A write that is the first of its cycle collides with none (R284). -/
theorem portWrite_first (y : Byre) (port a : Nat) (bs : List Byte) (h : y.hostWr.1 ≠ y.tu.clk) :
    ∃ l, y.portWrite port a bs = { y.vatWrite a bs with hostWr := l } := by
  unfold portWrite
  simp only [if_neg h, List.any_nil, List.find?_eq_none.mpr fun _ _ => Bool.false_ne_true]
  exact ⟨_, rfl⟩

theorem memWrite_vat (y : Byre) (m : Master) {off : Nat} (v : Nat) (hoff : off < 0xC00000) (h : y.hostWr.1 ≠ y.tu.clk) :
    (y.memWrite m off v).mem = Mem.write y.mem off (leBytes 4 v) ∧ (y.memWrite m off v).regs = y.regs := by
  obtain ⟨l, hl⟩ := y.portWrite_first (if m = .jtag then 1 else 0) off (leBytes 4 v) h
  unfold memWrite
  simp only [if_pos hoff, if_neg (show ¬(0xD00000 ≤ off ∧ off < 0xE00000) by lia), hl]
  exact ⟨rfl, rfl⟩

end Byre

/-! ### Registers of a byre that read as stored -/

/-- An offset outside an array names none of its registers. -/
theorem arrIdx_outside {off base stride count : Nat} (hs : 0 < stride) (h : off < base ∨ base + count * stride ≤ off) :
    arrIdx off base stride count = none := by
  unfold arrIdx
  rw [if_neg]
  rintro ⟨hlo, -, hhi⟩
  rw [Nat.div_lt_iff_lt_mul hs] at hhi
  lia

/-- The blocks BYx_CHURN and BYx_EMU (R26), whose registers all read as stored. -/
def StoredBlock (off : Nat) : Prop := off < 0xC10000 ∨ 0xC40000 ≤ off ∧ off < 0xC50000

namespace Byre

theorem regShow_stored (y : Byre) (cl : Nat → Bool) {off : Nat} (h : StoredBlock off) : y.regShow cl off = y.rdN off := by
  unfold StoredBlock at h
  unfold regShow
  simp (disch := lia) only [arrIdx_outside, if_neg, Option.isSome_none, Bool.false_eq_true]

/-! What a register's read or write does hangs on its entry in the map.  An `unfold` would leave the kernel to evaluate the map at an
offset that is no numeral, so the proofs below put the definition in for the function's name before it is applied. -/

theorem regRead_stored (y : Byre) (m : Master) (cl : Nat → Bool) {off : Nat} {r : RegD} (h : StoredBlock off)
    (hr : byreReg off = some r) :
    y.regRead m cl off =
      (r.flds.foldl (fun y f => if f.acc = .rc then y.wrN off (insBits (y.rdN off) f.hi f.lo 0) else y) y,
        y.rdN off &&& readMask r.flds) := by
  have hshow := y.regShow_stored cl h
  unfold StoredBlock at h
  suffices hbody : ∀ f, f = @regRead → f y m cl off = _ from hbody _ rfl
  intro f hf
  delta regRead at hf
  rw [congrFun (congrFun (congrFun (congrFun hf y) m) cl) off, hr]
  simp (disch := lia) only [arrIdx_outside, if_neg, hshow]

/-- The read of the high half of an octet counter returns what is latched (R126). -/
theorem regRead_octetHi (y : Byre) (m : Master) (cl : Nat → Bool) {off p : Nat} {r : RegD} (hr : byreReg off = some r)
    (hp : p < 24) (hoff : off = R.SW_PORT_CNT_RX_OCT_HI p ∨ off = R.SW_PORT_CNT_TX_OCT_HI p) :
    y.regRead m cl off = (y, SMap.get (fun _ => 0) y.octHi off) := by
  have hport : (off - R.SW_PORT_CTRL 0) / 0x100 = p := by lia
  suffices hbody : ∀ f, f = @regRead → f y m cl off = _ from hbody _ rfl
  intro f hf
  delta regRead at hf
  rw [congrFun (congrFun (congrFun (congrFun hf y) m) cl) off, hr]
  simp only [hport]
  simp (disch := lia) only [arrIdx_outside, if_neg, if_pos]

end Byre

/-! ### BYx_EMU_ENT: a register without an effect of its own -/

theorem byreReg_emuEnt {i : Nat} (h : i < 8) :
    byreReg (R.EMU_ENT i) = some ⟨0xC40020, [(8, 4)], [⟨31, 0, .rw, 0, fun _ => true⟩]⟩ := by
  have hcases : i = 0 ∨ i = 1 ∨ i = 2 ∨ i = 3 ∨ i = 4 ∨ i = 5 ∨ i = 6 ∨ i = 7 := by omega
  rcases hcases with rfl | rfl | rfl | rfl | rfl | rfl | rfl | rfl <;> rfl

namespace Byre

variable {i : Nat} (hi : i < 8)
include hi

theorem fldLegal_emuEnt (y : Byre) (v : Nat) : y.fldLegal (R.EMU_ENT i) ⟨31, 0, .rw, 0, fun _ => true⟩ v = true := by
  unfold fldLegal
  simp (disch := lia) only [if_neg]
  simp

theorem writeFlds_emuEnt (y : Byre) {v : Nat} (hv : v < 2 ^ 32) : y.writeFlds (R.EMU_ENT i) v = y.wrN (R.EMU_ENT i) v := by
  have hold := y.rdN_lt (R.EMU_ENT i)
  have hword : insBits (y.rdN (R.EMU_ENT i)) 31 0 (bits v 31 0) = v := by unfold insBits bits; lia
  suffices hbody : ∀ f, f = @writeFlds → f y (R.EMU_ENT i) v = _ from hbody _ rfl
  intro f hf
  delta writeFlds at hf
  rw [congrFun (congrFun (congrFun hf y) (R.EMU_ENT i)) v, byreReg_emuEnt hi]
  simp only [applyFlds, y.fldLegal_emuEnt hi v, if_true, hword, Bool.false_eq_true, if_false]

theorem wholeBad_emuEnt (y : Byre) (v : Nat) : y.wholeBad (R.EMU_ENT i) v = false := by
  unfold wholeBad
  simp (disch := lia) only [arrIdx_outside, if_neg]

theorem written_emuEnt (y old : Byre) (v : Nat) : y.written old (R.EMU_ENT i) v = y := by
  unfold written
  simp (disch := lia) only [arrIdx_outside, if_neg]

theorem plainWrite_emuEnt (y : Byre) {v : Nat} (hv : v < 2 ^ 32) : y.plainWrite (R.EMU_ENT i) v = y.wrN (R.EMU_ENT i) v := by
  unfold plainWrite
  rw [y.wholeBad_emuEnt hi, y.writeFlds_emuEnt hi hv, written_emuEnt hi]
  rfl

theorem r19ok_emuEnt (y : Byre) : y.r19ok (R.EMU_ENT i) = true := by
  have hlo : R.EMU_ENT 0 ≤ R.EMU_ENT i := by lia
  have hhi : R.EMU_ENT i ≤ R.EMU_ENT 7 := by lia
  unfold r19ok
  simp only [hlo, hhi, decide_true, Bool.and_self, Bool.or_true, Bool.true_or]

theorem mgmtErr_emuEnt (y : Byre) (w : Bool) : y.mgmtErr (R.EMU_ENT i) w = none := by
  rw [y.mgmtErr_reg w (by lia) (by lia) (by rw [byreReg_emuEnt hi]; rfl) (by lia), y.r19ok_emuEnt hi]
  simp

theorem regRead_emuEnt (y : Byre) (m : Master) (cl : Nat → Bool) : y.regRead m cl (R.EMU_ENT i) = (y, y.rdN (R.EMU_ENT i)) := by
  have hword := y.rdN_lt (R.EMU_ENT i)
  rw [y.regRead_stored m cl (.inr ⟨by lia, by lia⟩) (byreReg_emuEnt hi)]
  show (y, y.rdN (R.EMU_ENT i) &&& 2 ^ 32 - 1) = _
  rw [Nat.and_two_pow_sub_one_of_lt_two_pow hword]

end Byre

theorem State.regWrite_emuEnt (s : State) (b : Fin 6) (m : Master) {i : Nat} (v : Nat) (hi : i < 8) :
    s.regWrite b m (R.EMU_ENT i) v = s.fldWrite b m (R.EMU_ENT i) v := by
  unfold State.regWrite State.tableGo State.regWrite.rest
  simp (disch := lia) only [arrIdx_outside, if_neg]

/-! ### BYx_CHURN_COMMIT_MAX: a register that clears as it is read -/

theorem byreReg_commitMax : byreReg R.CHURN_COMMIT_MAX = some ⟨0xC00038, [], [⟨31, 0, .rc, 0, fun _ => true⟩]⟩ := rfl

theorem Byre.regRead_commitMax (y : Byre) (m : Master) (cl : Nat → Bool) :
    y.regRead m cl R.CHURN_COMMIT_MAX = (y.wrN R.CHURN_COMMIT_MAX 0, y.rdN R.CHURN_COMMIT_MAX) := by
  have hword := y.rdN_lt R.CHURN_COMMIT_MAX
  have hclear : insBits (y.rdN R.CHURN_COMMIT_MAX) 31 0 0 = 0 := by unfold insBits bits; lia
  rw [y.regRead_stored m cl (.inl (by decide)) byreReg_commitMax]
  show (y.wrN R.CHURN_COMMIT_MAX (insBits (y.rdN R.CHURN_COMMIT_MAX) 31 0 0), y.rdN R.CHURN_COMMIT_MAX &&& 2 ^ 32 - 1) = _
  rw [Nat.and_two_pow_sub_one_of_lt_two_pow hword, hclear]

end Sys2Proof.Machine
end

section
/-!
SUPPORT. The management SRAM, and the accesses of the host: the registers it may write, CRM_BUS_ERR and the page map (R25, R401 to R405).
-/

namespace Sys2Proof.Machine

/-! ### The management SRAM (R25) -/

namespace Creamery

theorem memWord_lt (c : Creamery) (a : Nat) : c.memWord a < 2 ^ 32 := leNat_read_lt ..

theorem memWord_putWord (c : Creamery) (a v : Nat) : (c.putWord a v).memWord a = v % 2 ^ 32 := leNat_read_write_word ..

@[simp] theorem rdN_linkDown (c : Creamery) (x : Bool) (a : Nat) : ({ c with linkDown := x } : Creamery).rdN a = c.rdN a := rfl

@[simp] theorem regs_putWord (c : Creamery) (a v : Nat) : (c.putWord a v).regs = c.regs := rfl

end Creamery

namespace State

theorem busWrite_sram (s : State) {a : Nat} (v : Nat) (hlo : 0x400000 ≤ a) (hhi : a < 0x800000) :
    s.busWrite .mp a v = s.onCrm fun c => c.putWord a v := by
  unfold busWrite
  simp (disch := lia) only [reaches, reduceCtorEq, false_and, Bool.not_true, Bool.false_eq_true, if_neg, if_pos]

theorem busRead_sram (s : State) {a : Nat} (hlo : 0x400000 ≤ a) (hhi : a < 0x800000) :
    s.busRead .mp a = s.readAs (s.crm.memWord a) := by
  unfold busRead
  simp (disch := lia) only [reaches, Bool.not_true, Bool.false_eq_true, if_neg, if_pos]

/-! ### Accesses of the host (R401, R437) -/

theorem viaHost_shut {s : State} {m : Master} (f : State → State) (h : s.shut m = true) : s.viaHost m f = s := by
  unfold viaHost
  rw [h]
  rfl

theorem shut_host {s : State} {m : Master} (hm : m = .bar0 ∨ m = .bar2) : s.shut m = !s.hostOk := by
  obtain rfl | rfl := hm <;> rfl

theorem viaHost_host {s : State} {m : Master} (f : State → State) (hm : m = .bar0 ∨ m = .bar2) (h : s.hostOk = true) :
    s.viaHost m f = f s.hostSeen := by
  unfold viaHost
  rw [shut_host hm, h]
  obtain rfl | rfl := hm <;> rfl

@[simp] theorem hostSeen_byres (s : State) : s.hostSeen.byres = s.byres := by unfold hostSeen; rw [onCrm_byres]

@[simp] theorem hostSeen_byre (s : State) (b : Fin 6) : s.hostSeen.byre b = s.byre b := by unfold byre; rw [hostSeen_byres]

@[simp] theorem hostSeen_hostOk (s : State) : s.hostSeen.hostOk = s.hostOk := by
  unfold hostOk hostSeen
  rw [onCrm_crm]
  unfold Creamery.hostOpen Creamery.put Creamery.set
  simp only [Creamery.wrN_up, Creamery.wrN_mode]

/-- That the link is seen up shows in one register alone. -/
theorem hostSeen_rdN (s : State) {a : Nat} (h : a ≠ R.AON_CLK_STAT) : s.hostSeen.crm.rdN a = s.crm.rdN a := by
  unfold hostSeen
  rw [onCrm_crm]
  exact (Creamery.rdN_linkDown _ false a).trans (Creamery.rdN_put_ne s.crm true h)

theorem hostSeen_get (s : State) {f : Fld} (h : f.off ≠ R.AON_CLK_STAT) : s.hostSeen.crm.get f = s.crm.get f := by
  unfold Creamery.get
  rw [hostSeen_rdN s h]

theorem hostSeen_flag (s : State) {f : Fld} (h : f.off ≠ R.AON_CLK_STAT) : s.hostSeen.crm.flag f = s.crm.flag f := by
  unfold Creamery.flag
  rw [hostSeen_get s h]

@[simp] theorem hostSeen_on (s : State) (b : Fin 6) (d : Nat) : s.hostSeen.on b d = s.on b d := by
  have hb := b.isLt
  unfold on Creamery.dom
  rw [hostSeen_rdN s (by lia)]

/-- A refused access of the host has changed no byre and is recorded with its cause. -/
def HostRecorded (e : BusErr) (s s' : State) : Prop := s'.byres = s.byres ∧ s'.crm.flag e.fld = true

theorem hostRecorded_busErr {s : State} {m : Master} (e : BusErr) (w : Bool) (a : Nat) (hm : m = .bar0 ∨ m = .bar2)
    (h : s.hostOk = true) : HostRecorded e s (s.hostSeen.busErr e m w a) := by
  have hs : s.hostSeen.shut m = false := by rw [shut_host hm, hostSeen_hostOk, h]; rfl
  obtain ⟨hbyres, hflag, -⟩ := recorded_busErr e w a hs
  exact ⟨hbyres.trans (hostSeen_byres s), hflag⟩

theorem hostRecorded_readErr {s : State} {m : Master} (e : BusErr) (a : Nat) (hm : m = .bar0 ∨ m = .bar2)
    (h : s.hostOk = true) : HostRecorded e s (s.hostSeen.readErr e m a) := hostRecorded_busErr e false a hm h

/-! ### Host writes through BAR index 0 (R402) -/

/-- The page map is not among the registers that the host may write. -/
theorem hostWrite_hwinMap (s : State) {p : Nat} (v : Nat) (hp : p < 256) :
    s.hostWrite (R.CRM_HWIN_MAP p) v = s.busErr .readOnly .bar0 true (R.CRM_HWIN_MAP p) := by
  have hword : R.CRM_HWIN_MAP p / 4 * 4 = R.CRM_HWIN_MAP p := by lia
  have htarget : hostTarget (R.CRM_HWIN_MAP p) = false := by
    unfold hostTarget
    simp (disch := lia) only [arrIdx_outside, Option.isSome_none, Bool.or_false, Bool.false_or,
      Bool.or_eq_false_iff, beq_eq_false_iff_ne]
    lia
  unfold hostWrite
  simp (disch := lia) only [hword, htarget, decide_eq_false, Bool.and_false, Bool.false_eq_true, if_neg, Bool.not_false, if_true]

theorem hostWrite_busErr (s : State) (v : Nat) : s.hostWrite R.CRM_BUS_ERR v = s.crmFlds R.CRM_BUS_ERR v := rfl

end State

namespace Creamery

/-- A write of one-bit W1C fields clears the bits written as 1 and holds no reserved encoding (R7). -/
theorem applyFlds_w1c (is : List Nat) (old new : Nat) :
    (applyFlds (is.map fun i => ⟨i, i, .w1c, 0, fun _ => true⟩) old new).2 = false ∧
    ∀ j, (applyFlds (is.map fun i => ⟨i, i, .w1c, 0, fun _ => true⟩) old new).1.testBit j =
      (old.testBit j && !(decide (j ∈ is) && new.testBit j)) := by
  induction is generalizing old with
  | nil => exact ⟨rfl, fun j => by simp [applyFlds]⟩
  | cons i is ih =>
    obtain ⟨hlegal, hbits⟩ := ih (insBits old i i (bits old i i - (bits old i i &&& bits new i i)))
    refine ⟨hlegal, fun j => (hbits j).trans ?_⟩
    have hone : ∀ x : Nat, bits x i i = (x.testBit i).toNat := fun x => by
      unfold bits
      rw [Nat.add_sub_cancel_left, Nat.toNat_testBit, Nat.pow_one]
    rw [testBit_insBits, hone, hone]
    by_cases hj : j = i
    · subst hj
      rw [if_pos (by lia), Nat.sub_self]
      cases old.testBit j <;> cases new.testBit j <;> simp
    · rw [if_neg (by lia)]
      simp [hj]

theorem crmReg_busErr : crmReg R.CRM_BUS_ERR =
    some ⟨R.CRM_BUS_ERR, [], [6, 5, 4, 3, 2, 1, 0].map fun i => ⟨i, i, .w1c, 0, fun _ => true⟩⟩ := rfl

end Creamery

namespace State

theorem crmFlds_busErr (s : State) (v : Nat) : ∃ w,
    s.crmFlds R.CRM_BUS_ERR v = (s.onCrm fun c => c.wrN R.CRM_BUS_ERR w) ∧
    ∀ i < 7, w.testBit i = ((s.crm.rdN R.CRM_BUS_ERR).testBit i && !v.testBit i) := by
  obtain ⟨hlegal, hbits⟩ := Creamery.applyFlds_w1c [6, 5, 4, 3, 2, 1, 0] (s.crm.rdN R.CRM_BUS_ERR) v
  refine ⟨_, ?_, fun i hi => (hbits i).trans ?_⟩
  · unfold crmFlds
    rw [Creamery.crmReg_busErr]
    simp only [hlegal, Bool.false_and, Bool.false_eq_true, if_false]
  · rw [decide_eq_true (show i ∈ [6, 5, 4, 3, 2, 1, 0] by simp; omega), Bool.true_and]

/-! ### The host window (R405) -/

theorem windowErr_disabled {s : State} {p : Nat} (h : s.crm.flag (F.CRM_HWIN_MAP_EN p) = false) :
    s.windowErr p = some .unmapped := by
  unfold windowErr
  rw [h]
  rfl

theorem windowErr_enabled {s : State} {p : Nat} {b : Fin 6} (h : s.crm.flag (F.CRM_HWIN_MAP_EN p) = true)
    (hb : s.crm.get (F.CRM_HWIN_MAP_BYRE p) = b) :
    s.windowErr p = if !s.on b domFAB then some .domainOff
      else if !(s.byre b).bankOpen (s.crm.get (F.CRM_HWIN_MAP_BANK p)) 0x20 then some .notOwner else none := by
  unfold windowErr
  rw [h, if_neg (by decide), dif_pos (hb ▸ b.isLt)]
  simp only [hb]

theorem windowRead_stopped {s : State} {p : Nat} {e : BusErr} (m : Master) (o n : Nat) (h : s.windowErr p = some e) :
    s.windowRead m p o n = s.readErr e m (0x4000000 + p * 0x40000 + o) := by
  unfold windowRead
  rw [h]

theorem windowRead_byte {s : State} {p : Nat} {b : Fin 6} (m : Master) (o : Nat) (h : s.windowErr p = none)
    (hb : s.crm.get (F.CRM_HWIN_MAP_BYRE p) = b) :
    s.windowRead m p o 1 = s.readAs (Mem.ldb (s.byre b).mem (s.crm.get (F.CRM_HWIN_MAP_BANK p) * 0x40000 + o)).toNat := by
  unfold windowRead windowByte
  rw [h]
  simp [hb, Byre.vatRead, Mem.read, leNat]

end State

theorem exec_registerWrite_bar0 {s : State} {a : Word} (v : Word) (h : s.hostOk = true) (hlo : 0x2000000 ≤ a.toNat)
    (hhi : a.toNat < 0x4000000) : exec (.registerWrite .bar0 a v) s = .next (s.hostSeen.hostWrite a.toNat v.toNat) := by
  refine congrArg Host.Outcome.next ((State.viaHost_host _ (.inl rfl) h).trans ?_)
  unfold State.busWrite State.reaches
  simp [hlo, hhi]

theorem exec_hostWindowRead {s : State} (p : Fin 256) (o : BitVec 18) (h : s.hostOk = true) :
    exec (.hostWindowRead p o) s = .next (s.hostSeen.windowRead .bar2 p o.toNat 1) :=
  congrArg Host.Outcome.next (State.viaHost_host _ (.inr rfl) h)

/-- A write through BAR index 0 beyond its range is recorded (R401). -/
theorem exec_registerWrite_bar0_beyond {s : State} {a : Word} (v : Word) (h : s.hostOk = true) (ha : 0x4000000 ≤ a.toNat) :
    exec (.registerWrite .bar0 a v) s = .next (s.hostSeen.busErr .unmapped .bar0 true a.toNat) := by
  refine congrArg Host.Outcome.next ((State.viaHost_host _ (.inl rfl) h).trans ?_)
  unfold State.busWrite State.reaches
  simp (disch := lia) [decide_eq_false]

/-- A read through BAR index 2 below its range is recorded (R401). -/
theorem exec_rcRead_bar2_below {s : State} {a : Word} (h : s.hostOk = true) (ha : a.toNat < 0x4000000) :
    exec (.rcRead .bar2 a) s = .next (s.hostSeen.readErr .unmapped .bar2 a.toNat) := by
  refine congrArg Host.Outcome.next ((State.viaHost_host _ (.inr rfl) h).trans ?_)
  unfold State.busRead State.reaches
  simp (disch := lia) [decide_eq_false]

end Sys2Proof.Machine
end

section
/-!
Settles O41: the clauses of Claims.ByreViewAccess, Claims.HostAccess and Claims.OctetCounters, and the obligation made of them.
-/

namespace Sys2Proof.Machine

/-! ### The clauses of Claims.ByreViewAccess -/

/-- The access changes no byre and is recorded with that cause. -/
def Refused (e : BusErr) (c : Instr) (s : State) : Prop := ∃ s', exec c s = .next s' ∧ State.Recorded e s s'

/-- The read is refused and answers 0. -/
def ReadRefused (e : BusErr) (c : Instr) (s : State) : Prop := Refused e c s ∧ ∀ s', exec c s = .next s' → s'.busRd = 0#32

section ByreView

variable {s : State} {b : Fin 6} {m : Master} {off : Nat} (hm : m = .mp ∨ m = .jtag) (hs : s.shut m = false)
  (hoff : off < 0xF10000)
include hm hs hoff

theorem rcRead_stopped {e : BusErr} (h : s.stop b m off false = some e) :
    ReadRefused e (.rcRead m (BitVec.ofNat 32 (State.byreAddr b off))) s := by
  have hx := exec_rcRead_byreAddr b hm hs (show off < 0x1000000 by omega)
  rw [State.regRead_stopped h] at hx
  refine ⟨⟨_, hx, State.recorded_readErr e _ hs⟩, fun s' h' => ?_⟩
  rw [hx] at h'
  cases h'
  rfl

theorem registerWrite_stopped {e : BusErr} {v : Word} {f : Byre → Byre}
    (hw : s.regWrite b m off v.toNat = s.mgmtWrite b m off f) (h : s.stop b m off true = some e) :
    Refused e (.registerWrite m (BitVec.ofNat 32 (State.byreAddr b off)) v) s := by
  have hx := exec_registerWrite_byreAddr b v hm hs (show off < 0x1000000 by omega)
  rw [hw, State.mgmtWrite_stopped f h] at hx
  exact ⟨_, hx, State.recorded_busErr e true _ hs⟩

theorem registerWrite_taken {v : Word} {f : Byre → Byre} {P : Byre → Prop}
    (hw : s.regWrite b m off v.toNat = s.mgmtWrite b m off f) (h : Taken s b m off) (hP : P (f (s.byre b))) :
    ByreStep (.registerWrite m (BitVec.ofNat 32 (State.byreAddr b off)) v) s b P := by
  have hx := exec_registerWrite_byreAddr b v hm hs (show off < 0x1000000 by omega)
  rw [hw, State.mgmtWrite_taken f h] at hx
  exact ⟨_, hx, hP⟩

theorem registerWrite_vat {v : Word} (hvat : off < 0xC00000) (h : Taken s b m off)
    (hfirst : (s.byre b).hostWr.1 ≠ (s.byre b).tu.clk) :
    ByreStep (.registerWrite m (BitVec.ofNat 32 (State.byreAddr b off)) v) s b fun y' =>
      y'.ldw (off / 4 * 4) = v.toNat ∧
      (∀ o, o < off / 4 * 4 ∨ off / 4 * 4 + 4 ≤ o → Mem.ldb y'.mem o = Mem.ldb (s.byre b).mem o) ∧
      y'.regs = (s.byre b).regs := by
  refine registerWrite_taken hm hs hoff (s.regWrite_mem b m v.toNat (.inl hvat)) h ?_
  obtain ⟨hmem, hregs⟩ := (s.byre b).memWrite_vat m v.toNat (show off / 4 * 4 < 0xC00000 by lia) hfirst
  refine ⟨?_, fun o ho => ?_, hregs⟩
  · rw [Byre.ldw_eq, hmem, leNat_read_write_word, Nat.mod_eq_of_lt v.isLt]
  · rw [hmem, Mem.ldb_write_out (by rw [length_leBytes]; exact ho)]

theorem rcRead_vat (hvat : off < 0xC00000) (h : s.stop b m off false = none) :
    ∃ s', exec (.rcRead m (BitVec.ofNat 32 (State.byreAddr b off))) s = .next s' ∧
      s'.busRd.toNat = (s.byre b).ldw (off / 4 * 4) ∧ s'.byre b = { s.byre b with evq := (s'.byre b).evq } := by
  have hx := exec_rcRead_byreAddr b hm hs (show off < 0x1000000 by omega)
  rw [State.regRead_mem h (.inl hvat)] at hx
  refine ⟨_, hx, ?_, State.onByre_byre_self s b fun _ => s.byre b⟩
  rw [State.readAs_busRd, BitVec.toNat_ofNat, Nat.mod_eq_of_lt (Byre.ldw_lt ..)]

/-- A read of a register answers what the byre's read port answers, and leaves its registers as that does. -/
theorem rcRead_reg {y' : Byre} {v : Nat} (hlo : 0xC00000 ≤ off) (hhi : off < 0xD00000) (h : s.stop b m off false = none)
    (hf : (s.byre b).regRead m (s.cls b) off = (y', v)) :
    ∃ s', exec (.rcRead m (BitVec.ofNat 32 (State.byreAddr b off))) s = .next s' ∧
      s'.busRd = BitVec.ofNat 32 v ∧ (s'.byre b).regs = y'.regs := by
  have hx := exec_rcRead_byreAddr b hm hs (show off < 0x1000000 by omega)
  rw [State.regRead_reg h hlo hhi hf] at hx
  exact ⟨_, hx, rfl, State.onByre_regs ..⟩

end ByreView

theorem registerWrite_emuEnt {s : State} {b : Fin 6} {m : Master} {i : Nat} (v : Word) (hm : m = .mp ∨ m = .jtag)
    (hs : s.shut m = false) (hd : s.on b domFAB = true) (hi : i < 8) :
    ByreStep (.registerWrite m (BitVec.ofNat 32 (State.byreAddr b (R.EMU_ENT i))) v) s b fun y' =>
      y'.rd (R.EMU_ENT i) = v ∧ (s.byre b).KeepsRegs y' [R.EMU_ENT i] ∧ y'.mem = (s.byre b).mem := by
  have h : Taken s b m (R.EMU_ENT i) := (State.stop_on _ true hm hs hd).trans ((s.byre b).mgmtErr_emuEnt hi true)
  refine registerWrite_taken hm hs (by lia) (s.regWrite_emuEnt b m v.toNat hi) h ?_
  rw [(s.byre b).plainWrite_emuEnt hi v.isLt]
  refine ⟨?_, fun o ho => ?_, rfl⟩
  · rw [Byre.rd_wrN, if_pos rfl, BitVec.ofNat_toNat, BitVec.setWidth_eq]
  · rw [Byre.rd_wrN, if_neg (by simpa using ho)]

theorem rcRead_emuEnt {s : State} {b : Fin 6} {m : Master} {i : Nat} (hm : m = .mp ∨ m = .jtag) (hs : s.shut m = false)
    (hd : s.on b domFAB = true) (hi : i < 8) :
    ∃ s', exec (.rcRead m (BitVec.ofNat 32 (State.byreAddr b (R.EMU_ENT i)))) s = .next s' ∧
      s'.busRd = (s.byre b).rd (R.EMU_ENT i) ∧ (s'.byre b).regs = (s.byre b).regs := by
  have h := (State.stop_on (R.EMU_ENT i) false hm hs hd).trans ((s.byre b).mgmtErr_emuEnt hi false)
  obtain ⟨s', hx, hrd, hregs⟩ := rcRead_reg hm hs (show R.EMU_ENT i < 0xF10000 by lia) (by lia) (by lia) h
    ((s.byre b).regRead_emuEnt hi m (s.cls b))
  exact ⟨s', hx, hrd.trans (Byre.ofNat_rdN ..), hregs⟩

theorem rcRead_commitMax {s : State} {b : Fin 6} {m : Master} (hm : m = .mp ∨ m = .jtag) (hs : s.shut m = false)
    (hd : s.on b domFAB = true) :
    ∃ s', exec (.rcRead m (BitVec.ofNat 32 (State.byreAddr b R.CHURN_COMMIT_MAX))) s = .next s' ∧
      s'.busRd = (s.byre b).rd R.CHURN_COMMIT_MAX ∧
      (s'.byre b).rd R.CHURN_COMMIT_MAX = 0#32 ∧ (s.byre b).KeepsRegs (s'.byre b) [R.CHURN_COMMIT_MAX] := by
  have h := (State.stop_on R.CHURN_COMMIT_MAX false hm hs hd).trans
    ((s.byre b).mgmtErr_reg_read (by decide) (by decide) (by rw [byreReg_commitMax]; rfl) (by decide))
  obtain ⟨s', hx, hrd, hregs⟩ := rcRead_reg hm hs (show R.CHURN_COMMIT_MAX < 0xF10000 by decide) (by decide) (by decide) h
    ((s.byre b).regRead_commitMax m (s.cls b))
  have hread : ∀ o, (s'.byre b).rd o = ((s.byre b).wrN R.CHURN_COMMIT_MAX 0).rd o := fun o => by unfold Byre.rd; rw [hregs]
  refine ⟨s', hx, hrd.trans (Byre.ofNat_rdN ..), ?_, fun o ho => ?_⟩
  · rw [hread, Byre.rd_wrN, if_pos rfl]
  · rw [hread, Byre.rd_wrN, if_neg (by simpa using ho)]

/-- While the domain is off, every read, and every write that a command of its own does not take, is refused (R28). -/
theorem byreView_domainOff {s : State} {b : Fin 6} {m : Master} {off : Nat} (v : Word) (hm : m = .mp ∨ m = .jtag)
    (hs : s.shut m = false) (hoff : off < 0xF10000) (hd : s.on b domFAB = false) :
    ReadRefused .domainOff (.rcRead m (BitVec.ofNat 32 (State.byreAddr b off))) s ∧
    (off < 0xC00000 ∨ 0xD00000 ≤ off ∨ (∃ i < 8, off = R.EMU_ENT i) →
      Refused .domainOff (.registerWrite m (BitVec.ofNat 32 (State.byreAddr b off)) v) s) := by
  refine ⟨rcRead_stopped hm hs hoff (State.stop_off off false hm hs hd), ?_⟩
  have hstop := State.stop_off off true hm hs hd
  rintro (h | h | ⟨i, hi, rfl⟩)
  · exact registerWrite_stopped hm hs hoff (s.regWrite_mem b m _ (.inl h)) hstop
  · exact registerWrite_stopped hm hs hoff (s.regWrite_mem b m _ (.inr h)) hstop
  · exact registerWrite_stopped hm hs hoff (s.regWrite_emuEnt b m _ hi) hstop

theorem sram_access (s : State) (v w : Word) (hlo : 0x400000 ≤ w.toNat) (hhi : w.toNat < 0x800000) :
    (CrmStep (.registerWrite .mp w v) s fun c => c.memWord w.toNat = v.toNat ∧ c.regs = s.crm.regs) ∧
    ∃ s', exec (.rcRead .mp w) s = .next s' ∧ s'.busRd.toNat = s.crm.memWord w.toNat ∧ s'.crm = s.crm ∧ s'.byres = s.byres := by
  have hwrite := exec_registerWrite_mgmt (s := s) w v (.inl rfl) rfl
  have hread := exec_rcRead_mgmt (s := s) w (.inl rfl) rfl
  rw [State.busWrite_sram s _ hlo hhi] at hwrite
  rw [State.busRead_sram s hlo hhi] at hread
  refine ⟨⟨_, hwrite, ?_, Creamery.regs_putWord ..⟩, _, hread, ?_, rfl, rfl⟩
  · rw [Creamery.memWord_putWord, Nat.mod_eq_of_lt v.isLt]
  · rw [State.readAs_busRd, BitVec.toNat_ofNat, Nat.mod_eq_of_lt (Creamery.memWord_lt ..)]

theorem byreViewAccess : Claims.ByreViewAccess := by
  intro s b m off v hm hs hoff y a recorded read0
  refine ⟨byreView_domainOff v hm hs hoff, fun hd => ?domainOn, fun w => sram_access s v w⟩
  have hstop : ∀ w, s.stop b m off w = y.mgmtErr off w := fun w => State.stop_on off w hm hs hd
  refine ⟨?misaligned, ?bankOfAnother, ?bankOfWindow, ?storedRegister, ?rcRegister⟩
  case misaligned =>
    intro hlo hhi hr ha
    have herr : ∀ w, s.stop b m off w = some .align := fun w => (hstop w).trans (y.mgmtErr_misaligned w hlo hhi hr ha)
    exact ⟨registerWrite_stopped hm hs hoff (s.regWrite_misaligned b m _ hlo hhi ha) (herr true),
      rcRead_stopped hm hs hoff (herr false)⟩
  case bankOfAnother =>
    intro hvat hown
    have herr : ∀ w, s.stop b m off w = some .notOwner := fun w => by rw [hstop, y.mgmtErr_vat w hvat, hown]; rfl
    exact ⟨registerWrite_stopped hm hs hoff (s.regWrite_mem b m _ (.inl hvat)) (herr true),
      rcRead_stopped hm hs hoff (herr false)⟩
  case bankOfWindow =>
    intro hvat hown
    have hnone : ∀ w, s.stop b m off w = none := fun w => by rw [hstop, y.mgmtErr_vat w hvat, hown]; rfl
    exact ⟨registerWrite_vat hm hs hoff hvat (hnone true), rcRead_vat hm hs hoff hvat (hnone false)⟩
  case storedRegister =>
    rintro i hi rfl
    exact ⟨registerWrite_emuEnt v hm hs hd hi, rcRead_emuEnt hm hs hd hi⟩
  case rcRegister =>
    rintro rfl
    exact rcRead_commitMax hm hs hd

/-! ### The clauses of Claims.HostAccess -/

/-- The host's access changes no byre and is recorded with that cause. -/
def HostRefused (e : BusErr) (c : Instr) (s : State) : Prop := ∃ s', exec c s = .next s' ∧ State.HostRecorded e s s'

section Host

variable {s : State}

theorem exec_host_shut (h : s.hostOk = false) (p : Fin 256) (o : BitVec 18) (a v : Word) :
    ∀ c ∈ [Instr.registerWrite .bar0 a v, .rcRead .bar0 a, .rcRead .bar2 a, .hostWindowRead p o], exec c s = .next s := by
  have hshut : ∀ {m : Master}, m = .bar0 ∨ m = .bar2 → s.shut m = true := fun hm => by rw [State.shut_host hm, h]; rfl
  have hstay : ∀ {m : Master} (f : State → State), m = .bar0 ∨ m = .bar2 →
      (.next (s.viaHost m f) : Host.Outcome State Fault Refusal) = .next s :=
    fun f hm => congrArg _ (State.viaHost_shut f (hshut hm))
  simp only [List.forall_mem_cons]
  exact ⟨hstay _ (.inl rfl), hstay _ (.inl rfl), hstay _ (.inr rfl), hstay _ (.inr rfl), List.forall_mem_nil _⟩

variable (h : s.hostOk = true)
include h

theorem registerWrite_hwinMap (p : Fin 256) (v : Word) :
    HostRefused .readOnly (.registerWrite .bar0 (BitVec.ofNat 32 (R.CRM_HWIN_MAP p)) v) s ∧
    ∀ s', exec (.registerWrite .bar0 (BitVec.ofNat 32 (R.CRM_HWIN_MAP p)) v) s = .next s' →
      s'.crm.rdN (R.CRM_HWIN_MAP p) = s.crm.rdN (R.CRM_HWIN_MAP p) := by
  have hp := p.isLt
  have ha : (BitVec.ofNat 32 (R.CRM_HWIN_MAP p)).toNat = R.CRM_HWIN_MAP p := by
    rw [BitVec.toNat_ofNat, Nat.mod_eq_of_lt (by lia)]
  have hx := exec_registerWrite_bar0 v h (a := BitVec.ofNat 32 (R.CRM_HWIN_MAP p)) (by lia) (by lia)
  rw [ha, State.hostWrite_hwinMap _ _ hp] at hx
  refine ⟨⟨_, hx, State.hostRecorded_busErr _ _ _ (.inl rfl) h⟩, fun s' h' => ?_⟩
  rw [hx] at h'
  cases h'
  have hs : s.hostSeen.shut .bar0 = false := by rw [State.shut_host (.inl rfl), State.hostSeen_hostOk, h]; rfl
  rw [State.busErr_open _ _ _ hs, State.onCrm_crm, Creamery.rdN_busErr_ne _ _ _ _ _ (by lia), State.hostSeen_rdN s (by lia)]

theorem registerWrite_bar0_byre (b : Fin 6) (v : Word) :
    HostRefused .unmapped (.registerWrite .bar0 (BitVec.ofNat 32 (State.byreAddr b (R.EMU_ENT 0))) v) s :=
  have ha : 0x4000000 ≤ (BitVec.ofNat 32 (State.byreAddr b (R.EMU_ENT 0))).toNat := by
    rw [State.toNat_byreAddr b (by decide)]; unfold State.byreAddr; omega
  ⟨_, exec_registerWrite_bar0_beyond v h ha, State.hostRecorded_busErr _ _ _ (.inl rfl) h⟩

theorem rcRead_bar2_hwinMap (p : Fin 256) : HostRefused .unmapped (.rcRead .bar2 (BitVec.ofNat 32 (R.CRM_HWIN_MAP p))) s :=
  have ha : (BitVec.ofNat 32 (R.CRM_HWIN_MAP p)).toNat < 0x4000000 := by
    have hp := p.isLt
    rw [BitVec.toNat_ofNat]; lia
  ⟨_, exec_rcRead_bar2_below h ha, State.hostRecorded_readErr _ _ (.inr rfl) h⟩

theorem registerWrite_bar0_busErr (v : Word) :
    ∃ s', exec (.registerWrite .bar0 (BitVec.ofNat 32 R.CRM_BUS_ERR) v) s = .next s' ∧ s'.byres = s.byres ∧
      ∀ i < 7, bit (s'.crm.rdN R.CRM_BUS_ERR) i = (bit (s.crm.rdN R.CRM_BUS_ERR) i && !v.getLsbD i) := by
  have hx := exec_registerWrite_bar0 v h (a := BitVec.ofNat 32 R.CRM_BUS_ERR) (by decide) (by decide)
  obtain ⟨w, hw, hbits⟩ := s.hostSeen.crmFlds_busErr v.toNat
  change exec _ s = .next (s.hostSeen.hostWrite R.CRM_BUS_ERR v.toNat) at hx
  rw [State.hostWrite_busErr, hw] at hx
  refine ⟨_, hx, (State.onCrm_byres ..).trans s.hostSeen_byres, fun i hi => ?_⟩
  rw [State.onCrm_crm, Creamery.rdN_wrN_self, bit_eq_testBit, bit_eq_testBit, Nat.testBit_mod_two_pow,
    decide_eq_true (show i < 32 by lia), Bool.true_and, hbits i hi, State.hostSeen_rdN s (by decide)]
  rfl

theorem hostWindowRead_stopped {p : Fin 256} {e : BusErr} (o : BitVec 18) (herr : s.hostSeen.windowErr p = some e) :
    HostRefused e (.hostWindowRead p o) s ∧ ∀ s', exec (.hostWindowRead p o) s = .next s' → s'.busRd = 0#32 := by
  have hx := exec_hostWindowRead p o h
  rw [State.windowRead_stopped _ _ _ herr] at hx
  refine ⟨⟨_, hx, State.hostRecorded_readErr _ _ (.inr rfl) h⟩, fun s' h' => ?_⟩
  rw [hx] at h'
  cases h'
  rfl

end Host

/-- What stops a read through an enabled page is the same once the link is seen up. -/
theorem State.hostSeen_windowErr {s : State} {p : Fin 256} {b : Fin 6} (hen : s.crm.flag (F.CRM_HWIN_MAP_EN p) = true)
    (hb : s.crm.get (F.CRM_HWIN_MAP_BYRE p) = b) :
    s.hostSeen.windowErr p = if !s.on b domFAB then some .domainOff
      else if !(s.byre b).bankOpen (s.crm.get (F.CRM_HWIN_MAP_BANK p)) 0x20 then some .notOwner else none := by
  have hp := p.isLt
  have hne : R.CRM_HWIN_MAP p ≠ R.AON_CLK_STAT := by lia
  rw [windowErr_enabled ((hostSeen_flag s hne).trans hen) ((hostSeen_get s hne).trans hb), hostSeen_on, hostSeen_byre,
    hostSeen_get s hne]

theorem hostWindowRead_byte {s : State} {p : Fin 256} {b : Fin 6} (o : BitVec 18) (h : s.hostOk = true)
    (hb : s.crm.get (F.CRM_HWIN_MAP_BYRE p) = b) (hnone : s.hostSeen.windowErr p = none) :
    ∃ s', exec (.hostWindowRead p o) s = .next s' ∧ s'.byres = s.byres ∧
      s'.busRd = (Mem.ldb (s.byre b).mem (s.crm.get (F.CRM_HWIN_MAP_BANK p) * 0x40000 + o.toNat)).setWidth 32 := by
  have hp := p.isLt
  have hne : R.CRM_HWIN_MAP p ≠ R.AON_CLK_STAT := by lia
  have hx := exec_hostWindowRead p o h
  rw [State.windowRead_byte _ _ hnone ((State.hostSeen_get s hne).trans hb), State.hostSeen_byre, State.hostSeen_get s hne] at hx
  refine ⟨_, hx, (State.readAs_byres ..).trans s.hostSeen_byres, ?_⟩
  rw [State.readAs_busRd, BitVec.ofNat_toNat]

theorem hostAccess : Claims.HostAccess := by
  intro s p o v b a recorded read0 bank
  refine ⟨fun h => exec_host_shut h p o a v, fun h => ⟨registerWrite_hwinMap h p v, registerWrite_bar0_byre h b v,
    rcRead_bar2_hwinMap h p, registerWrite_bar0_busErr h v, ?pageOff, fun hen hb => ?pageOn⟩⟩
  case pageOff =>
    intro hen
    have hp := p.isLt
    exact hostWindowRead_stopped h o (State.windowErr_disabled ((State.hostSeen_flag s (by lia)).trans hen))
  case pageOn =>
    have herr := State.hostSeen_windowErr hen hb
    refine ⟨fun hd => ?domainOff, fun hd hown => ?notOwner, fun hd hown => ?granted⟩
    case domainOff => exact hostWindowRead_stopped h o (herr.trans (by rw [hd]; rfl))
    case notOwner => exact hostWindowRead_stopped h o (herr.trans (by rw [hd, hown]; rfl))
    case granted => exact hostWindowRead_byte o h hb (herr.trans (by rw [hd, hown]; rfl))

/-! ### Claims.OctetCounters -/

theorem byreReg_octetHi (p : Fin 24) (tx : Bool) :
    (byreReg ((if tx then R.SW_PORT_CNT_TX_OCT_LO p else R.SW_PORT_CNT_RX_OCT_LO p) + 4)).isSome = true := by
  revert p tx
  decide

theorem octetCounters : Claims.OctetCounters := by
  intro s b m p tx lo hi hstop
  have hp := p.isLt
  have hside : lo + 4 = R.SW_PORT_CNT_RX_OCT_HI p ∨ lo + 4 = R.SW_PORT_CNT_TX_OCT_HI p := by
    cases tx
    · exact .inl (show R.SW_PORT_CNT_RX_OCT_LO p + 4 = _ by lia)
    · exact .inr (show R.SW_PORT_CNT_TX_OCT_LO p + 4 = _ by lia)
  obtain ⟨r, hr⟩ := Option.isSome_iff_exists.mp (byreReg_octetHi p tx)
  refine ⟨_, congrArg Host.Outcome.next (State.mgmtRead_taken hstop rfl), Byre.ofNat_rdN .., State.onByre_regs ..,
    fun s'' hd hlatch => ?_⟩
  have hlo : 0xC00000 ≤ lo + 4 := by lia
  have hhi : lo + 4 < 0xD00000 := by lia
  have hnone := (State.stop_on (s := s'') (b := b) (lo + 4) false (.inl rfl) rfl hd).trans
    ((s''.byre b).mgmtErr_reg_read hlo hhi (byreReg_octetHi p tx) (by lia))
  obtain ⟨t, hx, hrd, -⟩ := rcRead_reg (.inl rfl) rfl (by lia) hlo hhi hnone
    ((s''.byre b).regRead_octetHi .mp (s''.cls b) hr hp hside)
  refine ⟨t, hx, hrd.trans ?_⟩
  rw [hlatch, State.readAs_byre, State.onByre_octHi, SMap.get_set_self]
  exact Byre.ofNat_rdN ..

/-- Settles O41: the clauses of each access, by what stops it and by what it reads or writes where nothing does. -/
theorem registerAccess : Obligations.RegisterAccess := ⟨byreViewAccess, hostAccess, octetCounters⟩

end Sys2Proof.Machine
end
